-- ==== Sys2Proof/Word.lean ====
section
/-!
DEFINITION. Word.lean: the word types of the Nelod block and the names of plain sets (streams, requesters, formats).
Numbers follow R11 to R13 of spec/00_scope.md; Grains of data are lists of bytes, byte 0 first (R13).
-/

namespace Sys2Proof

/-- One byte of memory. -/
abbrev Byte := BitVec 8
/-- A 32-bit register or word. -/
abbrev W32 := BitVec 32
/-- A 64-bit word: Beat counts, host bus addresses, command identifiers. -/
abbrev W64 := BitVec 64
/-- The register width of An (Table 7.6). -/
abbrev W48 := BitVec 48
/-- A host bus address (R263). -/
abbrev HostAddr := BitVec 64
/-- A local byte address or Global Scratchpad Address is kept as a number (R129). -/
abbrev Addr := Nat
/-- A byte memory: (address, byte) pairs in canonical form, unlisted bytes reading zero. -/
abbrev Mem := List (Nat × BitVec 8)
/-- A sparse map from numbers: strictly rising keys, no entry equal to the default. -/
abbrev SMap (α : Type) := List (Nat × α)

end Sys2Proof
end

