-- ==== Sys2Proof/Syntax.lean ====
section
/-!
DEFINITION. Syntax.lean: the commands of the block, one constructor of Instr for each row of spec/opcode_table.json, with
the operands the spec gives them. The table gives the rows no bits, so the operands come from the tables of the chapters:
8.6 to 8.12 for the stream instructions, 11.6 to 11.9 and 14.4 for the host commands, 17, 18 for registers, and the rules cited
at each structure. Log 1 says what a command brings with it (host memory contents, verdicts of authentication) and why.
-/

namespace Sys2Proof

/-- The seven streams of a core, coded as in Table 9.2 (R155). -/
inductive Strm
  | control | load | store | move | matrix | strudel | glaze
deriving DecidableEq, Repr

/-- Who makes a register access (R262, R284, R415). `vf n` is VF n, n = 1 to 16. -/
inductive Func
  | pf | vf (n : Nat) | mc
deriving DecidableEq, Repr

/-- The issue of one stream instruction: physical core, stream, the cycle of its placement in the current Beat, its physical PC
(R231) and the block-end mark (R155). -/
structure Iss where
  core : Nat
  strm : Strm
  at_  : Nat
  pc   : W32
  fin  : Bool
deriving DecidableEq, Repr

/-- COND word of Table 8.3: landing counter, hold group (bit 0 Move, 1 Matrix, 2 Strudel, 3 Glaze) and value. -/
structure Cond where
  sc : Nat
  hg : BitVec 4
  v  : W32
deriving DecidableEq, Repr

/-- What stands behind an open-mode WAITSC in the physical code (R178). -/
inductive WaitNext
  | realign | segend | other
deriving DecidableEq, Repr

/-- SIGNAL word of Table 8.3. -/
structure Sig where
  sc  : Nat
  amt : W32
deriving DecidableEq, Repr

/-- CHECK word of Table 8.3: enables and four-bit expected tags of the source operands. -/
structure Chk where
  en  : BitVec 3
  tag : BitVec 16
deriving DecidableEq, Repr

/-- The extension words COND, SIGNAL and CHECK of an instruction (R186, R187). -/
structure Ext where
  cond : Option Cond
  sig  : Option Sig
  chk  : Option Chk
deriving DecidableEq, Repr

/-- Registers of Table 8.4. `d n l` is stride Dn.L. -/
inductive Reg
  | s (n : Nat) | l (n : Nat) | sd (n : Nat) | an (n : Nat)
  | a (n : Nat) | d (n : Nat) (lvl : Nat) | p (n : Nat)
deriving DecidableEq, Repr

/-- Sources of SET, ADD and SUB (Table 8.4). -/
inductive Src
  | reg (r : Reg) | imm32 (v : W32) | imm48 (v : W48)
deriving DecidableEq, Repr

/-- Second operand of CMP (Table 8.6). -/
inductive CmpSrc
  | s (n : Nat) | imm (v : W32) | sc (n : Nat)
deriving DecidableEq, Repr

/-- Operands of LDS, LDH, LDW (Table 8.7): A of the local destination, A of the offset, P of the object, counter, length. -/
structure LdOps where
  aDst : Nat
  aOff : Nat
  pObj : Nat
  sc   : Nat
  len  : Nat
deriving DecidableEq, Repr

/-- Operands of STS, STH (Table 8.7). -/
structure StOps where
  dg   : Bool
  aSrc : Nat
  aOff : Nat
  pObj : Nat
  dstr : Nat
  len  : Nat
deriving DecidableEq, Repr

/-- Array modes of Table 4.2. -/
inductive AMode
  | torte | tier | solo
deriving DecidableEq, Repr

/-- Output modes of Table 4.3. -/
inductive OMode
  | acc | fused | spill
deriving DecidableEq, Repr

/-- One shadow load of a HOLD (Table 8.8, R201): Springen expands the HOLD into one such issue for each hold() of the fold of the MMA
it binds to (R102). `unit`, `units` and `mode` are those of the HOLD; `k`, `chans` and `kg` that fold's depth, held extent and Grains to a cell; the load
is hold(unit, `panel`, `chunk`), the unit being the one at place `panel` mod `units`. -/
structure HoldOps where
  aBase : Nat
  aDesc : Nat
  unit  : Nat
  units : Nat
  mode  : AMode
  pitch : Nat
  k     : Nat
  chans : Nat
  kg    : Nat
  panel : Nat
  chunk : Nat
deriving DecidableEq, Repr

/-- MMA (Table 8.8). `units`, `m`, `n`, `k` are the counts themselves (the fields hold them less one). -/
structure MmaOps where
  clear   : Bool
  carried : Bool
  aBase   : Nat
  aDesc   : Nat
  unit    : Nat
  units   : Nat
  mode    : AMode
  aHeld   : Bool
  out     : OMode
  anchor  : Nat
  pitch   : Nat
  m       : Nat
  n       : Nat
  k       : Nat
  aOut    : Nat
  aRec    : Nat
  ofmt    : Nat
  oexp    : BitVec 8
  stoch   : Bool
  seed    : Nat
  pIdx    : Nat
  close   : Bool
  opitch  : Nat
deriving DecidableEq, Repr

/-- DRAIN (Table 8.8). -/
structure DrainOps where
  clear   : Bool
  carried : Bool
  close   : Bool
  trans   : Bool
  aOut    : Nat
  aRec    : Nat
  wafer   : Nat
  wafers  : Nat
  e0      : Nat
  e1      : Nat
  ofmt    : Nat
  oexp    : BitVec 8
  stoch   : Bool
  seed    : Nat
  pIdx    : Nat
  opitch  : Nat
  nt      : W32
deriving DecidableEq, Repr

/-- SPILL, RELOAD, ACCUMULATE (Table 8.8). -/
structure SpillOps where
  aBase  : Nat
  wafer  : Nat
  wafers : Nat
  e0     : Nat
  e1     : Nat
deriving DecidableEq, Repr

/-- EWM (Table 8.8). `cycles` is the count itself. -/
structure EwmOps where
  clear  : Bool
  aX     : Nat
  aY     : Nat
  wafer  : Nat
  wafers : Nat
  e      : Nat
  xfmt   : Nat
  yfmt   : Nat
  anchor : Nat
  cycles : Nat
deriving DecidableEq, Repr

/-- MERINGUE (Table 8.8). -/
structure MerOps where
  torte  : Nat
  tortes : Nat
  cycles : Nat
  mdens  : Nat
  follow : Bool
deriving DecidableEq, Repr

/-- MVX (Table 8.9). `k`, `nr`, `nb` are the counts themselves. -/
structure MvxOps where
  clear   : Bool
  carried : Bool
  aW      : Nat
  aX      : Nat
  aDW     : Nat
  aDX     : Nat
  k       : Nat
  nr      : Nat
  nb      : Nat
  e0      : Nat
  anchor  : Nat
  aRec    : Nat
  xstride : Nat
deriving DecidableEq, Repr

/-- SDRAIN (Table 8.9). -/
structure SdrainOps where
  clear   : Bool
  carried : Bool
  close   : Bool
  aOut    : Nat
  aRec    : Nat
  e0      : Nat
  e1      : Nat
  ofmt    : Nat
  oexp    : BitVec 8
  stoch   : Bool
  seed    : Nat
  pIdx    : Nat
  opitch  : Nat
  nb      : Nat
deriving DecidableEq, Repr

/-- Glaze element-wise instructions (R207). `n` is the element count. -/
structure GzOps where
  aDst : Nat
  a1   : Nat
  a2   : Nat
  a3   : Nat
  dfmt : Nat
  sfmt : Nat
  n    : Nat
deriving DecidableEq, Repr

/-- VSUMX (R210). -/
structure VsOps where
  clear : Bool
  aDst  : Nat
  aSrc  : Nat
  ws    : Nat
  dfmt  : Nat
  sfmt  : Nat
  n     : Nat
deriving DecidableEq, Repr

/-- VQUANT (R211). -/
structure VqOps where
  mx    : Bool
  stoch : Bool
  seed  : Nat
  aDst  : Nat
  aSrc  : Nat
  aDesc : Nat
  p     : Nat
  sfmt  : Nat
  n     : Nat
deriving DecidableEq, Repr

/-- XOP (R212). `outs` is what the slot's fabric answers at each expected output slot cycle: a Granule, or nothing when
SLs_OVAL is low (R345, R346). The fabric is outside the block (Table 14.1). -/
structure XopOps where
  aDst : Nat
  aSrc : Nat
  slot : Nat
  code : Nat
  n    : Nat
  outs : List (Option (List (BitVec 8)))
deriving DecidableEq, Repr

/-! ### Host-shared records (chapters 10 and 11) -/

/-- Completion of a non-posted request (R263). -/
inductive HostCpl
  | ok (data : List (BitVec 8)) | unsupported | abort | poisoned
deriving DecidableEq, Repr

/-- Context record (Table 11.3); `rsvNZ` says that a reserved field is nonzero or STATE is reserved. -/
structure CtxRec where
  part     : Nat
  refcount : Bool
  priority : Nat
  rsvNZ    : Bool
deriving DecidableEq, Repr

/-- A wait saved with a queue (R260) or registered by it (R257). -/
structure WaitRec where
  evt    : W32
  thresh : W32
  ticket : W32
deriving DecidableEq, Repr

/-- Queue record (Table 11.4) as the scheduler reads it. -/
structure QRec where
  ring      : HostAddr
  cpl       : HostAddr
  rpl       : HostAddr
  log2size  : Nat
  enabled   : Bool
  validated : Bool
  pfq       : Bool
  stopped   : Bool
  priority  : Nat
  context   : Nat
  tail      : W32
  head      : W32
  done      : W32
  wait      : Option WaitRec
  rsvNZ     : Bool
deriving DecidableEq, Repr

/-- STATE of an Event record (Table 10.8). -/
inductive EvSt
  | free | live | abandoned
deriving DecidableEq, Repr

/-- Event record (Table 10.8). -/
structure EvtRec where
  value   : W64
  credit  : W32
  stale   : W32
  ticket  : W32
  owner   : Nat
  counted : Bool
  notify  : Bool
  st      : EvSt
  vec     : Nat
  gen     : BitVec 12
deriving DecidableEq, Repr

/-- A 4-byte write of a register: its value and its byte enables (R413). -/
structure WrVal where
  v  : W32
  be : BitVec 4
deriving DecidableEq, Repr

/-- The size of a register access (R413): 4 bytes or 8 with their byte enables, 8 with the high half of the value written, or another size. -/
inductive Access
  | dword (be : BitVec 4) | qword (be : BitVec 8) (hi : BitVec 32) | other (bytes : Nat)
deriving DecidableEq, Repr

/-- Command header (Table 11.7): `type` the byte TYPE of the entry. `rsvNZ`: a reserved field of the header or of the body is nonzero.
`evtRec`: the record that the engine reads in the Event table for EVT when SIGEN is set and the Event is not resident (R254), none where the read fails
(R263). -/
structure CmdHdr where
  type   : Nat
  tflags : BitVec 7
  sigen  : Bool
  rsvNZ  : Bool
  evtRec : Option EvtRec
  cmdid  : W64
  evt    : W32
  evval  : W64
deriving DecidableEq, Repr

/-- RUN body (Table 11.9). -/
structure RunBody where
  prog  : W64
  args  : HostAddr
  seed  : W64
  start : W64
deriving DecidableEq, Repr

/-- One listed object of the argument block (Table 11.10); `rsvNZ`: a byte the table does not name is nonzero. -/
structure ObjEnt where
  kind   : Nat
  handle : W32
  base   : HostAddr
  length : W64
  count  : HostAddr
  rsvNZ  : Bool
deriving DecidableEq, Repr

/-- The argument block (Table 11.10). -/
structure ArgBlk where
  s     : List W32
  nobj  : Nat
  rsvNZ : Bool
  objs  : List ObjEnt
deriving DecidableEq, Repr

/-- A realign group of a Segment header (R179); members and counters name partition core indices. -/
structure RGroup where
  period  : Nat
  count   : Nat
  members : List (Nat × Strm)
  ctrs    : List (Nat × Nat × BitVec 32)
deriving DecidableEq, Repr

/-- Slot table entry (Table 13.4). -/
structure STEnt where
  first   : Nat
  count   : Nat
  recv    : Bool
  sigen   : Bool
  core    : Nat
  period  : Nat
  phase   : Nat
  last    : Nat
  base    : Nat
  ringlen : Nat
  sc      : Nat
deriving DecidableEq, Repr

/-- Header of the slot table of one Braid port (R321), with where its entries of 32 bytes begin in the Baked Program. -/
structure STab where
  port  : Nat
  width : Nat
  peer  : Nat
  pport : Nat
  off   : Nat
  count : Nat
deriving DecidableEq, Repr

/-- One code section of a Segment (R228, R229, R231): partition core index, stream, block count of its block table, offset and length of its
physical words in the Baked Program, the SHA-256 digest stored beside it, and its list of the location map: offset from LOCMAP and entries. -/
structure CodeSec where
  core   : Nat
  strm   : Strm
  blocks : Nat
  off    : Nat
  len    : Nat
  digest : BitVec 256
  locOff : Nat
  locs   : Nat
deriving DecidableEq, Repr

/-- What a Segment header holds (R163, R175, R179, R138, R117, R253) with the Segment's code sections and slot tables. -/
structure SegDecl where
  boff    : Option Nat
  l       : List W32
  an      : List (BitVec 16)
  sc      : List (Nat × Nat × BitVec 32)
  groups  : List RGroup
  guards  : List (Nat × Nat × Nat)
  mdens   : Nat
  secs    : List CodeSec
  tables  : List STab
deriving DecidableEq, Repr

/-- A slot of the slot identity list (R225). -/
structure SlotUse where
  slot    : Nat
  funcid  : W32
  version : Nat
  latency : Nat
  ratio   : Nat
  det     : Bool
deriving DecidableEq, Repr

/-- A declared range of the Segment declarations: object list index, byte offset, length (R385). -/
structure DRange where
  obj : Nat
  off : Nat
  len : Nat
deriving DecidableEq, Repr

/-- A residency range (R387): partition core index, local base, rows, object list index of the sealed Extent, Extent offset. -/
structure ResRange where
  core : Nat
  base : Nat
  rows : Nat
  obj  : Nat
  off  : Nat
deriving DecidableEq, Repr

/-- What a program declares of its residency (R387). -/
inductive ResUse
  | none | establish (rs : List ResRange) | use (rs : List ResRange)
deriving DecidableEq, Repr

/-- The tables of a Baked Program, which Table 9.4's header places and whose layout the spec does not give (R228, R385). -/
structure Baked where
  segs      : List SegDecl
  slots     : List SlotUse
  roles     : List Nat
  codebooks : List DRange
  outliers  : List DRange
  anchors   : List DRange
  res       : ResUse
deriving DecidableEq, Repr

/-- COPY body (Table 11.8) with how the Load engines' reads complete when the source lies in host memory. -/
structure CopyBody where
  srch    : W32
  dsth    : W32
  srcoff  : W64
  dstoff  : W64
  length  : W64
  hostSrc : HostCpl
deriving DecidableEq, Repr

/-- FILL body (Table 11.8). -/
structure FillBody where
  dsth    : W32
  dstoff  : W64
  length  : W64
  pattern : W32
deriving DecidableEq, Repr

/-- LOAD_SLOT body (Table 14.4). -/
structure LoadSlotBody where
  mask   : BitVec 8
  src    : Nat
  handle : W32
  addr   : W64
  length : W64
deriving DecidableEq, Repr

/-- MAP body (Table 11.8): `kind` its byte KIND; KIND 0 uses attr and length, KIND 1 first, ncore and length, KIND 2 length as the handle. -/
structure MapBody where
  kind   : Nat
  attr   : BitVec 8
  first  : Nat
  ncore  : Nat
  length : W64
  result : HostAddr
deriving DecidableEq, Repr

/-- QUERY body (Table 11.8). -/
structure QueryBody where
  sel    : W32
  length : W32
  dest   : HostAddr
deriving DecidableEq, Repr

/-- A queue record as the engine reads it in the queue table, with the header of its saved WAIT's entry (R260). -/
structure QFound where
  q   : Nat
  qr  : QRec
  wh  : CmdHdr
deriving DecidableEq, Repr

/-- What a command acts on (a context, a partition, a function), with the records of queues that are not resident as the engine reads them for it. -/
structure WithQs (α : Type) where
  on : α
  qs : List QFound
deriving DecidableEq, Repr

/-- A context record with AtomicOp Requester Enable of Device Control 2, as CTX_CREATE reads both (R280). -/
structure CtxRead where
  body     : CtxRec
  atomicEn : Bool
deriving DecidableEq, Repr

/-- The queue that a doorbell names, with CONTEXT of its record where it is not resident (R270), and the byte enables of the write. -/
structure DbQueue where
  q   : Nat
  ctx : Nat
  be  : BitVec 4
deriving DecidableEq, Repr

/-- A partition, with contexts and PRIORITY as the engine reads it in their records at a Segment start (R265). -/
structure StartAt where
  p     : Nat
  prios : List (Nat × Nat)
deriving DecidableEq, Repr

/-- How the reads of a RUN end: its argument block, and its Baked Program where that lies in host memory (R263, R276). -/
structure RunReads where
  args : HostCpl
  prog : HostCpl
deriving DecidableEq, Repr

/-- What QUEUE_RESIDENCY does at a Segment boundary of a partition (R268): load a queue, whose record was read, into slot `n`, or evict slot `n`
for a queue, having read TAIL again. `others` are the records of the other candidates of the last scan (R271, R272). A load of a queue with a
saved wait brings that Event's record (R260). -/
inductive ResAct
  | load (n : Nat) (x : QFound) (ev : EvtRec) (others : List QFound)
  | evict (n : Nat) (tail : BitVec 32) (x : QFound) (others : List QFound)
deriving DecidableEq, Repr

/-! ### Beat, Braid, twin, slots -/

/-- Beat sources (Table 10.1). -/
inductive BSrc
  | none | pin | marker | loc
deriving DecidableEq, Repr

/-- Pin symbols (R238). -/
inductive PinSym
  | zero | one | marker
deriving DecidableEq, Repr

/-- How a Granule read is found by GC-288 (R131, R291): symbols in error, the first symbol's number and magnitude. -/
structure SymErr where
  n   : Nat
  sym : Nat
  mag : BitVec 8
deriving DecidableEq, Repr

/-- A link key of a partition or of an offer (R303, R327, R329): the GCM key, its parity bit KEYEP, and the engine identifiers marked in its
holder map. -/
structure LinkKey where
  key    : BitVec 256
  ep     : Bool
  marked : List Nat
deriving DecidableEq, Repr

/-- A cell of a frame (Table 13.3). -/
structure Cell where
  segtag  : BitVec 16
  cidx    : Nat
  valid   : Bool
  payload : List (BitVec 8)
deriving DecidableEq, Repr

/-- The training word of a peer's lane (Table 13.8 step 2): its lane number, port and engine identifier. -/
structure TrainWord where
  lane : Nat
  port : Nat
  eng  : Nat
deriving DecidableEq, Repr

/-- What one lane shows in training (Table 13.8 steps 1 and 2): PHY signal, PHY reports it stuck, the word received if it decodes, and whether it came
complemented. -/
structure LaneObs where
  signal : Bool
  stuck  : Bool
  word   : Option TrainWord
  inv    : Bool
deriving DecidableEq, Repr

/-- What a training run of a port receives (Table 13.8): its lanes, the lane numbers that the peer reports GOOD, whether FEC and frames align,
the peer's versions and identity, the round trip and the stated turnaround of each echo in cycles, the SHA-384 of the root of the peer's certificate
chain, and the verdict on the rest of the SPDM session (R327). -/
structure TrainObs where
  lanes    : List LaneObs
  peerGood : List Nat
  align    : Bool
  maj      : Nat
  minor    : Nat
  peng     : Nat
  pport    : Nat
  echoes   : List (Nat × Nat)
  root     : BitVec 384
  auth     : Bool
deriving DecidableEq, Repr

/-- An Extent Table entry as the state sync carries it (R335), with the root stored for a sealed Extent. -/
structure SyncExt where
  idx    : Nat
  valid  : Bool
  part   : Nat
  gen    : BitVec 13
  base   : BitVec 24
  len    : BitVec 20
  packed : Bool
  ro     : Bool
  dgv    : Bool
  root   : Option (BitVec 256)
deriving DecidableEq, Repr

/-- What the primary sends in the state sync (R335 step 5): its Extent Table, the plaintext of its valid Extents by stack byte address, and
that of its scratchpad rows by row number. -/
structure SyncImage where
  exts : List SyncExt
  mem  : List (Nat × List (BitVec 8))
  rows : List (Nat × List (BitVec 8))
deriving DecidableEq, Repr

/-- What an attach of the twin finds (R335). `key` is what the session derives, `image` what a twin receives. -/
structure AttachObs where
  groupA    : TrainObs
  groupB    : TrainObs
  crossed   : Bool
  sameEng   : Bool
  build     : BitVec 64
  stepping  : Nat
  beat      : W64
  cores     : List W64
  authOk    : Bool
  key       : BitVec 256
  syncOk    : Bool
  image     : SyncImage
deriving DecidableEq, Repr

/-- Bytes 32 to 63 of a command entry by its type (Tables 11.8, 11.9, 14.4); `unread` where the entry's read failed. -/
inductive EntBody
  | run (b : RunBody) | copy (b : CopyBody) | fill (b : FillBody) | signal | wait (evt thresh : BitVec 32) | publish
  | loadSlot (b : LoadSlotBody) | map (b : MapBody) | unmap (handle : BitVec 32) | query (b : QueryBody) | unread
deriving DecidableEq, Repr

/-- A journal entry from the primary (R336): a command entry as fetched with its argument block, bytes read from host memory, the handle of a MAP, an Owner
apply; and the driver's resolution of a divergent command of a queue, FAIL or PUBLISH_PRIMARY (`pub`), which enters its state from outside too. -/
inductive JEntry
  | cmd (q : Nat) (seq : BitVec 32) (hdr : CmdHdr) (body : EntBody) (ab : Option ArgBlk)
  | resolve (q : Nat) (pub : Bool)
  | hostBytes (bytes : List (BitVec 8))
  | mapHandle (q : Nat) (handle : BitVec 32)
  | owner (part : Nat) (own : Bool)
deriving DecidableEq, Repr

/-- A journal entry as a group of the twin port (0 A, 1 B) brings it: `opens` says whether the tag of its frame is right under the twin key (R334, R326). -/
structure JCell where
  group : Nat
  opens : Bool
  e     : JEntry
deriving DecidableEq, Repr

/-- An agreement message (R337): queue, SEQ and the SHA-256 over output digest and counts. -/
structure Agree where
  q     : Nat
  seq   : W32
  value : BitVec 256
deriving DecidableEq, Repr

/-! ### Start-up -/

/-- A test repair of the fuses (Table 15.2 TESTREP): a test remap (core, bank, row) or a Wafer row map (core, Wafer, u). -/
inductive TestRep
  | remap (core bank row : Nat) | rowmap (core wafer u : Nat)
deriving DecidableEq, Repr

/-- The fuses as sensed (Table 15.2), each field's check verdict taken together, the key of slot KSLOT as the key store answers (none: empty or
tampered, R364), and whether the flash has its SFDP table (R365). -/
structure Fuses where
  checkOk : Bool
  pkhash  : BitVec 384
  keysrc  : Nat
  kslot   : Nat
  imgkey  : BitVec 256
  uds     : BitVec 256
  svnbits : W64
  leader  : Bool
  cfgpos  : Nat
  testrep : List TestRep
  store   : Option (BitVec 256)
  sfdpOk  : Bool
deriving DecidableEq, Repr

/-- One read of a configuration read unit (R371, R372): its bytes, none where the flash does not respond to the leader, and whether another block of the
group pulls CFG_RETRY_N low for it. -/
structure UnitRead where
  data     : Option (List (BitVec 8))
  groupLow : Bool
deriving DecidableEq, Repr

/-- A Braid frame as the port receives it: whether the FEC passes, and its bytes (R319). -/
structure FrameIn where
  fecOk : Bool
  bytes : List (BitVec 8)
deriving DecidableEq, Repr

/-- The two halves of a repair area as the flash gives them (R374). -/
structure AreaRead where
  half0 : List (BitVec 8)
  half1 : List (BitVec 8)
deriving DecidableEq, Repr

/-- What the leader's MC meets in flash as it appends a relayed entry (R375): the two halves of the position's area as they stand, and whether the append
succeeds. -/
structure RelayFlash where
  area : AreaRead
  ok   : Bool
deriving DecidableEq, Repr

/-- What a twin tells of itself: the major of its twin protocol (R331), GLB_BUILD, GLB_STEPPING and its configuration measurement (Table 15.10). -/
structure TwinId where
  maj      : Nat
  build    : W64
  stepping : Nat
  meas     : BitVec 384
deriving DecidableEq, Repr

/-- The finding of one management bus (R378): the bus, whether it is still stuck after the bus clears, and the switch channel
last selected whose switch acknowledges. -/
structure BusObs where
  bus     : Nat
  stuck   : Bool
  channel : Option Nat
deriving DecidableEq, Repr

/-- A stack port as found at inventory (R292): identity words and geometry. -/
structure StkObs where
  present : Bool
  id0     : W32
  id1     : W32
  id2     : W32
  id3     : W32
deriving DecidableEq, Repr

/-- What the CMIS module of a Braid port answers (R377, R378): whether its address is acknowledged at the first and at the second attempt, Lower Page
00h bytes 0 to 2, Upper Page 00h bytes 129 to 199, the applications that Page 01h advertises, each with its host lanes and their rate in units of
0.1 Gb/s, and what becomes of its bus where that is found stuck as the module is read again. -/
structure ModObs where
  port   : Nat
  ack1   : Bool
  ack2   : Bool
  lower  : List (BitVec 8)
  upper  : List (BitVec 8)
  apps   : List (Nat × Nat)
  stuck  : Option BusObs
deriving DecidableEq, Repr

/-- The board identity memory (R376): its two acknowledgements and its first 124 bytes. -/
structure BoardObs where
  ack1  : Bool
  ack2  : Bool
  bytes : List (BitVec 8)
deriving DecidableEq, Repr

/-- What phase 6 finds (R376 to R378, R292): the stacks, the buses, the modules, the first 64 bytes of window frame 0 of each slot, and the board. -/
structure InvObs where
  stks  : List StkObs
  buses : List BusObs
  mods  : List ModObs
  slots : List (List (BitVec 8))
  board : BoardObs
deriving DecidableEq, Repr

/-- The array self-test of phase 7 (R101, R118): per core the status of each Torte and whether the Strudel failed. -/
structure SelfTest where
  core  : Nat
  tstat : List Nat
  sout  : Bool
deriving DecidableEq, Repr

/-- SPDM transports (R381). -/
inductive Tport
  | doe | mctp
deriving DecidableEq, Repr

/-- The commands: one constructor for each row of spec/opcode_table.json. -/
inductive Instr
  | set (i : Iss) (dst : Reg) (src : Src) (hi : Bool)
  | add (i : Iss) (dst : Reg) (src : Src)
  | sub (i : Iss) (dst : Reg) (src : Src)
  | loop (i : Iss) (cnt : Reg) (reserve : W32)
  | endloop (i : Iss)
  | waitsc (i : Iss) (w : Option WaitNext) (c : Cond)
  | signalsc (i : Iss) (remote : Option Nat) (g : Sig)
  | realign (i : Iss) (group : Nat)
  | launch (i : Iss) (eng : Strm) (block boff cyc : Nat) (ps : List (Option Nat)) (sig : Option Sig)
  | cmp (i : Iss) (flag cond x : Nat) (y : CmpSrc)
  | skipif (i : Iss) (sense : Bool) (flag : Nat) (nextBad : Bool)
  | segend (i : Iss)
  | mbxsend (i : Iss) (mbx lo hi : Nat)
  | beatread (i : Iss) (sb sc : Nat)
  | halt (i : Iss) (code : W32)
  | lds (i : Iss) (o : LdOps)
  | ldh (i : Iss) (o : LdOps)
  | ldw (i : Iss) (o : LdOps)
  | sts (i : Iss) (o : StOps)
  | sth (i : Iss) (o : StOps)
  | digestOpen (i : Iss) (aOff pObj dstr : Nat)
  | digestClose (i : Iss) (aRoot dstr : Nat)
  | mvm (i : Iss) (aSrc aDst rows : Nat) (x : Ext)
  | mvb (i : Iss) (aSrc port cells : Nat) (x : Ext)
  | fillc (i : Iss) (aDst rows : Nat) (v : W32)
  | copyr (i : Iss) (aSrc aDst rows : Nat) (x : Ext)
  | hold (i : Iss) (o : HoldOps) (x : Ext)
  | mma (i : Iss) (o : MmaOps) (x : Ext)
  | drain (i : Iss) (o : DrainOps) (x : Ext)
  | spill (i : Iss) (o : SpillOps) (x : Ext)
  | reload (i : Iss) (o : SpillOps) (x : Ext)
  | accumulate (i : Iss) (o : SpillOps) (x : Ext)
  | ewm (i : Iss) (o : EwmOps) (x : Ext)
  | meringue (i : Iss) (o : MerOps)
  | mvx (i : Iss) (o : MvxOps) (x : Ext)
  | sdrain (i : Iss) (o : SdrainOps) (x : Ext)
  | vadd (i : Iss) (o : GzOps) (x : Ext)
  | vmul (i : Iss) (o : GzOps) (x : Ext)
  | vfma (i : Iss) (o : GzOps) (x : Ext)
  | vmax (i : Iss) (o : GzOps) (x : Ext)
  | vsumxAdd (i : Iss) (o : VsOps) (x : Ext)
  | vsumxRead (i : Iss) (o : VsOps) (x : Ext)
  | vsumxSave (i : Iss) (o : VsOps) (x : Ext)
  | vsumxMerge (i : Iss) (o : VsOps) (x : Ext)
  | vquant (i : Iss) (o : VqOps) (x : Ext)
  | vdeq (i : Iss) (o : GzOps) (x : Ext)
  | vexp2 (i : Iss) (o : GzOps) (x : Ext)
  | vlog2 (i : Iss) (o : GzOps) (x : Ext)
  | vrsqrt (i : Iss) (o : GzOps) (x : Ext)
  | vrecip (i : Iss) (o : GzOps) (x : Ext)
  | vtanh (i : Iss) (o : GzOps) (x : Ext)
  | vsig (i : Iss) (o : GzOps) (x : Ext)
  | xop (i : Iss) (o : XopOps) (x : Ext)
  | run (q : Nat) (h : CmdHdr) (b : RunBody) (rd : RunReads) (bp : Baked) (arch : HostCpl)
  | copy (q : Nat) (h : CmdHdr) (b : CopyBody)
  | fill (q : Nat) (h : CmdHdr) (b : FillBody)
  | signal (q : Nat) (h : CmdHdr)
  | wait (q : Nat) (h : CmdHdr) (evt thresh : W32) (rec : Option EvtRec)
  | publish (q : Nat) (h : CmdHdr)
  | loadSlot (q : Nat) (h : CmdHdr) (b : LoadSlotBody)
  | mapExtent (q : Nat) (h : CmdHdr) (b : MapBody)
  | mapRegion (q : Nat) (h : CmdHdr) (b : MapBody)
  | mapSeal (q : Nat) (h : CmdHdr) (b : MapBody)
  | unmap (q : Nat) (h : CmdHdr) (handle : W32)
  | queryCapability (q : Nat) (h : CmdHdr) (b : QueryBody)
  | queryInventory (q : Nat) (h : CmdHdr) (b : QueryBody)
  | queryQuota (q : Nat) (h : CmdHdr) (b : QueryBody)
  | ctxCreate (f : Func) (id : Nat) (rec : CtxRead)
  | ctxDestroy (f : Func) (x : WithQs Nat)
  | ctxReset (f : Func) (x : WithQs Nat)
  | qStop (f : Func) (q : Nat)
  | qRestart (f : Func) (q : Nat)
  | qReset (f : Func) (x : QFound) (tail : W32)
  | evtFree (f : Func) (idx : Nat) (rec : EvtRec)
  | hqDb (f : Func) (n : Nat) (x : DbQueue) (tail : BitVec 16)
  | hqOvfKick (f : Func)
  | ovfScan (bits : List Nat) (atomicEn : Bool) (tails : List (Nat × BitVec 32))
  | queueResidency (p : Nat) (act : ResAct)
  | glbApply (f : Func) (w : WrVal)
  | beatBoundaryApply
  | regWrite (f : Func) (off : Nat) (v : W32) (acc : Access)
  | beatCountLoRead (f : Func)
  | mbxLockRead (f : Func) (n : Nat)
  | mbxLockWrite (f : Func) (n : Nat) (w : WrVal)
  | mbxTxWrite (f : Func) (n : Nat) (hi : Bool) (w : WrVal)
  | mbxRxRead (f : Func) (n : Nat)
  | mbxTake (n : Nat)
  | repairRelay (n : Nat) (w0 w1 w2 : W64) (fl : RelayFlash)
  | scrubPeriod (n : Nat) (w0 : W64)
  | beatCtlAcquire (f : Func) (w : WrVal)
  | acquisitionStart
  | acquisitionTimeout
  | beatEdge (src : BSrc) (c : Nat)
  | beatEdgeTimeout
  | holdoverEdge
  | beatLost
  | pinFrame (first : Nat) (rest : List Nat)
  | beatBlock (port c : Nat) (bytes : List (BitVec 8)) (offer : Option LinkKey)
  | guardHold
  | realignCheck (p g : Nat)
  | segmentStart (x : StartAt)
  | descriptorPop (core : Nat) (strm : Strm) (c : Nat)
  | segmentEnd (p : Nat)
  | segLimit (p : Nat)
  | abortComplete (p : Nat)
  | landing (id c : Nat)
  | storeRead (id c : Nat)
  | stackBurst (core pch : Nat)
  | stackReadData (g : Nat) (err : SymErr)
  | hostReadCompletion (id : Nat) (r : HostCpl)
  | digestLeafDone (job : Nat) (data : List (BitVec 8))
  | publication (q : Nat)
  | commandRetire (q : Nat)
  | eventSignal (rec : EvtRec)
  | eventAbandon (idx : Nat) (rec : EvtRec)
  | quotaReset (x : WithQs Nat)
  | extStageCmd (f : Func) (w : WrVal)
  | extFlip (f : Func) (w : WrVal)
  | extFlipEffect
  | retainedRelease
  | ownerGrant (p : Nat)
  | ownerRelease (x : WithQs Nat)
  | coreMove (core : Nat)
  | bankPowerChange (core bank : Nat)
  | bankWakeDone (core bank : Nat)
  | portBindEffect (port : Nat)
  | slotBindEffect (slot : Nat)
  | fieldRemap (appendOk : Bool)
  | mcRecordRead
  | ringWrite
  | fltHeadWrite (f : Func) (w : WrVal)
  | faultnClear (f : Func)
  | scrubRow
  | stackScrub (g : Nat) (err : SymErr)
  | dieSensorSample (temps : List Nat)
  | stackTempCheck (temps : List Nat)
  | thermClear
  | resume (f : Func)
  | watchdogExpiry (fwOk : Bool)
  | functionLevelReset (x : WithQs Func)
  | powerStateChange (f : Func) (d3 : Bool)
  | brdCtlTrain (f : Func) (port : Nat) (o : TrainObs) (m : ModObs)
  | laneLost (port frames : Nat) (o : TrainObs)
  | braidFrame (port c : Nat) (r : FrameIn)
  | cellLanding (port cidx : Nat)
  | brdKeyNew (f : Func) (port : Nat)
  | brdKeyOffer (f : Func) (port : Nat)
  | brdKeyAccept (f : Func) (port : Nat)
  | brdLostRead (f : Func) (port : Nat)
  | brdAuthRead (f : Func) (port : Nat)
  | sltErrRead (f : Func) (slot : Nat)
  | twnAttach (f : Func) (o : AttachObs)
  | twnDetach (f : Func)
  | twnTakeover (f : Func)
  | twnResolveFail (f : Func) (q : Nat)
  | twnResolvePublishPrimary (f : Func) (q : Nat)
  | twinJournal (x : JCell)
  | agreementMessage (m : Agree)
  | twinLinkDown
  | slotIsolate (slot : Nat)
  | slotFrame (r : HostCpl)
  | slotReadback (slot : Nat) (bytes : List (BitVec 8))
  | slotReady
  | framePortTimeout
  | slotSpuriousOutput (slot : Nat)
  | porst
  | srst (ns : Nat)
  | bootRomStart (fz : Fuses)
  | bootDescriptor (r : UnitRead) (cert : List (BitVec 8))
  | imageHeader (data : Option (List (BitVec 8))) (groupLow : Bool)
  | imageFrame (r : UnitRead)
  | followerTimeout
  | measurement
  | inventory (o : InvObs)
  | repairApply (r : AreaRead) (st : List SelfTest)
  | braidTraining (port : Nat) (o : TrainObs)
  | twinHandshake (reach : Bool) (peng : Nat) (minor : Nat) (id : TwinId)
  | hostLinkUp (l0 : Bool)
  | cfgDone
  | getVersion (t : Tport)
  | getCapabilities (t : Tport)
  | negotiateAlgorithms (t : Tport) (common : Bool)
  | getDigests (t : Tport)
  | getCertificate (t : Tport) (slot : Nat)
  | challenge (t : Tport) (nonce : BitVec 256)
  | getMeasurements (t : Tport) (idx : Nat)
  | keyExchange (t : Tport) (reqSid : BitVec 16)
  | finish (t : Tport) (macOk : Bool)
  | heartbeat (t : Tport)
  | keyUpdate (t : Tport) (both : Bool)
  | endSession (t : Tport)
  | firmwareStartTimeout
deriving DecidableEq, Repr

end Sys2Proof
end

