-- ==== Sys2Proof/Decode.lean ====
section
/-!
DEFINITION. Decode.lean: the command that a word of the opcode table's bits spells. The table gives no row any bits.
-/

namespace Sys2Proof

/-- No row of spec/opcode_table.json has bits, so no word spells a command (log 3). -/
def decodeTableWord (_nbits _w : Nat) : Option Instr := none

end Sys2Proof
end

