-- ==== Sys2Proof/Machine/Num.lean ====
section
/-!
DEFINITION. Num.lean: element formats, their exact decoding, the single rounding of an exact value to a grid, FP32 arithmetic
and the Philox draw. Chapters 02 and 03 (R41 to R47, R58 to R60, R63, R64, R85, R86, R435). A finite value is an integer times a
power of two, or a ratio of an integer and a positive number: every sum and product is exact, and a result is rounded once.
-/

namespace Sys2Proof.Machine

/-! ### Bytes -/

/-- Little-endian value of bytes (R13). -/
def leNat : List Byte → Nat
  | [] => 0
  | b :: bs => b.toNat + 256 * leNat bs

/-- The `n` little-endian bytes of a value (R13). -/
def natLe : Nat → Nat → List Byte
  | 0, _ => []
  | n + 1, v => BitVec.ofNat 8 v :: natLe n (v / 256)

/-- Bits [lo + w − 1 : lo] of a number. -/
def bitsOf (v lo w : Nat) : Nat := (v / 2 ^ lo) % 2 ^ w

/-- A `w`-bit number read as two's complement. -/
def signed (w v : Nat) : Int :=
  if v % 2 ^ w < 2 ^ (w - 1) then (v % 2 ^ w : Nat) else (v % 2 ^ w : Nat) - (2 ^ w : Nat)

/-- The `w`-bit two's complement code of an integer. -/
def unsign (w : Nat) (v : Int) : Nat := (v % (2 ^ w : Nat)).toNat

/-! ### Formats (Table 2.1, Table 2.2) -/

/-- A floating-point format: exponent bits, mantissa bits, bias, and whether it has Inf and NaN codes as IEEE 754
(`ieee`) or only the all-ones NaN of FP8 E4M3 (`nanTop`). -/
structure FP where
  eb     : Nat
  mb     : Nat
  bias   : Nat
  ieee   : Bool
  nanTop : Bool
deriving DecidableEq, Repr

/-- Table 2.2: the floating-point format of a code. -/
def fpOf : Nat → Option FP
  | 4  => some ⟨2, 1, 1, false, false⟩
  | 5  => some ⟨2, 3, 1, false, false⟩
  | 6  => some ⟨3, 2, 3, false, false⟩
  | 7  => some ⟨4, 3, 7, false, true⟩
  | 8  => some ⟨5, 2, 15, true, false⟩
  | 10 => some ⟨8, 7, 127, true, false⟩
  | 11 => some ⟨5, 10, 15, true, false⟩
  | 12 => some ⟨8, 23, 127, true, false⟩
  | _  => none

/-- FP32. -/
def fp32 : FP := ⟨8, 23, 127, true, false⟩
/-- BF16. -/
def bf16 : FP := ⟨8, 7, 127, true, false⟩

/-- Width in bits of a format code (Table 2.1). -/
def fmtBits : Nat → Nat
  | 0 | 1 | 4 | 9 => 4
  | 5 | 6 => 6
  | 2 | 3 | 7 | 8 | 13 => 8
  | 10 | 11 => 16
  | 12 | 14 => 32
  | _ => 8

/-- Table 2.1, column "Matrix and Strudel operand". -/
def fmtOperand (f : Nat) : Bool := f ≤ 11
/-- Table 2.1, column "Drain output". -/
def fmtDrain (f : Nat) : Bool := f == 2 || f == 7 || f == 8 || f == 10 || f == 11 || f == 12 || f == 14
/-- Table 2.1, column "Glaze element". -/
def fmtGlaze (f : Nat) : Bool := f == 2 || f == 3 || f == 7 || f == 8 || f == 10 || f == 11 || f == 12 || f == 14
/-- Wide formats: BF16 and FP16. -/
def fmtWide (f : Nat) : Bool := f == 10 || f == 11
/-- Four-bit formats, which pair at two Grains per cycle (Table 2.5). -/
def fmtFour (f : Nat) : Bool := f == 0 || f == 1 || f == 4 || f == 9
/-- The integer formats that may have zero points (Table 3.1). -/
def fmtInt (f : Nat) : Bool := f ≤ 3

/-- The smallest and largest value of an integer format (R59, R74). -/
def intRange : Nat → Int × Int
  | 0 => (-8, 7)
  | 1 => (0, 15)
  | 3 => (0, 255)
  | 14 => (-2147483648, 2147483647)
  | _ => (-128, 127)

/-- A decoded element or scale: q × 2^f, NaN or an infinity with its sign (R45 to R47). -/
inductive Dec
  | fin (q f : Int) | nan | inf (neg : Bool)
deriving DecidableEq, Repr

/-- R42, R45, R46: a floating-point code as an exact value. -/
def decFP (p : FP) (bits : Nat) : Dec :=
  let m := bits % 2 ^ p.mb
  let e := bits / 2 ^ p.mb % 2 ^ p.eb
  let neg := bits / 2 ^ (p.mb + p.eb) % 2 == 1
  if p.ieee && e == 2 ^ p.eb - 1 then (if m == 0 then .inf neg else .nan)
  else if p.nanTop && e == 2 ^ p.eb - 1 && m == 2 ^ p.mb - 1 then .nan
  else
    let u : Int := if e == 0 then m else (2 ^ p.mb + m : Nat)
    let f : Int := (if e == 0 then 1 else (e : Int)) - p.bias - p.mb
    .fin (if neg then -u else u) f

/-- R45: a finite narrow element has the weight of its format, so its q is moved to that weight. -/
def toFixed (p : FP) : Dec → Dec
  | .fin q f => let f0 : Int := 1 - p.bias - p.mb
                .fin (q * (2 ^ (f - f0).toNat : Nat)) f0
  | d => d

/-- R45, R46: the element of a format code; BELL4 is decoded through the codebook first (R70). -/
def decElem (fmt : Nat) (cb : List Int) (bits : Nat) : Dec :=
  match fmt with
  | 0 => .fin (signed 4 bits) 0
  | 1 => .fin (bits % 16 : Nat) 0
  | 2 => .fin (signed 8 bits) 0
  | 3 => .fin (bits % 256 : Nat) 0
  | 9 => .fin (cb.getD (bits % 16) 0) 0
  | 14 => .fin (signed 32 bits) 0
  | _ => match fpOf fmt with
    | some p => if fmt == 10 || fmt == 11 || fmt == 12 then decFP p bits else toFixed p (decFP p bits)
    | none => .nan

/-- R47: a group scale. -/
def decScale (isBf16 : Bool) (bits : Nat) : Dec :=
  if isBf16 then decFP bf16 bits
  else if bits % 256 == 255 then .nan else .fin 1 ((bits % 256 : Nat) - 127)

/-- R435: element i of packed storage. -/
def elemAt (fmt : Nat) (data : Nat) (i : Nat) : Nat := bitsOf data (i * fmtBits fmt) (fmtBits fmt)

/-! ### The rounding of one exact value -/

/-- The ways a value is rounded once: to nearest even, stochastically with the draw of R86, or toward +∞ (Table 3.5). -/
inductive Rnd
  | rne | sr (u : Nat) | up
deriving DecidableEq, Repr

/-- Numerator and denominator of n/d × 2^k. -/
def ratShift (n : Int) (d : Nat) (k : Int) : Int × Nat :=
  (n * (2 ^ k.toNat : Nat), d * 2 ^ (-k).toNat)

/-- R85, R59: the multiple of 2^g to which n/d rounds. `t` is the fraction above the lower neighbour in units of 2^-16. -/
def roundGrid (r : Rnd) (n : Int) (d : Nat) (g : Int) : Int :=
  let (n', d') := ratShift n d (-g)
  let lo := n' / d'
  let rem := (n' % d').toNat
  if rem == 0 then lo
  else match r with
    | .rne => if 2 * rem < d' then lo else if 2 * rem > d' then lo + 1 else if lo % 2 == 0 then lo else lo + 1
    | .sr u => if rem * 65536 / d' > u then lo + 1 else lo
    | .up => lo + 1

/-- floor(log2 (n/d)) for positive n and d. -/
def ilog2 (n d : Nat) : Int :=
  let e : Int := (Nat.log2 n : Int) - Nat.log2 d
  if d * 2 ^ e.toNat ≤ n * 2 ^ (-e).toNat then e else e - 1

/-- R59: the grid exponent of a format at the magnitude n/d, subnormals kept. -/
def gridExp (p : FP) (n : Int) (d : Nat) : Int :=
  let emin : Int := 1 - p.bias
  (if n == 0 then emin else max (ilog2 n.natAbs d) emin) - p.mb

/-- The code of magnitude k × 2^g, k at most 2^(mb+1); nothing when it lies beyond the largest finite value. -/
def encMag (p : FP) (k : Nat) (g : Int) : Option Nat :=
  let (k, g) := if k ≥ 2 ^ (p.mb + 1) then (k / 2, g + 1) else (k, g)
  if k < 2 ^ p.mb then some k
  else
    let e := (g + p.mb + p.bias).toNat
    let top := if p.ieee then 2 ^ p.eb - 2 else 2 ^ p.eb - 1
    if e > top then none
    else if p.nanTop && e == top && k - 2 ^ p.mb == 2 ^ p.mb - 1 then none
    else some (e * 2 ^ p.mb + (k - 2 ^ p.mb))

/-- The sign bit of a format. -/
def signBit (p : FP) (neg : Bool) : Nat := if neg then 2 ^ (p.mb + p.eb) else 0
/-- The code of the largest finite value (Table 2.2). -/
def maxFin (p : FP) : Nat :=
  if p.ieee then (2 ^ p.eb - 1) * 2 ^ p.mb - 1 else if p.nanTop then 2 ^ (p.eb + p.mb) - 2 else 2 ^ (p.eb + p.mb) - 1
/-- The code of +Inf of an IEEE-like format. -/
def infCode (p : FP) : Nat := (2 ^ p.eb - 1) * 2 ^ p.mb
/-- R44: the canonical NaN. -/
def nanCode (p : FP) : Nat := if p.nanTop then 2 ^ (p.eb + p.mb) - 1 else infCode p + 2 ^ (p.mb - 1)

/-- A value n/d rounded once to a floating-point format: its sign and, unless it overflows, its magnitude code. -/
def roundFP (p : FP) (r : Rnd) (n : Int) (d : Nat) : Bool × Option Nat :=
  let g := gridExp p n d
  let k := roundGrid r n d g
  (decide (n < 0), encMag p k.natAbs g)

/-! ### Drain (R58 to R60) -/

/-- The value a drain rounds (R58). -/
inductive DVal
  | fin (n : Int) (d : Nat) | nan | inf (neg : Bool)
deriving DecidableEq, Repr

/-- R59, R60, Table 2.8: the code written and whether the entry counts in OUTSAT. A result that rounds to zero is +0 (R43;
log 20). -/
def drainRound (fmt : Nat) (r : Rnd) (v : DVal) : Nat × Bool :=
  match fpOf fmt with
  | some p => match v with
    | .nan => (nanCode p, false)
    | .inf neg => if p.ieee then (signBit p neg + infCode p, false) else (signBit p neg + maxFin p, true)
    | .fin n d => match roundFP p r n d with
      | (_, some 0) => (0, false)
      | (neg, some k) => (signBit p neg + k, false)
      | (neg, none) => (signBit p neg + maxFin p, true)
  | none =>
    let (lo, hi) := intRange fmt
    let w := fmtBits fmt
    match v with
    | .nan => (0, false)
    | .inf neg => (unsign w (if neg then lo else hi), false)
    | .fin n d =>
      let k := roundGrid r n d 0
      if k > hi then (unsign w hi, true) else if k < lo then (unsign w lo, true) else (unsign w k, false)

/-! ### Glaze FP32 (R63, R64, R209) -/

/-- The canonical FP32 NaN. -/
def qnan : Nat := 0x7FC00000
/-- FP32 infinity. -/
def inf32 (neg : Bool) : Nat := if neg then 0xFF800000 else 0x7F800000
/-- Sign of an FP32 code. -/
def neg32 (x : Nat) : Bool := x / 2 ^ 31 % 2 == 1
/-- FP32 zero with a sign. -/
def zero32 (neg : Bool) : Nat := if neg then 0x80000000 else 0

/-- R63: an exact value rounded once to FP32; an exact zero takes the sign given, overflow is an infinity. -/
def rne32 (zneg : Bool) (n : Int) (d : Nat) : Nat :=
  if n == 0 then zero32 zneg
  else match roundFP fp32 .rne n d with
    | (neg, some k) => signBit fp32 neg + k
    | (neg, none) => inf32 neg

/-- q × 2^f rounded once to FP32. -/
def rneDy (zneg : Bool) (q f : Int) : Nat :=
  let (n, d) := ratShift q 1 f
  rne32 zneg n d

/-- The sum of two dyadic values. -/
def addDy (q1 f1 q2 f2 : Int) : Int × Int :=
  let f := min f1 f2
  (q1 * (2 ^ (f1 - f).toNat : Nat) + q2 * (2 ^ (f2 - f).toNat : Nat), f)

/-- Table 2.9, VADD. -/
def vadd32 (x y : Nat) : Nat :=
  match decFP fp32 x, decFP fp32 y with
  | .nan, _ => qnan
  | _, .nan => qnan
  | .inf a, .inf b => if a == b then inf32 a else qnan
  | .inf a, _ => inf32 a
  | _, .inf b => inf32 b
  | .fin q1 f1, .fin q2 f2 =>
    let (q, f) := addDy q1 f1 q2 f2
    rneDy (q1 == 0 && q2 == 0 && neg32 x && neg32 y) q f

/-- Table 2.9, VMUL. -/
def vmul32 (x y : Nat) : Nat :=
  let sg := neg32 x != neg32 y
  match decFP fp32 x, decFP fp32 y with
  | .nan, _ => qnan
  | _, .nan => qnan
  | .inf _, .inf _ => inf32 sg
  | .inf _, .fin q _ => if q == 0 then qnan else inf32 sg
  | .fin q _, .inf _ => if q == 0 then qnan else inf32 sg
  | .fin q1 f1, .fin q2 f2 => rneDy sg (q1 * q2) (f1 + f2)

/-- Table 2.9, VFMA: a × b + c, rounded once. -/
def vfma32 (a b c : Nat) : Nat :=
  let sg := neg32 a != neg32 b
  let addInf (s : Bool) : Nat := match decFP fp32 c with
    | .nan => qnan
    | .inf t => if s == t then inf32 s else qnan
    | .fin _ _ => inf32 s
  match decFP fp32 a, decFP fp32 b, decFP fp32 c with
  | .nan, _, _ => qnan
  | _, .nan, _ => qnan
  | _, _, .nan => qnan
  | .inf _, .inf _, _ => addInf sg
  | .inf _, .fin q _, _ => if q == 0 then qnan else addInf sg
  | .fin q _, .inf _, _ => if q == 0 then qnan else addInf sg
  | .fin _ _, .fin _ _, .inf t => inf32 t
  | .fin q1 f1, .fin q2 f2, .fin q3 f3 =>
    let (q, f) := addDy (q1 * q2) (f1 + f2) q3 f3
    rneDy (q1 * q2 == 0 && q3 == 0 && sg && neg32 c) q f

/-- Table 2.9, VMAX. -/
def vmax32 (x y : Nat) : Nat :=
  match decFP fp32 x, decFP fp32 y with
  | .nan, _ => qnan
  | _, .nan => qnan
  | .inf a, _ => if a then y else x
  | _, .inf b => if b then x else y
  | .fin q1 f1, .fin q2 f2 =>
    if q1 == 0 && q2 == 0 then zero32 (neg32 x && neg32 y)
    else if (addDy q1 f1 (-q2) f2).1 < 0 then y else x

/-- R63: a Glaze element converted to FP32: exact, but INT32, which is rounded to nearest even. -/
def toFP32 (fmt bits : Nat) : Nat :=
  match fpOf fmt with
  | none => match decElem fmt [] bits with
    | .fin q f => rneDy false q f
    | _ => qnan
  | some p => match decFP p bits with
    | .nan => qnan
    | .inf neg => inf32 neg
    | .fin q f => rneDy (bits / 2 ^ (p.mb + p.eb) % 2 == 1) q f

/-- Table 8.11 (R209): an FP32 result converted to the destination format. -/
def fromFP32 (fmt x : Nat) : Nat :=
  if fmt == 12 then (match decFP fp32 x with | .nan => qnan | _ => x)
  else match fpOf fmt with
  | some p => match decFP fp32 x with
    | .nan => nanCode p
    | .inf neg => signBit p neg + (if p.ieee then infCode p else maxFin p)
    | .fin q f =>
      let (n, d) := ratShift q 1 f
      match roundFP p .rne n d with
      | (_, some k) => signBit p (neg32 x) + k
      | (neg, none) => signBit p neg + (if p.ieee then infCode p else maxFin p)
  | none =>
    let (lo, hi) := intRange fmt
    let w := fmtBits fmt
    match decFP fp32 x with
    | .nan => 0
    | .inf neg => unsign w (if neg then lo else hi)
    | .fin q f =>
      let (n, d) := ratShift q 1 f
      unsign w (max lo (min hi (roundGrid .rne n d 0)))

/-! ### The draw (R86) -/

/-- Ten rounds of Philox-4x32 (R86). -/
def philox : Nat → BitVec 32 → BitVec 32 → BitVec 32 → BitVec 32 → BitVec 32 → BitVec 32 →
    BitVec 32 × BitVec 32 × BitVec 32 × BitVec 32
  | 0, _, _, c0, c1, c2, c3 => (c0, c1, c2, c3)
  | n + 1, k0, k1, c0, c1, c2, c3 =>
    let p0 := 0xD2511F53 * c0.toNat
    let p1 := 0xCD9E8D57 * c2.toNat
    philox n (k0 + 0x9E3779B9) (k1 + 0xBB67AE85)
      (BitVec.ofNat 32 (p1 / 2 ^ 32) ^^^ c1 ^^^ k0) (BitVec.ofNat 32 p1)
      (BitVec.ofNat 32 (p0 / 2 ^ 32) ^^^ c3 ^^^ k1) (BitVec.ofNat 32 p0)

/-- philox4x32_10 under a 64-bit key. -/
def philox10 (c0 c1 c2 c3 : BitVec 32) (key : W64) : BitVec 32 × BitVec 32 × BitVec 32 × BitVec 32 :=
  philox 10 (key.truncate 32) ((key >>> 32).truncate 32) c0 c1 c2 c3

/-- draw16 of R86: the 16-bit draw of element idx of tensor tid for purpose p. -/
def draw16 (key : W64) (tid : Nat) (idx : Nat) (p : Nat) : Nat :=
  let (w0, w1, w2, w3) := philox10 (BitVec.ofNat 32 (idx / 8)) (BitVec.ofNat 32 (idx / 2 ^ 35)) (BitVec.ofNat 32 tid)
    (BitVec.ofNat 32 p) key
  let j := idx % 8
  let w := match j / 2 with | 0 => w0 | 1 => w1 | 2 => w2 | _ => w3
  w.toNat / 2 ^ (16 * (j % 2)) % 65536

/-- R88: the seed of SDn for n at least 1. -/
def seedN (seed : W64) (n : Nat) : W64 :=
  let (w0, w1, _, _) := philox10 (BitVec.ofNat 32 n) 0 0 0xFFFFFFFF seed
  w1 ++ w0

end Sys2Proof.Machine
end

