-- ==== Sys2Proof/Machine/Sha.lean ====
section
/-!
DEFINITION. Sha.lean: SHA-256 and SHA-384 as FIPS 180-4 defines them, the digest tree of R383, and the CRCs the chapters name.
-/

namespace Sys2Proof.Machine

/-! ### SHA-2 -/

/-- Big-endian number of bytes. -/
def beNat (bs : List Byte) : Nat := bs.foldl (fun a b => a * 256 + b.toNat) 0

/-- A number as `n` bytes, most significant first. -/
def natBe (n v : Nat) : List Byte := (natLe n v).reverse

/-- Round constants of SHA-256. -/
def sha256K : List Nat :=
  [0x428A2F98, 0x71374491, 0xB5C0FBCF, 0xE9B5DBA5, 0x3956C25B, 0x59F111F1, 0x923F82A4, 0xAB1C5ED5] ++
  [0xD807AA98, 0x12835B01, 0x243185BE, 0x550C7DC3, 0x72BE5D74, 0x80DEB1FE, 0x9BDC06A7, 0xC19BF174] ++
  [0xE49B69C1, 0xEFBE4786, 0x0FC19DC6, 0x240CA1CC, 0x2DE92C6F, 0x4A7484AA, 0x5CB0A9DC, 0x76F988DA] ++
  [0x983E5152, 0xA831C66D, 0xB00327C8, 0xBF597FC7, 0xC6E00BF3, 0xD5A79147, 0x06CA6351, 0x14292967] ++
  [0x27B70A85, 0x2E1B2138, 0x4D2C6DFC, 0x53380D13, 0x650A7354, 0x766A0ABB, 0x81C2C92E, 0x92722C85] ++
  [0xA2BFE8A1, 0xA81A664B, 0xC24B8B70, 0xC76C51A3, 0xD192E819, 0xD6990624, 0xF40E3585, 0x106AA070] ++
  [0x19A4C116, 0x1E376C08, 0x2748774C, 0x34B0BCB5, 0x391C0CB3, 0x4ED8AA4A, 0x5B9CCA4F, 0x682E6FF3] ++
  [0x748F82EE, 0x78A5636F, 0x84C87814, 0x8CC70208, 0x90BEFFFA, 0xA4506CEB, 0xBEF9A3F7, 0xC67178F2]

/-- Round constants of SHA-512 and SHA-384. -/
def sha512K : List Nat :=
  [0x428A2F98D728AE22, 0x7137449123EF65CD, 0xB5C0FBCFEC4D3B2F, 0xE9B5DBA58189DBBC, 0x3956C25BF348B538] ++
  [0x59F111F1B605D019, 0x923F82A4AF194F9B, 0xAB1C5ED5DA6D8118, 0xD807AA98A3030242, 0x12835B0145706FBE] ++
  [0x243185BE4EE4B28C, 0x550C7DC3D5FFB4E2, 0x72BE5D74F27B896F, 0x80DEB1FE3B1696B1, 0x9BDC06A725C71235] ++
  [0xC19BF174CF692694, 0xE49B69C19EF14AD2, 0xEFBE4786384F25E3, 0x0FC19DC68B8CD5B5, 0x240CA1CC77AC9C65] ++
  [0x2DE92C6F592B0275, 0x4A7484AA6EA6E483, 0x5CB0A9DCBD41FBD4, 0x76F988DA831153B5, 0x983E5152EE66DFAB] ++
  [0xA831C66D2DB43210, 0xB00327C898FB213F, 0xBF597FC7BEEF0EE4, 0xC6E00BF33DA88FC2, 0xD5A79147930AA725] ++
  [0x06CA6351E003826F, 0x142929670A0E6E70, 0x27B70A8546D22FFC, 0x2E1B21385C26C926, 0x4D2C6DFC5AC42AED] ++
  [0x53380D139D95B3DF, 0x650A73548BAF63DE, 0x766A0ABB3C77B2A8, 0x81C2C92E47EDAEE6, 0x92722C851482353B] ++
  [0xA2BFE8A14CF10364, 0xA81A664BBC423001, 0xC24B8B70D0F89791, 0xC76C51A30654BE30, 0xD192E819D6EF5218] ++
  [0xD69906245565A910, 0xF40E35855771202A, 0x106AA07032BBD1B8, 0x19A4C116B8D2D0C8, 0x1E376C085141AB53] ++
  [0x2748774CDF8EEB99, 0x34B0BCB5E19B48A8, 0x391C0CB3C5C95A63, 0x4ED8AA4AE3418ACB, 0x5B9CCA4F7763E373] ++
  [0x682E6FF3D6B2B8A3, 0x748F82EE5DEFB2FC, 0x78A5636F43172F60, 0x84C87814A1F0AB72, 0x8CC702081A6439EC] ++
  [0x90BEFFFA23631E28, 0xA4506CEBDE82BDE9, 0xBEF9A3F7B2C67915, 0xC67178F2E372532B, 0xCA273ECEEA26619C] ++
  [0xD186B8C721C0C207, 0xEADA7DD6CDE0EB1E, 0xF57D4F7FEE6ED178, 0x06F067AA72176FBA, 0x0A637DC5A2C898A6] ++
  [0x113F9804BEF90DAE, 0x1B710B35131C471B, 0x28DB77F523047D84, 0x32CAAB7B40C72493, 0x3C9EBE0A15C9BEBC] ++
  [0x431D67C49C100D4C, 0x4CC5D4BECB3E42B6, 0x597F299CFC657E2A, 0x5FCB6FAB3AD6FAEC, 0x6C44198C4A475817]

/-- Cut a list into pieces of `n`. -/
def pieces {α : Type} (n : Nat) : Nat → List α → List (List α)
  | 0, _ => []
  | fuel + 1, l => if l.isEmpty then [] else l.take n :: pieces n fuel (l.drop n)

/-- The padded message: 0x80, zeros, the bit length in `lw` bytes, to a multiple of `blk` bytes. -/
def shaPad (blk lw : Nat) (m : List Byte) : List Byte :=
  m ++ [0x80] ++ List.replicate ((2 * blk - (m.length + 1 + lw) % blk) % blk) 0 ++ natBe lw (8 * m.length)

/-- The parameters of one SHA-2 function: rotations of the two big sigmas and of the two small sigmas with their shifts. -/
structure ShaP where
  s0 : Nat × Nat × Nat
  s1 : Nat × Nat × Nat
  t0 : Nat × Nat × Nat
  t1 : Nat × Nat × Nat
deriving DecidableEq, Repr

/-- XOR of three rotations. -/
def rot3 {w : Nat} (r : Nat × Nat × Nat) (x : BitVec w) : BitVec w :=
  x.rotateRight r.1 ^^^ x.rotateRight r.2.1 ^^^ x.rotateRight r.2.2

/-- XOR of two rotations and a shift. -/
def rot2s {w : Nat} (r : Nat × Nat × Nat) (x : BitVec w) : BitVec w :=
  x.rotateRight r.1 ^^^ x.rotateRight r.2.1 ^^^ (x >>> r.2.2)

/-- The message schedule, kept newest first, extended by `n` words. -/
def shaSched {w : Nat} (p : ShaP) : Nat → List (BitVec w) → List (BitVec w)
  | 0, ws => ws
  | n + 1, ws =>
    shaSched p n ((rot2s p.t1 (ws.getD 1 0) + ws.getD 6 0 + rot2s p.t0 (ws.getD 14 0) + ws.getD 15 0) :: ws)

/-- The eight working variables. -/
structure ShaV (w : Nat) where
  a : BitVec w
  b : BitVec w
  c : BitVec w
  d : BitVec w
  e : BitVec w
  f : BitVec w
  g : BitVec w
  h : BitVec w
deriving DecidableEq, Repr

/-- One round with the sum of its constant and schedule word. -/
def shaRound {w : Nat} (p : ShaP) (v : ShaV w) (kw : BitVec w) : ShaV w :=
  let t1 := v.h + rot3 p.s1 v.e + ((v.e &&& v.f) ^^^ (~~~v.e &&& v.g)) + kw
  let t2 := rot3 p.s0 v.a + ((v.a &&& v.b) ^^^ (v.a &&& v.c) ^^^ (v.b &&& v.c))
  ⟨t1 + t2, v.a, v.b, v.c, v.d + t1, v.e, v.f, v.g⟩

/-- One block. -/
def shaBlock {w : Nat} (p : ShaP) (ks : List Nat) (v : ShaV w) (blk : List Byte) : ShaV w :=
  let ws := ((pieces (w / 8) 16 blk).map (fun b => BitVec.ofNat w (beNat b))).reverse
  let kws := ((shaSched p (ks.length - 16) ws).reverse.zip ks).map (fun x => x.1 + BitVec.ofNat w x.2)
  let r := kws.foldl (shaRound p) v
  ⟨v.a + r.a, v.b + r.b, v.c + r.c, v.d + r.d, v.e + r.e, v.f + r.f, v.g + r.g, v.h + r.h⟩

/-- SHA-256 of bytes, as the 256-bit big-endian number. -/
def sha256 (m : List Byte) : BitVec 256 :=
  let p : ShaP := ⟨(2, 13, 22), (6, 11, 25), (7, 18, 3), (17, 19, 10)⟩
  let msg := shaPad 64 8 m
  let v := (pieces 64 (msg.length / 64) msg).foldl (shaBlock p sha256K)
    (⟨0x6A09E667, 0xBB67AE85, 0x3C6EF372, 0xA54FF53A, 0x510E527F, 0x9B05688C, 0x1F83D9AB, 0x5BE0CD19⟩ : ShaV 32)
  v.a ++ v.b ++ v.c ++ v.d ++ v.e ++ v.f ++ v.g ++ v.h

/-- SHA-384 of bytes, as the 384-bit big-endian number. -/
def sha384 (m : List Byte) : BitVec 384 :=
  let p : ShaP := ⟨(28, 34, 39), (14, 18, 41), (1, 8, 7), (19, 61, 6)⟩
  let msg := shaPad 128 16 m
  let v := (pieces 128 (msg.length / 128) msg).foldl (shaBlock p sha512K)
    (⟨0xCBBB9D5DC1059ED8, 0x629A292A367CD507, 0x9159015A3070DD17, 0x152FECD8F70E5939,
      0x67332667FFC00B31, 0x8EB44A8768581511, 0xDB0C2E0D64F98FA7, 0x47B5481DBEFA4FA4⟩ : ShaV 64)
  v.a ++ v.b ++ v.c ++ v.d ++ v.e ++ v.f

/-- A SHA-256 value as its 32 bytes. -/
def digBytes (d : BitVec 256) : List Byte := natBe 32 d.toNat
/-- A SHA-384 value as its 48 bytes. -/
def dig48 (d : BitVec 384) : List Byte := natBe 48 d.toNat

/-! ### Digest trees (R383) -/

/-- The digest of one leaf. -/
def leafDigest (b : List Byte) : BitVec 256 := sha256 (0 :: b)

/-- One level of the tree: pairs combined, an odd node carried up unchanged. -/
def treeLevel : List (BitVec 256) → List (BitVec 256)
  | a :: b :: r => sha256 (1 :: (digBytes a ++ digBytes b)) :: treeLevel r
  | l => l

/-- Levels until one node is left. -/
def treeUp : Nat → List (BitVec 256) → List (BitVec 256)
  | 0, l => l
  | n + 1, l => if l.length ≤ 1 then l else treeUp n (treeLevel l)

/-- R383: the root over leaf digests of an object of n bytes. -/
def rootOf (leaves : List (BitVec 256)) (n : Nat) : BitVec 256 :=
  sha256 (2 :: (natLe 8 n ++ digBytes ((treeUp leaves.length leaves).headD 0)))

/-- R383: tree_root of bytes. -/
def treeRoot (obj : List Byte) : BitVec 256 :=
  rootOf ((pieces 4096 ((obj.length + 4095) / 4096) obj).map leafDigest) obj.length

/-! ### Cyclic redundancy checks -/

/-- One bit of a CRC of width w sent most significant bit first (R238). -/
def crcBit (w poly : Nat) (c : Nat) (b : Bool) : Nat :=
  let top := (c / 2 ^ (w - 1) % 2 == 1) != b
  let s := c * 2 % 2 ^ w
  if top then s ^^^ poly else s

/-- CRC-16, polynomial 0x1021, initial value 0xFFFF, over bits in the order sent (R238). -/
def crc16 (bits : List Bool) : Nat := bits.foldl (crcBit 16 0x1021) 0xFFFF

/-- One bit of a reflected CRC-32. -/
def crc32Bit (poly c : Nat) : Nat → Nat
  | 0 => c
  | n + 1 => crc32Bit poly (if c % 2 == 1 then (c / 2) ^^^ poly else c / 2) n

/-- A reflected CRC-32 with initial value and final XOR of all ones, by its reflected polynomial. -/
def crc32R (poly : Nat) (bs : List Byte) : BitVec 32 :=
  BitVec.ofNat 32 (bs.foldl (fun c b => crc32Bit poly (c ^^^ b.toNat) 8) 0xFFFFFFFF) ^^^ 0xFFFFFFFF

/-- CRC-32C (Castagnoli), reflected polynomial 0x82F63B78. -/
def crc32c (bs : List Byte) : BitVec 32 := crc32R 0x82F63B78 bs

end Sys2Proof.Machine
end

