-- ==== Sys2Proof/Machine/Aes.lean ====
section
/-!
DEFINITION. Aes.lean: AES-256 (FIPS 197), XTS on one 32-byte data unit (IEEE 1619, R304) and GCM with a 96-bit nonce and a 128-bit tag
(NIST SP 800-38D, R305, R326).
-/

namespace Sys2Proof.Machine

/-! ### AES-256 -/

/-- The S-box, 16 rows of 16 bytes, the first byte of a row lowest. -/
def sbox : List Nat :=
  [0x76abd7fe2b670130c56f6bf27b777c63, 0xc072a49cafa2d4adf04759fa7dc982ca, 0x1531d871f1e5a534ccf73f362693fdb7, 0x75b227ebe28012079a059618c323c704,
   0x842fe329b3d63b52a05a6e1b1a2c8309, 0xcf584c4a39becb6a5bb1fc20ed00d153, 0xa89f3c507f02f94585334d43fbaaefd0, 0xd2f3ff1021dab6bcf5389d928f40a351,
   0x73195d643d7ea7c41744975fec130ccd, 0xdb0b5ede14b8ee4688902a22dc4f8160, 0x79e4959162acd3c25c2406490a3a32e0, 0x08ae7a65eaf4566ca94ed58d6d37c8e7,
   0x8a8bbd4b1f74dde8c6b4a61c2e2578ba, 0x9e1dc186b95735610ef6034866b53e70, 0xdf2855cee9871e9b948ed9691198f8e1, 0x16bb54b00f2d99416842e6bf0d89a18c]
/-- Its inverse. -/
def invSbox : List Nat :=
  [0xfbd7f3819ea340bf38a53630d56a0952, 0xcbe9dec444438e3487ff2f9b8239e37c, 0x4ec3fa420b954cee3d23c2a632947b54, 0x25d18b6d49a25b76b224d92866a12e08,
   0x92b6655dcc5ca4d41698688664f6f872, 0x849d8da75746155edab9edfd5048706c, 0x0645b3b80558e4f70ad3bc8c00abd890, 0x6b8a130103bdafc1020f3fca8f1e2cd0,
   0x73e6b4f0cecff297eadc674f4111913a, 0x6edf751ce837f9e28535ade72274ac96, 0x1bbe18aa0e62b76f89c5291d711af147, 0xf45acd78fec0db9a2079d2c64b3e56fc,
   0x5fec8027591012b131c7078833a8dd1f, 0xef9cc9939f7ae52d0d4ab519a97f5160, 0x619953833cbbebc8b0f52aae4d3be0a0, 0x7d0c2155631469e126d677ba7e042b17]

/-- The entry of a byte in a table of 16 rows. -/
def tableByte (t : List Nat) (x : Byte) : Byte := BitVec.ofNat 8 (t.getD (x.toNat / 16) 0 >>> (8 * (x.toNat % 16)))
/-- SubBytes of one byte. -/
def subByte (x : Byte) : Byte := tableByte sbox x
/-- The inverse of SubBytes. -/
def invSubByte (x : Byte) : Byte := tableByte invSbox x

/-- Multiplication by x in GF(2^8), of a number below 256. -/
def xtime (b : Nat) : Nat := if b < 128 then 2 * b else (2 * b) ^^^ 0x11b

/-- Multiplication in GF(2^8) by one of the coefficients of the column mixing and its inverse. -/
def mulByte (n b : Nat) : Nat :=
  match n with
  | 1 => b
  | 2 => xtime b
  | 3 => xtime b ^^^ b
  | 9 => xtime (xtime (xtime b)) ^^^ b
  | 11 => xtime (xtime (xtime b) ^^^ b) ^^^ b
  | 13 => xtime (xtime (xtime b ^^^ b)) ^^^ b
  | _ => xtime (xtime (xtime b ^^^ b) ^^^ b)

/-- Exclusive or of two byte strings. -/
def xorBytes (a b : List Byte) : List Byte := List.zipWith (· ^^^ ·) a b

/-- The round constant of a round key. -/
def rcon (i : Nat) : Byte := BitVec.ofNat 8 ((List.range (i - 1)).foldl (fun b _ => xtime b) 1)

/-- The next word of the key schedule, `ws` holding the words so far, the latest first. -/
def nextWord (ws : List (List Byte)) : List Byte :=
  let i := ws.length
  let t := ws.headD []
  let t := if i % 8 == 0 then xorBytes ((t.tail ++ [t.headD 0]).map subByte) [rcon (i / 8), 0, 0, 0]
    else if i % 8 == 4 then t.map subByte else t
  xorBytes (ws.getD 7 []) t

/-- The 15 round keys of a 256-bit key given as 32 bytes. -/
def roundKeys (key : List Byte) : List (List Byte) :=
  let ws := ((List.range 52).foldl (fun ws _ => nextWord ws :: ws) (pieces 4 8 key).reverse).reverse
  pieces 16 15 ws.flatten

/-- The column mixing of one column by the coefficients of its first row, 2 3 1 1 or 14 11 13 9. -/
def mixColumn (m : Nat × Nat × Nat × Nat) (c : List Byte) : List Byte :=
  let (a, b, c, d) := (c.getD 0 0 |>.toNat, c.getD 1 0 |>.toNat, c.getD 2 0 |>.toNat, c.getD 3 0 |>.toNat)
  let row (a b c d : Nat) : Byte := BitVec.ofNat 8 (mulByte m.1 a ^^^ mulByte m.2.1 b ^^^ mulByte m.2.2.1 c ^^^ mulByte m.2.2.2 d)
  [row a b c d, row b c d a, row c d a b, row d a b c]

/-- MixColumns of a block, or its inverse, by the coefficients. -/
def mixColumns (m : Nat × Nat × Nat × Nat) (b : List Byte) : List Byte := ((pieces 4 4 b).map (mixColumn m)).flatten

/-- ShiftRows with a step of d columns for each row. -/
def shiftRows (d : Nat) (b : List Byte) : List Byte := (List.range 16).map (fun k => b.getD (4 * ((k / 4 + d * (k % 4)) % 4) + k % 4) 0)

/-- A round of the cipher, the last one without the column mixing. -/
def cipherRound (b : List Byte) (k : List Byte × Bool) : List Byte :=
  let x := shiftRows 1 (b.map subByte)
  xorBytes (if k.2 then x else mixColumns (2, 3, 1, 1) x) k.1

/-- Encryption of a block under round keys. -/
def aesEnc (ks : List (List Byte)) (b : List Byte) : List Byte :=
  (ks.tail.zipIdx.map (fun (k, i) => (k, i == 13))).foldl cipherRound (xorBytes b (ks.headD []))

/-- A round of the inverse cipher: the inverse of a round of the cipher. -/
def decipherRound (b : List Byte) (k : List Byte × Bool) : List Byte :=
  let x := xorBytes b k.1
  (shiftRows 3 (if k.2 then x else mixColumns (14, 11, 13, 9) x)).map invSubByte

/-- Decryption of a block under round keys. -/
def aesDec (ks : List (List Byte)) (b : List Byte) : List Byte :=
  xorBytes ((ks.tail.zipIdx.map (fun (k, i) => (k, i == 13))).reverse.foldl decipherRound b) (ks.headD [])

/-! ### XTS (R304) -/

/-- A tweak multiplied by the primitive element, as a little-endian number. -/
def tweakNext (t : Nat) : Nat := (2 * t) % 2 ^ 128 ^^^ (if t / 2 ^ 127 % 2 == 1 then 0x87 else 0)

/-- One data unit of two blocks under the tweak g, `f` being the block cipher under K1 in the direction wanted. -/
def xtsUnit (f : List Byte → List Byte) (k2 : List Byte) (g : Nat) (data : List Byte) : List Byte :=
  let t0 := leNat (aesEnc (roundKeys k2) (natLe 16 g))
  let blk (t : Nat) (b : List Byte) : List Byte := xorBytes (f (xorBytes b (natLe 16 t))) (natLe 16 t)
  blk t0 (data.take 16) ++ blk (tweakNext t0) (data.drop 16)

/-- AES-256-XTS of a 32-byte Granule. -/
def xtsEnc (k1 k2 : List Byte) (g : Nat) (data : List Byte) : List Byte := xtsUnit (aesEnc (roundKeys k1)) k2 g data
/-- Its inverse. -/
def xtsDec (k1 k2 : List Byte) (g : Nat) (data : List Byte) : List Byte := xtsUnit (aesDec (roundKeys k1)) k2 g data

/-! ### GCM (R305, R326) -/

/-- Multiplication in GF(2^128) with the bit order of GCM. -/
def gcmMul (x y : BitVec 128) : BitVec 128 :=
  ((List.range 128).foldl (fun (a : BitVec 128 × BitVec 128) i =>
    (if x.getMsbD i then a.1 ^^^ a.2 else a.1, (a.2 >>> 1) ^^^ (if a.2.getLsbD 0 then 0xE1#128 <<< 120 else 0))) (0, y)).1

/-- A string as 16-byte blocks, the last one filled with zeros. -/
def blocks16 (bs : List Byte) : List (BitVec 128) :=
  (pieces 16 ((bs.length + 15) / 16) bs).map (fun b => BitVec.ofNat 128 (beNat (b ++ List.replicate (16 - b.length) 0)))

/-- GHASH under the subkey h. -/
def ghash (h : BitVec 128) (xs : List (BitVec 128)) : BitVec 128 := xs.foldl (fun y x => gcmMul (y ^^^ x) h) 0

/-- The counter block of a 96-bit nonce. -/
def ctrBlock (iv n : Nat) : List Byte := natBe 12 iv ++ natBe 4 n

/-- The key stream over a string, from counter 2 on. -/
def gcmCrypt (ks : List (List Byte)) (iv : Nat) (bs : List Byte) : List Byte :=
  ((pieces 16 ((bs.length + 15) / 16) bs).zipIdx.map (fun (b, j) => xorBytes b (aesEnc ks (ctrBlock iv (j + 2))))).flatten

/-- The 16-byte tag over authenticated data and cipher text. -/
def gcmTag (ks : List (List Byte)) (iv : Nat) (aad ct : List Byte) : List Byte :=
  let h := BitVec.ofNat 128 (beNat (aesEnc ks (List.replicate 16 0)))
  let y := ghash h (blocks16 aad ++ blocks16 ct ++ [BitVec.ofNat 128 (8 * aad.length * 2 ^ 64 + 8 * ct.length)])
  xorBytes (natBe 16 y.toNat) (aesEnc ks (ctrBlock iv 1))

/-- Seal: cipher text and tag. -/
def gcmSeal (ks : List (List Byte)) (iv : Nat) (aad pt : List Byte) : List Byte × List Byte :=
  let ct := gcmCrypt ks iv pt
  (ct, gcmTag ks iv aad ct)

/-- Open: the plain text where the tag is right. -/
def gcmOpen (ks : List (List Byte)) (iv : Nat) (aad ct tag : List Byte) : Option (List Byte) :=
  if gcmTag ks iv aad ct == tag then some (gcmCrypt ks iv ct) else none

end Sys2Proof.Machine
end

