-- ==== Sys2Proof/Machine/Codes.lean ====
section
/-!
DEFINITION. Codes.lean: the fault and record codes of Table 17.4 with their severity and detail format (R393, R402).
-/

namespace Sys2Proof.Machine

/-- The codes of Table 17.4: all the codes the engine raises (R402). -/
inductive FCode
  | cmdForm | cmdPriv | bakedRefused | evtHandle | hostAbort | hostRange | objectFreed | extNospace | startMissed
  | residencyLost | noCores | quotaReset | queueForm | evtDropped | formatRole | anchorMismatch | accTerms | wsTerms
  | zpRange | outlierIndex | anchorState | precision | modeUnavail | tileFit | shadowLate | shadowBusy | holdEmpty
  | accStale | drainRace | spillForm | laneBusy | align | outOfPartition | pendRead | tagMismatch | guardConflict
  | copyOverlap | meshCollide | darkRead | darkWrite | blockRange | illegalOp | skipTarget | halted | loopDepth
  | loopRange | waitPlace | drift | digestOrder | wsForm | wsRace | extStale | extRange | extRo | packForm
  | segOverrun | segLimit | granuleCe | granuleUe | repairExhausted | fieldRemap | stackCe | stackUe | stackDown
  | stackLane | extCe | extUe | extRestored | scrubUe | beatEarly | beatLost | beatCount | linkLate | linkNokey
  | linkPort | linkFrame | cellUnexpected | cellSegtag | portDown | twinDiverge | twinLink | twinLanes | twinMiswire
  | twinVersion | twinMismatch | twinAuth | twinSync | slotIsolated | slotXop | slotLate | slotIdent | slotLoad
  | slotBootload | partShape | slotBind | repairTorn | repairUnsaved | repairAppend | i3cStuck | mcRestart | mcDead
  | beatSrcNone | rampStep | thermWarn | thermStop | thermClear | dbReject | extPart | linkAuth | keyDupid
deriving DecidableEq, Repr

/-- CODE, severity (Table 17.1) and DFMT (Table 17.5) of a code, row by row of Table 17.4. -/
def FCode.row : FCode → Nat × Nat × Nat
  | .cmdForm => (0x1001, 1, 7)
  | .cmdPriv => (0x1002, 1, 0)
  | .bakedRefused => (0x1003, 1, 7)
  | .evtHandle => (0x1004, 1, 7)
  | .hostAbort => (0x1005, 1, 3)
  | .hostRange => (0x1006, 1, 7)
  | .objectFreed => (0x1007, 1, 4)
  | .extNospace => (0x1008, 1, 0)
  | .startMissed => (0x1009, 1, 7)
  | .residencyLost => (0x100A, 1, 0)
  | .noCores => (0x100B, 1, 0)
  | .quotaReset => (0x100C, 0, 7)
  | .queueForm => (0x100D, 2, 7)
  | .evtDropped => (0x100E, 0, 7)
  | .formatRole => (0x2001, 1, 0)
  | .anchorMismatch => (0x2002, 1, 0)
  | .accTerms => (0x2003, 1, 0)
  | .wsTerms => (0x2004, 1, 0)
  | .zpRange => (0x2005, 1, 0)
  | .outlierIndex => (0x2006, 1, 0)
  | .anchorState => (0x2007, 1, 0)
  | .precision => (0x2008, 1, 0)
  | .modeUnavail => (0x2009, 1, 0)
  | .tileFit => (0x200A, 1, 0)
  | .shadowLate => (0x200B, 1, 0)
  | .shadowBusy => (0x200C, 1, 0)
  | .holdEmpty => (0x200D, 1, 0)
  | .accStale => (0x200E, 1, 0)
  | .drainRace => (0x200F, 1, 0)
  | .spillForm => (0x2010, 1, 0)
  | .laneBusy => (0x2011, 1, 0)
  | .align => (0x2012, 1, 1)
  | .outOfPartition => (0x2013, 1, 1)
  | .pendRead => (0x2014, 1, 1)
  | .tagMismatch => (0x2015, 1, 1)
  | .guardConflict => (0x2016, 1, 1)
  | .copyOverlap => (0x2017, 1, 1)
  | .meshCollide => (0x2018, 1, 1)
  | .darkRead => (0x2019, 1, 1)
  | .darkWrite => (0x201A, 1, 1)
  | .blockRange => (0x201B, 1, 0)
  | .illegalOp => (0x201C, 1, 0)
  | .skipTarget => (0x201D, 1, 0)
  | .halted => (0x201E, 1, 7)
  | .loopDepth => (0x201F, 1, 0)
  | .loopRange => (0x2020, 1, 0)
  | .waitPlace => (0x2021, 1, 0)
  | .drift => (0x2022, 1, 2)
  | .digestOrder => (0x2023, 1, 0)
  | .wsForm => (0x2024, 1, 0)
  | .wsRace => (0x2025, 1, 0)
  | .extStale => (0x2026, 1, 4)
  | .extRange => (0x2027, 1, 4)
  | .extRo => (0x2028, 1, 4)
  | .packForm => (0x2029, 1, 4)
  | .segOverrun => (0x202A, 1, 0)
  | .segLimit => (0x202B, 1, 0)
  | .granuleCe => (0x3001, 0, 1)
  | .granuleUe => (0x3002, 1, 1)
  | .repairExhausted => (0x3003, 0, 1)
  | .fieldRemap => (0x3004, 0, 1)
  | .stackCe => (0x3005, 0, 5)
  | .stackUe => (0x3006, 1, 5)
  | .stackDown => (0x3007, 2, 7)
  | .stackLane => (0x3008, 0, 5)
  | .extCe => (0x3009, 0, 7)
  | .extUe => (0x300A, 1, 4)
  | .extRestored => (0x300B, 0, 7)
  | .scrubUe => (0x300C, 0, 1)
  | .beatEarly => (0x4001, 0, 0)
  | .beatLost => (0x4002, 3, 0)
  | .beatCount => (0x4003, 0, 0)
  | .linkLate => (0x4004, 1, 6)
  | .linkNokey => (0x4005, 1, 6)
  | .linkPort => (0x4006, 1, 6)
  | .linkFrame => (0x4007, 0, 6)
  | .cellUnexpected => (0x4008, 0, 6)
  | .cellSegtag => (0x4009, 0, 6)
  | .portDown => (0x400A, 2, 6)
  | .twinDiverge => (0x5001, 2, 7)
  | .twinLink => (0x5002, 2, 0)
  | .twinLanes => (0x5003, 0, 0)
  | .twinMiswire => (0x5004, 0, 0)
  | .twinVersion => (0x5005, 0, 0)
  | .twinMismatch => (0x5006, 0, 0)
  | .twinAuth => (0x5007, 0, 0)
  | .twinSync => (0x5008, 0, 0)
  | .slotIsolated => (0x6001, 1, 7)
  | .slotXop => (0x6002, 1, 7)
  | .slotLate => (0x6003, 1, 7)
  | .slotIdent => (0x6004, 1, 7)
  | .slotLoad => (0x6005, 1, 7)
  | .slotBootload => (0x6006, 2, 7)
  | .partShape => (0x7001, 0, 7)
  | .slotBind => (0x7002, 0, 7)
  | .repairTorn => (0x7003, 0, 7)
  | .repairUnsaved => (0x7004, 0, 7)
  | .repairAppend => (0x7005, 0, 7)
  | .i3cStuck => (0x7006, 2, 7)
  | .mcRestart => (0x7007, 2, 0)
  | .mcDead => (0x7008, 2, 0)
  | .beatSrcNone => (0x7009, 0, 7)
  | .rampStep => (0x8001, 1, 0)
  | .thermWarn => (0x9001, 0, 7)
  | .thermStop => (0x9002, 3, 7)
  | .thermClear => (0x9003, 0, 7)
  | .dbReject => (0xA001, 0, 7)
  | .extPart => (0xA002, 1, 4)
  | .linkAuth => (0xA003, 0, 6)
  | .keyDupid => (0xA004, 0, 6)

/-- CODE of Table 17.4. -/
def FCode.code (c : FCode) : Nat := c.row.1
/-- Severity: 0 NOTE, 1 FAIL, 2 SERVICE, 3 STOP (Table 17.1). -/
def FCode.sev (c : FCode) : Nat := c.row.2.1
/-- Detail format (Table 17.5). SCRUB_UE is listed with format 1 and takes 5 for stack memory (R404). -/
def FCode.dfmt (c : FCode) : Nat := c.row.2.2
/-- Class of a code: bits [15:12] (Table 17.2). -/
def FCode.cls (c : FCode) : Nat := c.code / 4096

end Sys2Proof.Machine
end

