-- ==== Sys2Proof/Machine/Operands.lean ====
section
/-!
DEFINITION. Operands.lean: Quantisation Descriptors, group scales, codebooks, zero points, outlier channels and the exact terms
that a pairing of two operands adds to an entry (R41, R48 to R52, R67 to R79). A reader `rd address length` gives the bytes of
the scratchpad of the core that reads them.
-/

namespace Sys2Proof.Machine

/-- A Quantisation Descriptor (Table 3.1), with `resv`: a reserved field is nonzero. Address words are kept whole, since the
reserved bits of a used one count (R67). -/
structure QDesc where
  fmt     : Nat
  gsize   : Nat
  sbf16   : Bool
  zpmode  : Nat
  cbsel   : Bool
  outl    : Bool
  zp      : Int
  sbase   : Nat
  zbase   : Nat
  cbaddr  : Nat
  oiaddr  : Nat
  ovbase  : Nat
  sstride : Nat
  tid     : Nat
  resv    : Bool
deriving DecidableEq, Repr

/-- Table 3.1: the fields of a descriptor Granule. -/
def parseDesc (g : List Byte) : QDesc :=
  let v := leNat g
  { fmt := bitsOf v 0 4, gsize := bitsOf v 8 2, sbf16 := bitsOf v 10 1 == 1, zpmode := bitsOf v 11 2,
    cbsel := bitsOf v 13 1 == 1, outl := bitsOf v 14 1 == 1, zp := signed 16 (bitsOf v 16 16), sbase := bitsOf v 32 32,
    zbase := bitsOf v 64 32, cbaddr := bitsOf v 96 32, oiaddr := bitsOf v 128 32, ovbase := bitsOf v 160 32,
    sstride := bitsOf v 192 16, tid := bitsOf v 224 32,
    resv := bitsOf v 4 4 != 0 || bitsOf v 15 1 != 0 || bitsOf v 208 16 != 0 }

/-- The group size along K; 0 for none (Table 3.1). -/
def QDesc.group (d : QDesc) : Nat := if d.gsize == 0 then 0 else 16 * 2 ^ d.gsize

/-- A used address word: 32-byte aligned, bits [31:23] zero (R67). -/
def addrWordOk (a : Nat) : Bool := a % 32 == 0 && a < 2 ^ 23

/-- R67, R41, Table 3.1: the descriptor may be used as an operand of an operation of depth `k`. -/
def QDesc.ok (d : QDesc) (k : Nat) : Bool :=
  !d.resv && fmtOperand d.fmt && d.zpmode != 3 && (d.gsize == 0 || !fmtWide d.fmt)
    && (d.zpmode == 0 || fmtInt d.fmt) && (!d.cbsel || d.fmt == 9)
    && (d.gsize == 0 || (addrWordOk d.sbase && d.sstride * d.group ≥ k))
    && (d.zpmode != 2 || addrWordOk d.zbase)
    && (!d.cbsel || addrWordOk d.cbaddr)
    && (!d.outl || (addrWordOk d.oiaddr && addrWordOk d.ovbase))

/-- Table 3.3: the default BELL4 table. -/
def bell4 : List Int := [-127, -89, -67, -51, -38, -26, -13, 0, 10, 20, 31, 43, 56, 71, 92, 127]

/-- R72: the entries of a codebook object. -/
def codebookOf (g : List Byte) : List Int := (g.take 16).map (fun b => b.toInt)

/-- R70: the active codebook of a descriptor. -/
def QDesc.codebook (d : QDesc) (rd : Nat → Nat → List Byte) : List Int :=
  if d.cbsel then codebookOf (rd d.cbaddr 32) else bell4

/-- R72: a reserved byte of the codebook object is nonzero. -/
def QDesc.codebookBad (d : QDesc) (rd : Nat → Nat → List Byte) : Bool :=
  d.cbsel && ((rd d.cbaddr 32).drop 16).any (fun b => b != 0)

/-- R77: the outlier index object read as its count and its 64 entries. -/
def outlierObj (g : List Byte) : Nat × List Nat :=
  (leNat (g.take 4), (List.range 64).map (fun i => leNat ((g.drop (32 + 2 * i)).take 2)))

/-- Strictly ascending. -/
def ascending : List Nat → Bool
  | a :: b :: r => a < b && ascending (b :: r)
  | _ => true

/-- R77: the object fails its check for an operation of depth `k`. -/
def QDesc.outlierBad (d : QDesc) (rd : Nat → Nat → List Byte) (k : Nat) : Bool :=
  d.outl && (let g := rd d.oiaddr 160
             let (n, es) := outlierObj g
             n > 64 || !ascending (es.take n) || (es.take n).any (fun i => i ≥ k) || (es.drop n).any (fun i => i != 0)
               || ((g.take 32).drop 4).any (fun b => b != 0))

/-- R78: the K indices of the outlier channels. -/
def QDesc.outliers (d : QDesc) (rd : Nat → Nat → List Byte) : List Nat :=
  if d.outl then let (n, es) := outlierObj (rd d.oiaddr 160)
                 es.take n
  else []

/-- R74: the zero point of a channel. -/
def QDesc.zero (d : QDesc) (rd : Nat → Nat → List Byte) (c : Nat) : Int :=
  match d.zpmode with
  | 1 => d.zp
  | 2 => signed 16 (leNat (rd (d.zbase + 2 * c) 2))
  | _ => 0

/-- R74: a zero point lies outside the range of its format. -/
def QDesc.zeroBad (d : QDesc) (rd : Nat → Nat → List Byte) (c : Nat) : Bool :=
  d.zpmode != 0 && (let z := d.zero rd c
                    let (lo, hi) := intRange d.fmt
                    z < lo || z > hi)

/-- R69: the address of the scale of channel c and group j. -/
def QDesc.scaleAddr (d : QDesc) (c j : Nat) : Nat := d.sbase + (c * d.sstride + j) * (if d.sbf16 then 2 else 1)

/-- R69, R47: the scale of channel c at logical position k. -/
def QDesc.scale (d : QDesc) (rd : Nat → Nat → List Byte) (c k : Nat) : Dec :=
  if d.group == 0 then .fin 1 0
  else decScale d.sbf16 (leNat (rd (d.scaleAddr c (k / d.group)) (if d.sbf16 then 2 else 1)))

/-- R72, R74, R77, R67: the first fault that an operand of `chans` channels from `c0` raises at issue. -/
def QDesc.fault (d : QDesc) (rd : Nat → Nat → List Byte) (c0 chans k : Nat) : Option FCode :=
  if !d.ok k || d.codebookBad rd then some .formatRole
  else if (List.range (if d.zpmode == 2 then chans else 1)).any (fun c => d.zeroBad rd (c0 + c)) then some .zpRange
  else if d.outlierBad rd k then some .outlierIndex
  else none

/-- One channel of an operand over the whole depth: format, elements by position, zero point, scale of each Grain and outliers
with their BF16 values. -/
structure OpRow where
  wide   : Bool
  fmt    : Nat
  els    : List Dec
  z      : Int
  zp     : Bool
  scales : List Dec
  outs   : List (Nat × Dec)
deriving DecidableEq, Repr

/-- The weight exponent of a narrow format (Table 2.4). -/
def fmtWeight (fmt : Nat) : Int :=
  match fpOf fmt with
  | some p => 1 - p.bias - p.mb
  | none => 0

/-- Bytes that k elements of a format take. -/
def spanBytes (fmt k : Nat) : Nat := (k * fmtBits fmt + 7) / 8

/-- R48, R69, R70, R74, R75, R78: Grains [g0, g1) of channel `c` of an operand at `base` with channel pitch `pitch` and depth k, in their
places; positions of other Grains are empty. What the descriptor names is read by `rq`, the elements by `rd`. Padding holds q = z, and so does an
outlier position whatever the memory holds there (DESIGN CHOICE, log 61: R75 says what the tensor holds, and the block holds it so). -/
def loadGrains (d : QDesc) (rq rd : Nat → Nat → List Byte) (base pitch c k g0 g1 : Nat) : OpRow :=
  let cb := d.codebook rq
  let z := d.zero rq c
  let os := d.outliers rq
  let lo := spanBytes d.fmt (32 * g0)
  let data := leNat (rd (base + c * pitch + lo) (spanBytes d.fmt (min k (32 * g1)) - lo))
  let pad : Dec := .fin z (fmtWeight d.fmt)
  { wide := fmtWide d.fmt, fmt := d.fmt, z := z, zp := d.zpmode != 0,
    els := List.replicate (32 * g0) pad ++ (List.range (32 * (g1 - g0))).map (fun j =>
      if 32 * g0 + j ≥ k || os.contains (32 * g0 + j) then pad else decElem d.fmt cb (elemAt d.fmt data j)),
    scales := (List.range g1).map (fun g => if g < g0 then .fin 1 0 else d.scale rq c (32 * g)),
    outs := os.zipIdx.map (fun (ki, i) =>
      (ki, decFP bf16 (leNat (rq (d.ovbase + 2 * (c * os.length + i)) 2)))) }

/-- A channel of zero elements: a column of a panel beyond the held extent (R102), a lane beyond the weight rows (R120). -/
def zeroRow (d : QDesc) : OpRow := ⟨fmtWide d.fmt, d.fmt, [], 0, d.zpmode != 0, [], []⟩

/-! ### Terms -/

/-- A term of an entry: x × 2^e with the flags of its products (R50 to R52). -/
structure Term where
  x : Int
  e : Int
  n : Bool
  p : Bool
  m : Bool
deriving DecidableEq, Repr

/-- Sign of a factor. -/
def Dec.neg : Dec → Bool
  | .fin q _ => decide (q < 0)
  | .inf s => s
  | .nan => false

/-- R52, Table 2.6: the class of a product of factors: finite, or its flag. -/
inductive Cls
  | fin | n | p | m
deriving DecidableEq, Repr

/-- R52: one rule for a product of its two operands and two scales. -/
def classify (fs : List Dec) : Cls :=
  if fs.any (fun f => f == .nan) then .n
  else if fs.any (fun f => match f with | .inf _ => true | _ => false) then
    if fs.any (fun f => match f with | .fin q _ => q == 0 | _ => false) then .n
    else if (fs.filter Dec.neg).length % 2 == 0 then .p else .m
  else .fin

/-- The finite significand of a factor; 0 where it has none. -/
def Dec.q : Dec → Int
  | .fin q _ => q
  | _ => 0
/-- The exponent of a factor. -/
def Dec.f : Dec → Int
  | .fin _ f => f
  | _ => 0

/-- An operand element less its zero point (R74, R51). -/
def Dec.less (d : Dec) (z : Int) : Dec :=
  match d with
  | .fin q f => .fin (q - z) f
  | d => d

/-- R51, R78: one exact product as a term. -/
def productTerm (fs : List Dec) : Term :=
  match classify fs with
  | .fin => ⟨(fs.map Dec.q).foldl (· * ·) 1, (fs.map Dec.f).foldl (· + ·) 0, false, false, false⟩
  | .n => ⟨0, 0, true, false, false⟩
  | .p => ⟨0, 0, false, true, false⟩
  | .m => ⟨0, 0, false, false, true⟩

/-- Element i of a channel. -/
def OpRow.el (r : OpRow) (i : Nat) : Dec := r.els.getD i (.fin r.z 0)
/-- The scale of Grain g. -/
def OpRow.sc (r : OpRow) (g : Nat) : Dec := r.scales.getD g (.fin 1 0)

/-- The sum of integers. -/
def isum (l : List Int) : Int := l.foldl (· + ·) 0

/-- R49, R50, R52, R76: the terms of Grain g of a narrow pairing: the scaled Grain sum and, where an operand has zero points,
its correction. -/
def grainTerms (a b : OpRow) (g : Nat) : List Term :=
  let sa := a.sc g
  let sb := b.sc g
  let ix := (List.range 32).map (fun i => 32 * g + i)
  let cls := ix.map (fun i => classify [(a.el i).less a.z, (b.el i).less b.z, sa, sb])
  let qs := sa.q * sb.q
  let e := fmtWeight a.fmt + fmtWeight b.fmt + sa.f + sb.f
  let x := isum (ix.map (fun i => (a.el i).q * (b.el i).q)) * qs
  let main : Term := ⟨x, e, cls.contains .n, cls.contains .p, cls.contains .m⟩
  if a.zp || b.zp then
    let c := (32 * a.z * b.z - b.z * isum (ix.map (fun i => (a.el i).q)) - a.z * isum (ix.map (fun i => (b.el i).q))) * qs
    [main, ⟨c, e, false, false, false⟩]
  else [main]

/-- R51: the single products of Grain g of a pairing with a wide operand, to depth k (R62). -/
def wideTerms (a b : OpRow) (g k : Nat) : List Term :=
  (List.range (min 32 (k - 32 * g))).map (fun i =>
    productTerm [(a.el (32 * g + i)).less a.z, (b.el (32 * g + i)).less b.z, a.sc g, b.sc g])

/-- R78: the outlier products of `o` against the other operand `x`, for K positions of Grains [g0, g1). -/
def outlierTerms (o x : OpRow) (g0 g1 : Nat) : List Term :=
  (o.outs.filter (fun p => 32 * g0 ≤ p.1 && p.1 < 32 * g1)).map (fun p =>
    productTerm [p.2, (x.el p.1).less x.z, x.sc (p.1 / 32)])

/-- R48 to R52, R76, R78: every term of one output entry for Grains [g0, g1) of a pairing of depth k. -/
def pairTerms (a b : OpRow) (g0 g1 k : Nat) : List Term :=
  (List.range (g1 - g0)).flatMap (fun i =>
      if a.wide || b.wide then wideTerms a b (g0 + i) k else grainTerms a b (g0 + i))
    ++ outlierTerms a b g0 g1 ++ outlierTerms b a g0 g1

/-! ### Quantising (R80 to R84) -/

/-- A ratio of integers with positive denominator, compared exactly. -/
def ratLt (a b : Int × Nat) : Bool := decide (a.1 * b.2 < b.1 * a.2)

/-- The larger of two ratios. -/
def ratMax (a b : Int × Nat) : Int × Nat := if ratLt a b then b else a

/-- A dyadic value as a ratio. -/
def dyRat (q f : Int) : Int × Nat := ratShift q 1 f

/-- Quotient of two dyadic values, the divisor positive. -/
def dyDiv (q f : Int) (den denF : Int) : Int × Nat :=
  let (n, d) := ratShift q 1 (f - denF)
  (n, d * den.toNat)

/-- Table 3.4: Q_hi and Q_lo as dyadic values q × 2^f. -/
def qLimits (fmt : Nat) (cb : List Int) (z : Int) : (Int × Int) × (Int × Int) :=
  match fpOf fmt with
  | some p => match decFP p (maxFin p) with
    | .fin q f => ((q, f), (q, f))
    | _ => ((0, 0), (0, 0))
  | none =>
    if fmt == 9 then ((cb.foldl max (cb.headD 0), 0), (-(cb.foldl min (cb.headD 0)), 0))
    else let (lo, hi) := intRange fmt
         ((hi - z, 0), (z - lo, 0))

/-- Table 3.5: e_max of MX mode. -/
def mxEmax : Nat → Int
  | 4 => 2 | 5 => 2 | 6 => 4 | 7 => 8 | 8 => 15 | _ => 6

/-- R81, Table 3.5: the formats of MX mode. -/
def mxFmt (f : Nat) : Bool := f == 2 || f == 4 || f == 5 || f == 6 || f == 7 || f == 8

/-- ceil(log2 (n/d)) for positive n. -/
def clog2 (n d : Nat) : Int :=
  let e := ilog2 n d
  if d * 2 ^ e.toNat == n * 2 ^ (-e).toNat then e else e + 1

/-- R81, Table 3.5: the scale code chosen for a group with extremes xmax ≥ 0 and xmin ≤ 0, given as ratios. -/
def chooseScale (mx sbf16 : Bool) (fmt : Nat) (cb : List Int) (z : Int) (xmax xmin : Int × Nat) : Nat :=
  let ((hq, hf), (lq, lf)) := qLimits fmt cb z
  let quot (x : Int × Nat) (q f : Int) : Int × Nat :=
    let (n, d) := ratShift x.1 x.2 (-f)
    (n, d * q.toNat)
  let r1 : Int × Nat := if hq > 0 then quot xmax hq hf else (0, 1)
  let r2 : Int × Nat := if lq > 0 then quot (-xmin.1, xmin.2) lq lf else (0, 1)
  let s := ratMax r1 r2
  if mx then
    let a := ratMax xmax (-xmin.1, xmin.2)
    if a.1 ≤ 0 then 0x7F
    else (max 0 (min 254 (ilog2 a.1.toNat a.2 - mxEmax fmt + 127))).toNat
  else if sbf16 then
    if s.1 ≤ 0 then 0x3F80
    else match roundFP bf16 .up s.1 s.2 with
      | (_, some k) => k
      | (_, none) => maxFin bf16
  else if s.1 ≤ 0 then 0x7F
  else (max 0 (min 254 (clog2 s.1.toNat s.2 + 127))).toNat

/-- R82: the BELL4 index of a quotient and whether it lies outside the codebook's span. The nearest entry wins, the lowest index
on a tie; stochastic selection takes the nearest entries below and above. -/
def encBell (cb : List Int) (r : Rnd) (v : Int × Nat) : Nat × Bool :=
  let lowest (p : Int → Bool) : Nat := (cb.findIdx p)
  let mn := cb.foldl min (cb.headD 0)
  let mx := cb.foldl max (cb.headD 0)
  if v.1 < mn * v.2 then (lowest (· == mn), true)
  else if v.1 > mx * v.2 then (lowest (· == mx), true)
  else
    let lo := (cb.filter (fun e => e * v.2 ≤ v.1)).foldl max mn
    let hi := (cb.filter (fun e => e * v.2 ≥ v.1)).foldl min mx
    match r with
    | .sr u =>
      if lo == hi then (lowest (· == lo), false)
      else
        let t := ((v.1 - lo * v.2) * 65536 / ((hi - lo) * v.2)).toNat
        (lowest (· == (if t > u then hi else lo)), false)
    | _ =>
      let dl := v.1 - lo * v.2
      let dh := hi * v.2 - v.1
      if dl < dh then (lowest (· == lo), false)
      else if dh < dl then (lowest (· == hi), false)
      else (lowest (fun e => e == lo || e == hi), false)

/-- R82: an element encoded from its exact quotient, and whether a clamp changed it. -/
def encQuant (fmt : Nat) (cb : List Int) (z : Int) (r : Rnd) (v : Int × Nat) : Nat × Bool :=
  if fmt == 9 then encBell cb r v
  else match fpOf fmt with
    | some p => match roundFP p r v.1 v.2 with
      | (_, some 0) => (0, false)
      | (neg, some k) => (signBit p neg + k, false)
      | (neg, none) => (signBit p neg + maxFin p, true)
    | none =>
      let (lo, hi) := intRange fmt
      let w := fmtBits fmt
      let q := roundGrid r v.1 v.2 0 + z
      if q > hi then (unsign w hi, true) else if q < lo then (unsign w lo, true) else (unsign w q, false)

/-- R83: the element code of zero value. -/
def zeroCode (fmt : Nat) (cb : List Int) (z : Int) : Nat :=
  if fmt == 9 then
    let m := (cb.map Int.natAbs).foldl min 256
    cb.findIdx (fun e => e.natAbs == m)
  else if fmtInt fmt then unsign (fmtBits fmt) z
  else 0

/-- The result of quantising one group: scale code, element codes, QCLIP, QNONFIN. -/
structure QGroup where
  scale : Nat
  codes : List Nat
  clip  : Nat
  nonfin : Nat
deriving DecidableEq, Repr

/-- R80 to R83: one group of FP32 values; `rnd i` is the rounding of element i of the group. -/
def quantGroup (mx sbf16 : Bool) (fmt : Nat) (cb : List Int) (z : Int) (rnd : Nat → Rnd) (xs : List Nat) : QGroup :=
  let ds := xs.map (decFP fp32)
  if ds.any (fun d => match d with | .fin _ _ => false | _ => true) then
    ⟨if sbf16 then 0x7FC0 else 0xFF, xs.map (fun _ => zeroCode fmt cb z), 0, 1⟩
  else
    let rs := ds.map (fun d => dyRat d.q d.f)
    let xmax := rs.foldl ratMax (0, 1)
    let xmin := (rs.foldl (fun a b => if ratLt b a then b else a) ((0, 1) : Int × Nat))
    let sc := chooseScale mx sbf16 fmt cb z xmax xmin
    let sd := decScale sbf16 sc
    let enc := ds.zipIdx.map (fun (d, i) => encQuant fmt cb z (rnd i) (dyDiv d.q d.f sd.q sd.f))
    ⟨sc, enc.map Prod.fst, (enc.filter Prod.snd).length, 0⟩

/-- R84: one element dequantised to FP32; `el` is its decoded element. An exactly zero result is +0 (DESIGN CHOICE, log 61: R84 gives no sign). -/
def dequant (el : Dec) (z : Int) (sc : Dec) : Nat :=
  match classify [el.less z, sc] with
  | .n => qnan
  | .p => inf32 false
  | .m => inf32 true
  | .fin => rneDy false ((el.q - z) * sc.q) (el.f + sc.f)

end Sys2Proof.Machine
end

