-- ==== Sys2Proof/Machine/SMap.lean ====
section
/-!
DEFINITION. SMap.lean: sparse maps and byte memories in canonical form: keys strictly rising, no entry equal to the default.
`smSet` of the default removes the entry, so equal contents are equal data.
-/

namespace Sys2Proof.Machine

/-- The value at a key; `d` is what an unlisted key has. -/
def smGet {α : Type} (d : α) : SMap α → Nat → α
  | [], _ => d
  | (a, v) :: r, k => if a = k then v else smGet d r k

/-- Insert an entry before the first larger key. -/
def smIns {α : Type} (k : Nat) (v : α) : SMap α → SMap α
  | [] => [(k, v)]
  | (a, w) :: r => if k < a then (k, v) :: (a, w) :: r else (a, w) :: smIns k v r

/-- The map without a key. -/
def smDel {α : Type} (m : SMap α) (k : Nat) : SMap α := m.filter (fun e => e.1 != k)

/-- The map with a key set; setting the default removes the entry. -/
def smSet {α : Type} [DecidableEq α] (d : α) (m : SMap α) (k : Nat) (v : α) : SMap α :=
  if v = d then smDel m k else smIns k v (smDel m k)

/-- The map with the value at a key changed by a function. -/
def smMod {α : Type} [DecidableEq α] (d : α) (m : SMap α) (k : Nat) (f : α → α) : SMap α :=
  smSet d m k (f (smGet d m k))

/-- Every entry changed by a function of its value. -/
def smMap {α : Type} [DecidableEq α] (d : α) (m : SMap α) (f : Nat → α → α) : SMap α :=
  (m.map (fun e => (e.1, f e.1 e.2))).filter (fun e => !decide (e.2 = d))

/-- Canonical form: keys strictly rising, no entry equal to the default. -/
def smWf {α : Type} [DecidableEq α] (d : α) : SMap α → Bool
  | [] => true
  | [(_, v)] => !decide (v = d)
  | (a, v) :: (b, w) :: r => !decide (v = d) && decide (a < b) && smWf d ((b, w) :: r)

/-- `n` bytes of a memory from an address. -/
def memRead (m : Mem) (a : Nat) : Nat → List Byte
  | 0 => []
  | n + 1 => smGet 0 m a :: memRead m (a + 1) n

/-- The nonzero bytes of a list as cells from an address. -/
def memCells (a : Nat) : List Byte → Mem
  | [] => []
  | b :: bs => if b = 0 then memCells (a + 1) bs else (a, b) :: memCells (a + 1) bs

/-- A memory with bytes written from an address. -/
def memWrite (m : Mem) (a : Nat) (bs : List Byte) : Mem :=
  m.filter (fun e => decide (e.1 < a)) ++ memCells a bs ++ m.filter (fun e => decide (a + bs.length ≤ e.1))

/-- The canonical form of a byte memory. -/
def Memory.wf (m : Mem) : Bool := smWf 0 m

end Sys2Proof.Machine
end

