-- ==== Sys2Proof/Config.lean ====
section
/-!
DEFINITION. Config.lean: what the licensee fixed when the block was generated (Table 0.2, R1, R434), and the free values. A free
value is a constant with no body: nothing here or elsewhere says what it is, so what is proved holds for every value of it.
-/

namespace Sys2Proof

/-- The build parameters of Table 0.2, the stepping, the capacity of the stacks and the licensee's values (R1, R3, R434). -/
structure Build where
  ncore   : Nat
  ntorte  : Nat
  spadKib : Nat
  nstack  : Nat
  nbraid  : Nat
  twin    : Bool
  nslot   : Nat
  b0      : Bool
  stkGran : Nat
  wlen    : List Nat
  frmu    : Nat
  tstopd  : Nat
  tstops  : Nat
deriving DecidableEq, Repr

namespace Config

/-- The build that State.reset describes: the full build of Table 0.2, stepping A1, 96 GiB to a stack. DESIGN CHOICE (log 4). -/
def build : Build :=
  { ncore := 64, ntorte := 8, spadKib := 8192, nstack := 8, nbraid := 16, twin := true, nslot := 8, b0 := false,
    stkGran := 3221225472, wlen := [65535, 65535, 65535, 65535, 65535, 65535, 65535, 65535], frmu := 128, tstopd := 105,
    tstops := 95 }

/-- Free value: byte `i` of the cipher text that a stack Granule holds while nothing has been written to it (R297; log 8). -/
opaque stackByte : Nat → Nat → BitVec 8

/-- Free value: word `i` of the `n`-th key that the true random number generator draws (R307, R327; log 10). -/
opaque drawnKey : Nat → Nat → BitVec 256

/-- Free value: the state of the LFSR of a Torte after as many driven cycles (R115, R117; log 24). -/
opaque lfsrAfter : Nat → BitVec 32 → BitVec 32

/-- Free value: byte `i` of the management channel in the Beat block of a port and Beat (R318, R327; log 28). -/
opaque mgmtByte : Nat → Nat → Nat → BitVec 8

/-- Free value: SEGTAG of a cell of a port and Beat that no Segment's table assigns (R317, R319; log 6). -/
opaque idleTag : Nat → Nat → BitVec 16

/-- Free value: byte `i` of a scratchpad Granule with four or more symbols in error, which GC-288 need not detect (R131; log 9). -/
opaque spadByte : Nat → Nat → BitVec 8

/-- Free value: byte `i` of a row whose bank lost its content in the Beat given (Table 6.5; log 30). -/
opaque lostByte : Nat → Nat → Nat → BitVec 8

/-- Free value: byte `i` that a stack Granule with four or more symbols in error delivers (R291; log 9). -/
opaque stackBad : Nat → Nat → BitVec 8

/-- Free value: bit `i` of the `n`-th draw of the true random number generator, as a word (R381; log 10). -/
opaque random : Nat → BitVec 256

/-- Free value: whether an SRST_N pulse between 100 ns and 1 µs is taken (R428; log 11). -/
opaque shortReset : Nat → Bool

/-- Free value: the handle of the `n`-th scratchpad region, whose form R274 does not give (log 13). -/
opaque regionHandle : Nat → BitVec 32

/-- Free value: the boot ROM's identity, a SHA-384 fixed at manufacture (Table 15.11; log 34). -/
opaque romIdentity : BitVec 384

/-- Free value: the version that the MC firmware of a section DIGEST reports in MGT_FWVER (Table 18.11; log 34). -/
opaque fwVersion : BitVec 384 → BitVec 32

/-- Free value: DER fields of the Alias certificate for a configuration measurement and an Alias public key that R380 does not give: those before the public
key (serial number, names, validity), and the extensions beside TcbInfo (R380; log 36). -/
opaque certFields : Bool → BitVec 384 → Nat × Nat → List (BitVec 8)

/-- Free value: the nonce with which the Alias certificate of a configuration measurement is signed (R380; log 36). -/
opaque certNonce : BitVec 384 → Nat

/-- Free value: byte `i` of what the `n`-th SPDM answer holds that rests on draws and on transcripts of the session: signatures, exchange data, verify data (R381;
log 36). -/
opaque spdmByte : Nat → Nat → BitVec 8

/-- Free value: how many of the commands that a STANDBY primary has journaled its twin has not run, by the cycle of the read (Table 13.12; log 33). -/
opaque twinLag : Nat → Nat

/-- Free value: byte `i` of the payload of a cell that a group of the twin port sends, by group, Beat and cell: what the journal, the sync and the rest look like
in cells is not stated (R334; log 33). -/
opaque twinByte : Nat → Nat → Nat → Nat → BitVec 8

end Config

end Sys2Proof
end

