-- ==== Sys2Proof/Machine/State.lean ====
section
/-!
DEFINITION. State.lean: the state of the block as plain data, the reasons a step can stop, and the state after reset.
Sparse maps (SMap) hold what differs from the value an unlisted key has; the name of that value stands beside each map.
Times are absolute ACLK cycles unless a name says Beat; `beat.start` is the absolute cycle of (b, 0).
-/

namespace Sys2Proof.Machine

/-! ### Accumulators and registers of a core (chapters 02, 04, 05, 07) -/

/-- One Long Accumulator value with its flags (Table 2.7). -/
structure Acc where
  v : BitVec 128
  n : Bool
  p : Bool
  m : Bool
deriving DecidableEq, Repr

/-- What the 32 columns of one entry index hold (Table 2.7): `anchor` signed 16-bit, `terms` at most 2^32, `clp` by column the terms
clamped since the clear that no drain has counted (R61; none where the list ends). -/
structure EntV where
  live   : Bool
  anchor : Int
  terms  : Nat
  clp    : List Nat
  cols   : List Acc
deriving DecidableEq, Repr

/-- What can happen to one entry index in a cycle (R53, R56, R57, R112, R113): the terms of a row added, `n` to a column, after a clear
under an Anchor where the pass clears; a reload; a spilled index joined; a clear by the drain that has read it; the clamps of its first columns counted by a
drain that does not clear it. -/
inductive EntOp
  | add (clear : Option Int) (n : Nat) (cols : List (List Term))
  | load (v : EntV)
  | join (v : EntV)
  | drained
  | counted (n : Nat)
deriving DecidableEq, Repr

/-- One entry index of a Wafer or of the Strudel: its contents before the Beat, what happens to it in the Beat in order of cycle, and
for the drains that read it the cycles in which they arm and read it (R112). -/
structure Entry where
  base  : EntV
  evs   : List (Nat × EntOp)
  reads : List (Nat × Nat)
deriving DecidableEq, Repr

/-- A sync counter (R175, R176): the value with every addition older than the current Beat, and the later ones with their cycle. -/
structure Ctr where
  base : W32
  adds : List (Nat × BitVec 32)
deriving DecidableEq, Repr

/-- Where a stream instruction stands for a fault record (Table 9.6): its issue, the DVIS stream and instruction index that the location
map gives its physical PC (R231), and the loop iteration vector at its issue. -/
structure Loc where
  iss   : Iss
  strm  : Nat
  dix   : BitVec 32
  loops : List (BitVec 32)
deriving DecidableEq, Repr

/-- What one shadow load put into the cells of one Wafer (R97, R105, R110, R201). `cells` holds by column and physical row the one or two
decoded elements of the cell, none in the row out of use; by column also the scales of the Grains and the outlier values by
K position. `g0` is the first Grain; the rest is what the HOLD that loaded it named, with the K positions of its outlier list. -/
structure CellLoad where
  mode   : AMode
  unit   : Nat
  units  : Nat
  k      : Nat
  chans  : Nat
  issue  : Nat
  g0     : Nat
  kg     : Nat
  fmt    : Nat
  wide   : Bool
  zp     : Bool
  outl   : Bool
  outIdx : List Nat
  zs     : List Int
  scales : List (List Dec)
  outs   : List (List (Nat × Dec))
  cells  : List (List (List Dec))
deriving DecidableEq, Repr

/-- Held and shadow registers of the cells of one Wafer (R97, R105 to R107): the held load, the shadow that no front has consumed, the
cycle of the last front, and the mode, first unit, units, depth and held extent of the MMA that last used the held operand (R201). -/
structure Wafer where
  held   : Option CellLoad
  shadow : Option CellLoad
  front  : Nat
  used   : Option (AMode × Nat × Nat × Nat × Nat)
deriving DecidableEq, Repr

/-- The weight register of one Strudel lane (R118): one decoded Grain with its zero point and scale. -/
structure LaneW where
  fmt   : Nat
  wide  : Bool
  els   : List Dec
  z     : Int
  zp    : Bool
  scale : Dec
deriving DecidableEq, Repr

/-- The figures of a fold (R102, R104). -/
structure Fold where
  sx    : Nat
  hx    : Nat
  ng    : Nat
  kg    : Nat
  kstep : Nat
  np    : Nat
  ns    : Nat
  nk    : Nat
  bands : Nat
  cr    : Nat
deriving DecidableEq, Repr

/-- A pass of an MMA (R102): unit, panel, streamed block, held chunk, rows, first broadcast at band 0, cycles of a row, and whether it is
the last chunk of its block, after which the block is finished. -/
structure Pass where
  unit  : Nat
  panel : Nat
  blk   : Nat
  kc    : Nat
  rows  : Nat
  p     : Nat
  c     : Nat
  last  : Bool
deriving DecidableEq, Repr

/-- An MMA under way (R102): its location, operands and fold, what it found at its issue in cycle `t` (the streamed descriptor and base,
the Anchor, the seed key, the three index registers, the output base and the record address), the passes that have not begun, and what its finishes have
drained for a carried Anchor (R91). -/
structure MmaRun where
  loc    : Loc
  o      : MmaOps
  x      : Ext
  f      : Fold
  desc   : QDesc
  base   : Nat
  anchor : Int
  key    : W64
  tid    : Nat
  index  : Nat
  nt     : Nat
  out    : Nat
  rec_   : Nat
  t      : Nat
  done   : Nat
  passes : List Pass
  vals   : List (Int × Int)
  sat    : Bool
deriving DecidableEq, Repr

/-- An activity of a Torte (R116): cycles [start, stop); kind 0 a pass, 1 an EWM, 2 a Meringue, 3 a guard hold; `left` the cycles
that a Meringue paused by the guard window has left, `mdens` the density at which its LFSR drives the wires (R115, R117); `ends` that the block of its MERINGUE ends with it (R162). -/
structure Act where
  torte : Nat
  start : Nat
  stop  : Nat
  kind  : Nat
  solo  : Bool
  left  : Nat
  mdens : Nat
  loc   : Option Loc
  ends  : Bool
deriving DecidableEq, Repr

/-- A wide-sum register (R65) with the cycle of its last update (R210). -/
structure WSum where
  v     : BitVec 320
  n     : Bool
  p     : Bool
  m     : Bool
  terms : Nat
  upd   : Nat
deriving DecidableEq, Repr

/-- A digest stream (R199): the P value that names its object, the OPEN offset, the offset its next store must have, and the bytes
read for it, by offset from the OPEN offset. -/
structure DigStrm where
  obj   : BitVec 32
  start : Nat
  next  : Nat
  bytes : Mem
deriving DecidableEq, Repr

/-- A launch descriptor (Table 7.3). `arrive` is the cycle in which it was pushed. -/
structure Desc where
  block  : Nat
  boff   : Nat
  cyc    : Nat
  p      : List W32
  sig    : Option Sig
  arrive : Nat
deriving DecidableEq, Repr

/-- An open loop (R170 to R174): count latched, iterations completed. -/
structure Loop where
  count : Nat
  done  : Nat
deriving DecidableEq, Repr

/-- A running block (R160 to R162): start point, descriptor signal, the last cycle known so far, and whether its marked
instruction has issued. -/
structure Block where
  start : Nat
  sig   : Option Sig
  last  : Nat
  ended : Bool
deriving DecidableEq, Repr

/-- One stream of a core: registers A, D (key 4n + L) and P, launch queue, running block, loops; `skip` is the nesting depth inside
a zero-count loop, `skipNext` SKIPIF's mark; `shift` the hold shift of the Beat (R31); `prevEnd` the end of the previous block;
`realign` the group whose REALIGN executed in this Beat, and the cycle. -/
structure StrmSt where
  a        : SMap W48
  d        : SMap W32
  p        : SMap W32
  queue    : List Desc
  freeAt   : Nat
  blk      : Option Block
  loops    : List Loop
  skip     : Nat
  skipNext : Bool
  shift    : Nat
  lastIss  : Nat
  prevEnd  : Nat
  realign  : Option (Nat × Nat)
deriving DecidableEq, Repr

/-- Power state of a bank (Table 6.5). -/
inductive Bank
  | on | retain | off | waking
deriving DecidableEq, Repr

/-- A remap table entry (Table 6.4). -/
structure Remap where
  field : Bool
  lrow  : Nat
deriving DecidableEq, Repr

/-- An entry of a location map (R231): PCSTART, DVIS instruction index, DVIS stream, INSERTED. -/
structure LocEnt where
  pcstart  : BitVec 32
  dix      : BitVec 32
  strm     : Nat
  inserted : Bool
deriving DecidableEq, Repr

/-- A section of a code store (R228, R229): its stream, physical words as bytes, the blocks of its block table, digest and location map. -/
structure CodeSt where
  strm   : Nat
  blocks : Nat
  bytes  : List Byte
  digest : BitVec 256
  locs   : List LocEnt
deriving DecidableEq, Repr

/-- One core. Maps: `s`, `l` 0; `f` false; `sd` 0; `an` 0; `sdOld`, `anOld` the cycles of the Beat's SETs with the value before each,
latest first (R163), none; `sc` the zero counter; `strm` the idle stream; `waf` the empty Wafer; `lanes` the lanes' weight registers (R118);
`ent` the stale entry (key 64 × Wafer + e, the Strudel being Wafer 32); `mmas` the MMAs with passes to come; `ws` the zero sum; `dig` none;
`lfsr` by Torte, 1 (R115); `bank` ON; `want` none; `wake` the Beat in which a bank began to wake, 0; `remap` key 32 × bank + entry; `ucode` the microcode store of its control core, empty (R369);
`rowmap` 32; `tstat` 0. -/
structure Core where
  s        : SMap W32
  l        : SMap W32
  f        : SMap Bool
  sd       : SMap W64
  an       : SMap (BitVec 16)
  sdOld    : SMap (List (Nat × BitVec 64))
  anOld    : SMap (List (Nat × BitVec 16))
  sc       : SMap Ctr
  strm     : SMap StrmSt
  waf      : SMap Wafer
  lanes    : List LaneW
  ent      : SMap Entry
  mmas     : List MmaRun
  ws       : SMap WSum
  dig      : SMap (Option DigStrm)
  acts     : List Act
  rampAt   : Nat
  rampLast : Option Nat
  svLast   : Option Nat
  segend   : Bool
  guards   : List (Nat × Nat)
  lfsr     : SMap W32
  holder   : Option Nat
  moving   : Bool
  bank     : SMap Bank
  want     : SMap (Option Bank)
  wake     : SMap W64
  remap    : SMap (Option Remap)
  rowmap   : SMap Nat
  tstat    : SMap Nat
  sout     : Bool
  degraded : BitVec 32
  code     : List CodeSt
  codeErr  : SMap SymErr
  ucode    : List Byte
deriving DecidableEq, Repr

/-! ### Scratchpad rows (chapter 06) -/

/-- A use of a row: a write of bytes at an offset in the row, an accepted request, or an outstanding landing that ends with or
without its write (R134, R135). -/
inductive RowUse
  | write (off : Nat) (bytes : List Byte)
  | accept
  | land (off : Nat) (bytes : List Byte)
  | retire
deriving DecidableEq, Repr

/-- Row state (R128): tag and outstanding landings before the listed uses, the uses of the current Beat in order of cycle, and the
cycles of reads of the row while it is guarded (R138). -/
structure Row where
  tag  : BitVec 4
  pend : Nat
  uses : List (Nat × RowUse)
  rds  : List Nat
deriving DecidableEq, Repr

/-! ### Load and Store engines, stack pipelines (chapters 06, 08, 12) -/

/-- Where a Store request writes: an Extent byte (its stack byte address and the key that seals it) or a host bus address
(R295, R277). -/
inductive Place
  | stack (addr key : Nat) | host (addr : Nat)
deriving DecidableEq, Repr

/-- A landing that the Load engine owes a row (R134, R198): its bytes as far as they have come, how many Granules (or the one host
read) are still to come, the parts of packed blocks it is made of (block, offset in it, length), its counter, whether the bank was not ON at
acceptance, and the cycle in which its block began (R162). -/
structure Landing where
  id     : Nat
  core   : Nat
  local_ : Nat
  sc     : Nat
  part   : Nat
  dark   : Bool
  host   : Option Nat
  pack   : List (Nat × Nat × Nat)
  need   : Nat
  data   : List Byte
  loc    : Loc
  blk    : Nat
deriving DecidableEq, Repr

/-- A Granule request to the stacks (R290): for a read, the landing or packed block it is for, its place there, whether its burst
slot has served it and what the burst read; for a write (R308), the Segment's tag and the bytes, none until the Store engine has read the row of the
request `land`. `key` opens or seals the Granule. -/
structure GReq where
  core   : Nat
  g      : Nat
  key    : Nat
  land   : Nat
  packed : Bool
  off    : Nat
  served : Bool
  wr     : Option (Nat × List (BitVec 8))
  data   : List (BitVec 8)
deriving DecidableEq, Repr

/-- A packed block being fetched (R310, R311): its index entry, its packed bytes so far and the
handle and offset a PACK_FORM names. -/
structure Pack where
  id    : Nat
  mode  : Nat
  bad   : Bool
  plen  : Nat
  need  : Nat
  data  : List Byte
  where_ : BitVec 32 × Nat
deriving DecidableEq, Repr

/-- A row read that the Store engine owes (R133), with the digest stream it feeds and its offset there, and the cycle in which its block began (R162). -/
structure StoreReq where
  id     : Nat
  core   : Nat
  local_ : Nat
  len    : Nat
  dst    : Place
  part   : Nat
  dig    : Option (Nat × Nat)
  loc    : Loc
  blk    : Nat
deriving DecidableEq, Repr

/-! ### Segments, partitions, records -/

/-- The precision counts (Table 3.9), 64 bits each. -/
structure PCounts where
  clamp    : W64
  winsat   : W64
  outsat   : W64
  nonfin   : W64
  qclip    : W64
  qnonfin  : W64
  underuse : W64
deriving DecidableEq, Repr

/-- One fault record (Table 17.3). `part` is none when PARTV is 0; `id` counts the records in the order in which commands raised them, `seq` in the
order in which they entered (R396). -/
structure FRec where
  code     : Nat
  sev      : Nat
  loc      : Bool
  retained : Bool
  rep      : Nat
  part     : Option Nat
  id       : W32
  seq      : W32
  context  : Nat
  core     : Nat
  strm     : Nat
  dix      : W32
  progid   : W64
  loops    : List W32
  beat     : W64
  cycle    : Nat
  pc       : W32
  dfmt     : Nat
  detail   : Nat
deriving DecidableEq, Repr

/-- FLTIDX of a failed command: its record by the number `id`, a lost record, or no record (R397, Table 11.11). -/
inductive FltIdx
  | seq (n : BitVec 32) | lost | none
deriving DecidableEq, Repr

/-- An abort in progress (R32, R184, R397): the Segment's fault, its place in the order of R396 (empty when the abort has no fault record of
the Segment), and the Beat it began. -/
structure Abort where
  flt  : FltIdx
  key  : List Nat
  beat : W64
deriving DecidableEq, Repr

/-- The work of the built-in Segment of a COPY or FILL (R274, R290): the number of its source reads, whether it has a source, the Granules still to be read, the
bytes so far, where they go, and whether the Store engine has been given them all. -/
structure Bulk where
  id   : Nat
  src  : Bool
  need : Nat
  data : List Byte
  dst  : Place
  done : Bool
deriving DecidableEq, Repr

/-- A running Segment (R29, R163, R168, R175, R179): its queue and entry, its number in the program, first Beat `s` and the absolute
cycle of (s, 0), what it latched, its counts up to this Beat and those of this Beat with their cycles, the ends of this Beat's drains and VQUANTs (R95), the roots of its DIGEST CLOSEs with 8 times their
partition core index plus their stream, the work of a built-in Segment (R274), its abort and the
completion status an abort gives (Table 11.12). -/
structure Seg where
  q      : Nat
  seq    : W32
  idx    : Nat
  beat   : W64
  start  : Nat
  ctx    : Nat
  progid : W64
  prec   : Nat
  limit  : Nat
  epoch  : BitVec 16
  decl   : SegDecl
  objs   : List ObjEnt
  taint  : Bool
  linked : Bool
  cnt    : PCounts
  later  : List (Nat × PCounts)
  ends   : List (Nat × Loc)
  roots  : List (Nat × BitVec 256)
  bulk   : Option Bulk
  abort  : Option Abort
  status : Nat
deriving DecidableEq, Repr

/-- State of an Owner key slot (Table 12.7), `drawing` being the Beat in which the keys are drawn (R307). -/
inductive KeySt
  | empty | live | zeroising | drawing
deriving DecidableEq, Repr

/-- A scratchpad region (R274, R282): its handle, and the rows charged for it. -/
structure Region where
  handle : BitVec 32
  rows   : Nat
deriving DecidableEq, Repr

/-- The residency record of a partition (R387). -/
structure ResRec where
  root : BitVec 256
  lay  : BitVec 256
  ok   : Bool
  rngs : List (Nat × Nat × Nat)
deriving DecidableEq, Repr

/-- A hardware partition (R4, R7): rectangle of cores in partition order, the set of cores an applied PART_CORESn names (R153),
running Segment, the Beat in which its last one ended, Owner epoch and key slot (R307, R308) with the owner change that waits
(some true a grant, some false a release), stack units charged, regions, the Beat since which OVER_QUOTA holds (R423) and that in which its grace period began (R283), residency
and link key. -/
structure Part where
  cores   : List Nat
  width   : Nat
  want    : List Nat
  seg     : Option Seg
  prevEnd : Option W64
  oepoch  : BitVec 12
  keySt   : KeySt
  key     : Nat
  drawn   : BitVec 64
  release : Bool
  grant   : Bool
  stkUse  : Nat
  regions : List Region
  overB   : Option W64
  graceB  : Option W64
  res     : Option ResRec
  link    : Option LinkKey
deriving DecidableEq, Repr

/-! ### Commands, queues, contexts, Events (chapters 10, 11, 16) -/

/-- A Baked Program header (Table 9.4). `rsvNZ`: a reserved field is nonzero. -/
structure BakedHdr where
  magic    : Nat
  fmtMin   : Nat
  fmtMaj   : Nat
  stepping : Nat
  dvisMin  : Nat
  dvisMaj  : Nat
  spv      : Nat
  progid   : W64
  pdigest  : BitVec 256
  ncb      : Nat
  rectw    : Nat
  recth1   : Nat
  ntorte   : Nat
  spad     : Nat
  nslot    : Nat
  tlen     : Nat
  tfull    : List Byte
  tsolo    : List Byte
  suse     : W64
  nseg     : Nat
  taint    : Bool
  segtab   : Nat
  locmap   : Nat
  slotid   : Nat
  length   : Nat
  rsvNZ    : Bool
deriving DecidableEq, Repr

/-- A Baked Program as a RUN holds it (R228): its header, its tables, and its bytes where it lies in host memory. -/
structure Prog where
  hdr  : BakedHdr
  tabs : Baked
  img  : List Byte
deriving DecidableEq, Repr

/-- The body of a fetched command (Tables 11.8, 11.9, 14.4). -/
inductive CmdBody
  | run (b : RunBody) (ab : ArgBlk) (bp : Prog)
  | copy (b : CopyBody) | fill (b : FillBody) | signal | wait (evt thresh : BitVec 32) | publish
  | loadSlot (b : LoadSlotBody) | mapExtent (b : MapBody) | mapRegion (b : MapBody) | mapSeal (b : MapBody)
  | unmap (handle : BitVec 32) | query (sel : Nat) (b : QueryBody)
deriving DecidableEq, Repr

/-- Where a fetched, unretired command stands (Table 1.5): not started; a Segment or MC job under way; Segments over, stores or
digests outstanding; stages 5 and 6 met in a Beat; over with a status; record written and FetchAdds outstanding (R278). -/
inductive Stage
  | queued | running | drain | met (b : BitVec 64) | ended (status : Nat) (flt : FltIdx) | counting (left : Nat)
deriving DecidableEq, Repr

/-- A fetched, unretired command (R267, R278) with what its Replay Record needs (R388, R389): its entry count, Beat of fetch,
context, next Segment, start Beat, counts, taints, output roots (Segment, 8 × partition core index + stream, root), roots of listed objects
by index, roots of the declared ranges, digest jobs left, Segments ended, residency roots, archived record and, for COPY and
FILL, the output root. `refc` says that its context is a REFCOUNT one (R278); `value` the agreement value once formed and `diverged`
a TWIN_DIVERGE, whose fault ring index is `dvIdx` (R337, R397) and whose place among the divergent ones `dvNo` gives; `sdigs` the load digests of the slots
used, as its last Segment started (R355). -/
structure Cmd where
  seq      : W32
  hdr      : CmdHdr
  body     : CmdBody
  stage    : Stage
  fetched  : W64
  ctx      : Nat
  refc     : Bool
  segIdx   : Nat
  beat0    : Option W64
  cnt      : PCounts
  taint    : Bool
  slottaint : Bool
  linked   : Bool
  outs     : List (Nat × Nat × BitVec 256)
  ins      : SMap (BitVec 256)
  cbs      : List (BitVec 256)
  ois      : List (BitVec 256)
  ans      : List (BitVec 256)
  jobs     : Nat
  resRoots : Option (BitVec 256 × BitVec 256)
  arch     : List Byte
  value    : Option (BitVec 256)
  peer     : Option (BitVec 256)
  diverged : Bool
  dvIdx    : FltIdx
  dvNo     : Nat
  sdigs    : List (BitVec 256)
deriving DecidableEq, Repr

/-- A queue in a resident slot (R266 to R268): its identifier, partition, record fields as the engine keeps them, the registered
wait, the fetched commands in ring order, a Q_STOP that waits for the Segment boundary, that the queue stopped at a failed command, after which it
starts none until it is restarted or reset (R36), a failed member of the open publication group (R279), and that a reset of its context has freed the slot, which the queue leaves when its commands have retired (R283). -/
structure QSlot where
  q       : Nat
  part    : Nat
  qr      : QRec
  wait    : Option WaitRec
  cmds    : List Cmd
  stopReq : Bool
  halted  : Bool
  grpBad  : Bool
  leaving : Bool
deriving DecidableEq, Repr

/-- State of a context (Table 11.3). -/
inductive CtxSt
  | free | live | destroying
deriving DecidableEq, Repr

/-- A context (R265, R280). -/
structure Ctx where
  st       : CtxSt
  part     : Nat
  refcount : Bool
  priority : Nat
deriving DecidableEq, Repr

/-- A waiter registered on an Event (R257). -/
structure Waiter where
  q      : Nat
  thresh : W32
  ticket : W32
deriving DecidableEq, Repr

/-- A resident Event (R255): record, waiters, and a stamp of its last change. -/
structure ResEvt where
  er      : EvtRec
  waiters : List Waiter
  stamp   : Nat
deriving DecidableEq, Repr

/-- A signal on its way to the Event unit (R256). -/
structure SigReq where
  evt : W32
  val : W64
deriving DecidableEq, Repr

/-- A digest job (R384, R386, R302): the command it serves, what is hashed (an object of the list, a declared range of class 0 codebook,
1 outlier, 2 anchor, or the seal of an Extent index), where its bytes lie, and the leaves so far. -/
structure Job where
  id     : Nat
  q      : Nat
  seq    : W32
  kind   : Nat
  obj    : Nat
  host   : Bool
  addr   : Nat
  key    : Nat
  len    : Nat
  leaves : List (BitVec 256)
deriving DecidableEq, Repr

/-- A FetchAdd that awaits its completion, with its bus address (R263, R278). -/
structure Atom where
  id   : Nat
  q    : Nat
  seq  : W32
  addr : W64
deriving DecidableEq, Repr

/-- An HQ_OP under way (R273, R280): CTX_RESET or CTX_DESTROY of a context, Q_RESET of a queue whose Segment is being aborted, or Q_STOP of a queue
whose Segment runs. -/
inductive OpWait
  | ctx (id : Nat) (destroy : Bool) | qreset (q : Nat) (tail : BitVec 32) | qstop (q : Nat)
deriving DecidableEq, Repr

/-- The host interface (chapter 11): AtomicOp Requester Enable as last read, scheduler slots, on-chip pending set, scan request and the Beat of the
last scan, the candidates that the scans have found, the longest waiting first (R268, R272), contexts, resident Events, signals under way, Events to abandon with the Beat of their owner's reset, digest jobs,
FetchAdds, HQ_OP state and sticky bits, functions in D3hot, queues that failed QUEUE_FORM, next region number, Function Level Resets under way (0 the PF, n VF n). `abandon` names
contexts. -/
structure HostSt where
  atomicEn : Bool
  slots    : SMap (Option QSlot)
  pendSet  : SMap Bool
  scanReq  : Bool
  scanBeat : W64
  cands    : List Nat
  ctxs     : SMap Ctx
  evts     : SMap (Option ResEvt)
  sigs     : List SigReq
  abandon  : List (Nat × BitVec 64)
  jobs     : List Job
  atoms    : List Atom
  op       : Option OpWait
  opRes    : Nat
  opLost   : Bool
  dbMiss   : Bool
  d3       : SMap Bool
  badQ     : SMap Bool
  regionNo : Nat
  flr      : List Nat
deriving DecidableEq, Repr

/-- A mailbox (R284 to R287): lock owner, low-half latches by function number, the two queues of stamped words, sticky bits. -/
structure Mbx where
  lock  : Nat
  latch : SMap W32
  tx    : List (BitVec 64 × Nat)
  rx    : List (BitVec 64 × Nat)
  txovf : Bool
  rxovf : Bool
  deny  : Bool
deriving DecidableEq, Repr

/-! ### The Extent Table (chapter 12) -/

/-- An Extent Table entry (Table 12.2). `base` counts Granules of 64 KiB starts (bits [34:11]), `len` the units of 64 KiB less one. -/
structure ExtEnt where
  valid   : Bool
  part    : Nat
  oepoch  : BitVec 12
  gen     : BitVec 13
  base    : BitVec 24
  len     : BitVec 20
  packed  : Bool
  ro      : Bool
  dgv     : Bool
  keyslot : Nat
  vepoch  : BitVec 16
  rheld   : Bool
  rslot   : Nat
  resv    : Bool
deriving DecidableEq, Repr

/-- A used staging slot (R298): target index, entry, and whether it holds a retained version. -/
structure Stg where
  idx      : Nat
  ent      : ExtEnt
  retained : Bool
deriving DecidableEq, Repr

/-- Work of the MC on the table for a command (R296, R297, R302): MAP and UNMAP that retire at a flip, seals by step (1 RO staged,
2 waits for the release and the writes, 3 digest, 7 root written, 4 DGV staged; 5 an UNMAP that waits for its users, 6 an UNMAP or MAP whose entry is
staged). -/
structure ExtJob where
  q    : Nat
  seq  : W32
  idx  : Nat
  step : Nat
deriving DecidableEq, Repr

/-- The Extent Table unit (R293 to R302, R313): entries, staging slots, epoch, flip request, write latches, accepted UNMAPs by index
with the command that made it, MC jobs, roots stored at sealing, errors of table Granules by index div 2, the entries with which the MC
waits for a staging slot (R298), with whether it flips for them, the slots whose entries were staged when the Beat began (R10, R299), and the MC's copy of the
table in stack memory (R22, R301), and the entries of table Granules in error that have been rewritten since (R301). -/
structure ExtSt where
  tab   : SMap ExtEnt
  stg   : SMap (Option Stg)
  epoch : BitVec 16
  flip  : Bool
  latch : SMap W32
  unmap : SMap (Option (Nat × BitVec 32))
  jobs  : List ExtJob
  roots : SMap (Option (BitVec 256))
  errs  : SMap SymErr
  wait  : List (Nat × ExtEnt × Bool)
  due   : List Nat
  copy  : SMap ExtEnt
  half  : List Nat
deriving DecidableEq, Repr

/-- A stack port (R292, Table 12.8), with the lanes (channel, lane) that repairs have replaced in its stack (R375). -/
structure StkPort where
  present  : Bool
  failed   : Bool
  mismatch : Bool
  temp     : BitVec 8
  id       : List W32
  lanes    : List (Nat × Nat)
deriving DecidableEq, Repr

/-- The stacks (R288 to R292, R304, R404): plaintext by byte address, the key each written Granule was sealed under, the Granule
requests in order of acceptance, packed blocks, ports, whether stack memory is out of service, scrub pointer and
period exponent and completed passes, and the symbol errors that GC-288 meets in stored Granules; nothing the block does puts an error there. -/
structure StackSt where
  mem    : Mem
  sealed : SMap Nat
  greqs  : List GReq
  packs  : List Pack
  ports  : SMap StkPort
  out    : Bool
  scrub  : Nat
  period : Nat
  passes : Nat
  errs   : SMap SymErr
deriving DecidableEq, Repr

/-! ### The Beat unit (chapter 10) -/

/-- STATE of BEAT_STAT (Table 10.6). -/
inductive BState
  | acquiring | locked | holdover | lost
deriving DecidableEq, Repr

/-- An acquisition (R246): the Beat a once it is reached, what pin and marker delivered (the count to set and the Beat it is for),
and the source taken. -/
structure Acq where
  stop   : Bool
  due    : Bool
  a      : Option W64
  pin    : Option W64
  marker : Option (BitVec 64 × Int × Nat)
  taken  : Option BSrc
deriving DecidableEq, Repr

/-- The Beat unit (R235 to R247): count, absolute cycle of (b, 0), state, source in use, hop count, sticky bits, HOLDCNT, lengths of the
last Beats that ended on accepted edges, edge offset, phase accumulator (1/256 cycle, absolute), consecutive accepted edges,
other sources with their consecutive edges, those that delivered in this Beat, acquisition, the edge that a marker of this Beat implies with its hop count,
read latches by requester, and whether an EXT_FLIP or a GLB_APPLY of the Beat before takes effect in this one. -/
structure BeatSt where
  b       : W64
  start   : Nat
  st      : BState
  active  : BSrc
  hops    : Nat
  early   : Bool
  cnterr  : Bool
  outwin  : Bool
  holdcnt : Nat
  lens    : List Nat
  edgeoff : Int
  acc     : Nat
  good    : Nat
  alt     : List (BSrc × Nat)
  altHit  : List BSrc
  acq     : Option Acq
  mark    : Option (Nat × Nat)
  latch   : SMap W32
  flipDue  : Bool
  applyDue : Bool
deriving DecidableEq, Repr

/-- The fault unit (R396 to R401, Table 17.6). `moved` holds by record number SEQ less that number, where R396's order differs from the order of raising. -/
structure FltSt where
  buf      : List FRec
  moved    : SMap W32
  next     : W32
  mcNext   : W32
  mcMiss   : Nat
  tail     : W32
  head     : W32
  seen     : BitVec 10
  faultn   : Bool
  low      : Bool
  lost     : Nat
  vecUp    : Bool
  retained : List FRec
deriving DecidableEq, Repr

/-! ### Braid ports and the twin (chapter 13) -/

/-- A cell that an MVB has filled (R323): cell number, core, local address of its first row, expected tag and the MVB's issue. -/
structure SentCell where
  cidx   : Nat
  core   : Nat
  local_ : Nat
  exp    : Option Nat
  loc    : Loc
deriving DecidableEq, Repr

/-- A received cell that waits for its usable point (R251, R324). -/
structure RxCell where
  cell   : Cell
  usable : W64
deriving DecidableEq, Repr

/-- A table memory of a Braid port (R321): the width and the entries of the slot table in it. -/
structure TabMem where
  width : Nat
  ents  : List STEnt
deriving DecidableEq, Repr

/-- A Braid port, or a group of the twin port (R316 to R333, Tables 13.10, 13.11): the binding in effect, STATE (0 DOWN, 1 TRAINING,
2 UP), lanes of its width, the LR that its last training took, lane findings (state, inversion, map), peer, measured delay, counters, the key the peer
offers, the BRD_KEY bits in progress, the two table memories (key 0 or 1, none when empty) with the active one, whether a Segment uses it and that Segment's
start Beat, the cells filled in this Beat, the place after the last cell that each core used, the cells of this Beat that are formed with the width that numbers
them, the buffered cells, the own Beat in which the peer sent its last Beat block, the Beats of the last CELL_UNEXPECTED and CELL_SEGTAG records, and the
training under way. -/
structure Port where
  en     : Bool
  part   : Nat
  st     : Nat
  width  : Nat
  lr     : Bool
  reason : Nat
  minor  : Nat
  unexp  : Bool
  tagerr : Bool
  lanes  : List (Nat × Bool × Nat)
  peer   : Option (Nat × Nat)
  delay  : Nat
  lost   : W32
  auth   : W32
  offer  : Option LinkKey
  keyOps : BitVec 3
  tabs   : SMap (Option TabMem)
  half   : Bool
  on     : Bool
  start  : W64
  sent   : List SentCell
  used   : SMap Nat
  out    : List Cell
  outW   : Nat
  rx     : List RxCell
  rxB    : W64
  unexpB : Option W64
  tagB   : Option W64
  train  : Option TrainObs
deriving DecidableEq, Repr

/-- The twin (R334 to R341, Table 13.12): STATE (0 SOLO, 1 ATTACHING, 2 MIRROR, 3 STANDBY, 4 TAKING_OVER), role, link, attach step,
peer, the state sync under way (whether it succeeds, the mode asked for), the DETACH and TAKEOVER requests, the twin key, the journal entries held, the agreement messages received, by queue one
more than the entry count of the last command the primary published; the twin's own values that no message has met yet (R338), the messages that wait to be sent
with how many the Beat has taken (R337), and on the primary the commands journaled and those of which the twin has sent its value (Table 13.12). -/
structure Twin where
  st       : Nat
  primary  : Bool
  linkup   : Bool
  unfit    : Bool
  step     : Nat
  crossed  : Bool
  minor    : Nat
  peer     : Option Nat
  sync     : Option (Bool × Nat)
  detach   : Bool
  takeover : Bool
  key      : Option (BitVec 256)
  journal  : List JEntry
  agrees   : List Agree
  done     : SMap (BitVec 32)
  made     : List Agree
  outbox   : List Agree
  sent     : Nat
  given    : Nat
  heard    : Nat
deriving DecidableEq, Repr

/-! ### Marzipan slots (chapter 14) -/

/-- A slot identity (Table 14.3). -/
structure Ident where
  funcid  : W32
  version : Nat
  latency : Nat
  ratio   : Nat
  det     : Bool
  lo      : Nat
  hi      : Nat
deriving DecidableEq, Repr

/-- A slot (R342 to R358): the binding in effect, STATE (0 EMPTY, 1 LOADING, 2 READY, 3 FAILED), isolation, last load reason,
identity, digest of the last successful load, spurious outputs, that SLs_SRST_N is low with the isolation (R352), and the
absolute cycles before which it is low else and the slot takes no next XOP's input (R345, R347). -/
structure SlotSt where
  en     : Bool
  part   : Nat
  core   : Nat
  st     : Nat
  iso    : Bool
  reason : Nat
  ident  : Option Ident
  dig    : BitVec 256
  spur   : BitVec 16
  srst   : Bool
  rstTo  : Nat
  inTo   : Nat
deriving DecidableEq, Repr

/-- An output Granule of an XOP that falls due in a later Beat (R343, R345): the XOP, its slot, j, the Beat and cycle of its write, its
place and what the fabric answers; `last` with the signal word of an XOP's last output. -/
structure XOut where
  loc    : Loc
  slot   : Nat
  idx    : Nat
  beat   : W64
  cyc    : Nat
  local_ : Nat
  data   : Option (List Byte)
  last   : Bool
  sig    : Option Sig
deriving DecidableEq, Repr

/-- Where the frame loader finds a stream (R350, R369): the section of the configuration image of that type, an Extent of a partition from a byte offset on,
or host memory, with LENGTH. -/
inductive LoadSrc
  | image (type : Nat) | extent (handle : BitVec 32) (part off len : Nat) | host (addr : BitVec 64) (len : Nat)
deriving DecidableEq, Repr

/-- A load by the frame loader (R350 to R355): the LOAD_SLOT that asked (queue, entry) or none for a start-up stream, its source, its slots, its
stage (0 header, 1 isolating, 2 frames, 3 read-back, 4 waits for the boundary) with the absolute cycle in which it entered it, of the accepted header SID, NFRM and the unwrapped stream key, the next
frame, failed reads of it, the last frame of WOFF 0 that was written (R348), the slots whose identity frame was read back, and the bytes of the digests. -/
structure Load where
  cmd   : Option (Nat × BitVec 32)
  src   : LoadSrc
  mask  : List Nat
  stage : Nat
  since : Nat
  sid   : Nat
  nfrm  : Nat
  skey  : BitVec 256
  next  : Nat
  tries : Nat
  zero  : Option (List (BitVec 8))
  ids   : List (Nat × Ident)
  bytes : List Byte
deriving DecidableEq, Repr

/-! ### Start-up, measurement, identity (chapter 15) -/

/-- The boot descriptor (Table 15.4). -/
structure BootDesc where
  freq    : Nat
  imgbase : Nat
  rsize   : Nat
  repbase : List Nat
  certbase : Nat
deriving DecidableEq, Repr

/-- The fields of the parameter block (Table 15.6); BMC, BOARDMEM and MODTOP as words. -/
structure ParamBlk where
  engid   : List Nat
  cethr   : Nat
  twincab : Bool
  brdcab  : BitVec 16
  brdlr   : BitVec 16
  bmc     : Nat
  board   : Nat
  modtop  : List Nat
  roots   : List (BitVec 384)
  signers : List (BitVec 384)
  fwpriv  : List (BitVec 8)
deriving DecidableEq, Repr

/-- One section of the image header (Table 15.5). -/
structure ImgSec where
  type   : Nat
  first  : Nat
  count  : Nat
  bytes  : Nat
  digest : BitVec 384
deriving DecidableEq, Repr

/-- What start-up keeps of the image header (Table 15.5), with the content key that WKEY unwraps to. -/
structure ImgHdr where
  imgid : W64
  svn   : W64
  nfrm  : Nat
  secs  : List ImgSec
  ckey  : BitVec 256
deriving DecidableEq, Repr

/-- The DICE identity (R380): the public DeviceID key, the private and the public Alias key, and the certificate chain of the block's certificate area as far
as it matches the DeviceID key, and the Alias certificate. -/
structure DiceId where
  device : Option (Nat × Nat)
  secret : Nat
  leaf   : Option (Nat × Nat)
  chain  : List Byte
  cert   : List Byte
deriving DecidableEq, Repr

/-- The PHY resets HL_PHYRST_N, BLp_PHYRST_N and STKp_PHYRST_N that are released (R359, R428). -/
structure PhySt where
  hl  : Bool
  bl  : List Nat
  stk : List Nat
deriving DecidableEq, Repr

/-- Start-up (R361, R371 to R373): the phase in progress, failure reason and unit of CFGSTAT, fuses as latched, descriptor, header,
next frame, reads of the unit so far and whether this block has accepted it, plaintext of each section by type, whether MC firmware
was started, ports trained, parameter block, default codebooks, host link at L0, whether
UDS is locked, the DICE identity, the PHY resets, and whether the last reset was SRST_N. -/
structure BootSt where
  phase   : Nat
  reason  : Nat
  unit    : W32
  err     : Bool
  retry   : Bool
  fuses   : Option Fuses
  desc    : Option BootDesc
  cert    : List (BitVec 8)
  hdr     : Option ImgHdr
  frame   : Nat
  reads   : Nat
  acc     : Bool
  secs    : SMap (List (BitVec 8))
  started : Bool
  trained : List Nat
  params  : Option ParamBlk
  books   : List (List (BitVec 8))
  l0      : Bool
  uds     : Bool
  dice    : Option DiceId
  phy     : PhySt
  soft    : Bool
deriving DecidableEq, Repr

/-- A measurement index (Table 15.11, Table 15.13). -/
structure Meas where
  value  : BitVec 384
  extcnt : W32
  valid  : Bool
  ext    : Bool
deriving DecidableEq, Repr

/-- The connection state of an SPDM transport (R381): the last connection step reached (0 none, 1 version, 2 capabilities,
3 algorithms), the session identifiers, whether a handshake awaits FINISH, and the key update counts of the two directions. -/
structure Spdm where
  step   : Nat
  sess   : Option (BitVec 16 × BitVec 16)
  shake  : Bool
  kReq   : Nat
  kRsp   : Nat
deriving DecidableEq, Repr

/-! ### The management controller, repair, thermal stop (chapters 06, 15, 17, 18) -/

/-- A repair entry of Table 15.9 with the verdict of its CRC. -/
structure RepEnt where
  kind  : Nat
  unit  : Nat
  sub   : Nat
  val   : Nat
  seq   : W32
  crcOk : Bool
deriving DecidableEq, Repr

/-- An inventory entry (R376): TYPE, INDEX, STATE, body bytes. -/
structure InvEnt where
  type  : Nat
  index : Nat
  state : Nat
  body  : List (BitVec 8)
deriving DecidableEq, Repr

/-- A repair area in flash (R374): entries appended to its active half, its GEN. -/
structure Area where
  ents : List RepEnt
  gen  : W32
deriving DecidableEq, Repr

/-- The MC (R147, R378, R396, R406, R410, Table 18.11): RUN, DEAD, RESTARTS, firmware version, SVN, IMGID, the Beat of the last
watchdog expiry, isolated buses and channels, correctable errors of rows (key row number) and of stack symbol bits (key port, channel,
symbol, bit) with their Beats, staged field remaps (core, bank, entry, logical row) and those whose rows are copied in this Beat, repair areas by position, message words of each
mailbox, the inventory, the dynamic addresses (bus, address) that SETAASA has assigned (R377), and a restart that the watchdog has begun (R410, R421). -/
structure McSt where
  run      : Bool
  dead     : Bool
  restarts : Nat
  fwver    : W32
  svn      : W64
  imgid    : W64
  expiry   : Option W64
  i3c      : W32
  rowCe    : SMap (List W64)
  laneCe   : SMap (List (BitVec 64 × Nat))
  remap    : List (Nat × Nat × Nat × Nat)
  repair   : List (Nat × Nat × Nat × Nat)
  areas    : SMap Area
  words    : SMap (List (BitVec 64))
  inv      : List InvEnt
  seq      : W32
  dyn      : List (Nat × Nat)
  reboot   : Bool
deriving DecidableEq, Repr

/-- Thermal state (R407 to R409): die temperatures last sampled, in which Beat, samples in a row at or above TSTOPD by sensor, whether THERM_WARN is
armed, the stop in force with its record and the Beat it began in, Beats in a row below the clear levels, THERM_CLEAR raised, and
RESUME accepted for the next boundary. -/
structure Therm where
  temps  : List Nat
  last   : Option (BitVec 64)
  overs  : SMap Nat
  armed  : Bool
  stop   : Option (FltIdx × BitVec 64)
  cool   : Nat
  clear  : Bool
  resume : Bool
deriving DecidableEq, Repr

/-- Scrub pointers (R403): scratchpad banks by 32 × core + bank, the Extent Table, code stores by core; the Beat of the last scrub, and the Granules
(4 × row number + place) that it corrects with their errors. -/
structure ScrubSt where
  banks : SMap Nat
  ext   : Nat
  code  : SMap Nat
  last  : Option (BitVec 64)
  fixed : List (Nat × SymErr)
deriving DecidableEq, Repr

/-- A step can stop for one reason of the model's own. -/
inductive Fault
  /-- Raised by every stream command placed at a cycle above 4,127: R9 says a point never has such a cycle. Safe: the block has
  no such point, so no behaviour of the hardware is lost. -/
  | noSuchPoint
deriving DecidableEq, Repr

/-- Why a command has no meaning. -/
inductive Refusal
  /-- Raised by an arm of exec whose meaning is not written. Safe: the model stops where the block goes on. -/
  | notModelled (mnemonic : String)
deriving DecidableEq, Repr

/-- What the block has sent out, in order: posted writes with their requester (0 the PF, n VF n) and the Relaxed Ordering attribute (R261, R262), MSI-X, FetchAdds with
their requester, single bits set by 64-bit CAS or in a record's byte (R268,
R271), register-read answers (logs 2, 12); the sealed frames of a port's Beat (R317, R319, R326), Beat blocks (R318), the absolute cycle of a rising edge on
BEAT_OUT with its symbol (R249), journal entries, agreement messages and the state sync (R335 to R337), key offers (R327), frames on the frame port (R425) and SPDM
answers: transport, message or object type, response code and body (R381); the training words of a port's lanes (R330), what a port tells its peer of its
protocol and its identity (R331, R332), the read-back request of a slot (R425); the Granules presented to a slot: its first ACLK cycle, SLs_ICODE, SLs_IFIRST and SLs_IDAT, SLs_IVAL being
high (R342, R345). -/
inductive Post
  | write (fn : Nat) (ro : Bool) (addr : W64) (bytes : List Byte)
  | msix (fn vec : Nat)
  | fetchAdd (fn : Nat) (addr v : W64)
  | setBit (addr : W64) (bit : Nat) (v : Bool)
  | answer (v : W32)
  | frames (port : Nat) (fs : List (List Byte))
  | block (port : Nat) (bytes : List Byte)
  | pin (at_ : Nat) (sym : PinSym)
  | journal (e : JEntry)
  | agree (m : Agree)
  | sync (exts : List SyncExt) (mem spad : Mem)
  | offer (port : Nat) (key : BitVec 256) (ep : Bool) (marked : List Nat)
  | frame (mask : List Nat) (woff : Nat) (bytes : List Byte)
  | spdm (t : Tport) (type code : Nat) (body : List Byte)
  | train (port : Nat) (words : List (Nat × TrainWord))
  | version (port major minor : Nat)
  | ident (port eng number : Nat)
  | readback (slot : Nat)
  | slotIn (slot at_ code : Nat) (first : Bool) (data : List Byte)
deriving DecidableEq, Repr

/-- A stream command that waits (R30): the command, its core and the streams that stop with it (R31). -/
structure Held where
  cmd   : Instr
  core  : Nat
  strms : List Strm
deriving DecidableEq, Repr

/-- A timed claim of this Beat on a port (R132): port 64 × core + 2 × bank + (1 for writing), cycle, stream, whether a hold
shifted it; the row it uses, and the instruction whose access it is. -/
structure Claim where
  port    : Nat
  at_     : Nat
  strm    : Strm
  shifted : Bool
  row     : Nat
  loc     : Option Loc
deriving DecidableEq, Repr

/-- Registers (R14 to R16): applied values by BAR0 offset where they differ from reset, values written and not yet captured, the set
a GLB_APPLY of this Beat captured, the set that the Beat's boundary applies, the Beat of the last apply and the sticky bits of GLB_STATUS. -/
structure RegSt where
  live    : SMap (Option W32)
  stage   : SMap (Option W32)
  capt    : Option (SMap (Option (BitVec 32)))
  due     : Option (SMap (Option (BitVec 32)))
  last    : W32
  partErr : Bool
  slotErr : Bool
deriving DecidableEq, Repr

/-- What a flit on the mesh will do at its write point (R142, R143): write a row at a cycle, where `res` says that the residency of the row's partition
stood but for flits (R387), or signal a counter. -/
inductive FlitEnd
  | row (g t : Nat) (res : Bool) | ctr (core sc t : Nat)
deriving DecidableEq, Repr

/-- A mesh slot taken in this Beat (R144): link 8 × core + (0 injection, 1 ejection, 2 east, 3 west, 4 south, 5 north), cycle, the cycle in which its
flit was injected and the core that injected it, and what the flit will do. -/
structure MeshSlot where
  link : Nat
  at_  : Nat
  src  : Nat × Nat
  dst  : FlitEnd
deriving DecidableEq, Repr

/-- A symbol error that a flit's Granule (0 or 1) shows at its ejection by a core in a cycle (R144, R131). -/
structure FlitErr where
  core : Nat
  at_  : Nat
  gran : Nat
  err  : SymErr
deriving DecidableEq, Repr

/-- The state of the block. `mkey` is the management key of slot 16 (R303), 0 when it is EMPTY. `errs` and `flitErrs` are what GC-288 meets in stored Granules and in flits; nothing the block does puts an error there. -/
structure State where
  build   : Build
  now     : Nat
  beat    : BeatSt
  parts   : SMap Part
  cores   : SMap Core
  spad    : Mem
  rows    : SMap Row
  errs    : SMap SymErr
  mesh    : List MeshSlot
  flitErrs : List FlitErr
  claims  : List Claim
  lands   : List Landing
  stores  : List StoreReq
  nextId  : Nat
  nextKey : Nat
  mkey    : Nat
  stk     : StackSt
  ext     : ExtSt
  host    : HostSt
  mbx     : SMap Mbx
  ports   : SMap Port
  twin    : Twin
  slots   : SMap SlotSt
  xouts   : List XOut
  loads   : List Load
  boot    : BootSt
  meas    : SMap Meas
  spdm    : SMap Spdm
  mc      : McSt
  therm   : Therm
  scrub   : ScrubSt
  flt     : FltSt
  posts   : List Post
  free    : Nat
  regs    : RegSt
  cfgDone : Bool
  held    : List Held
  pending : List Instr
deriving DecidableEq, Repr

/-! ### Reset (R240, R359, Table 15.1 phase 1) -/

/-- The Beat unit after reset: LOCKED on the local source, count 0 (R240, Table 10.6). -/
def beatReset : BeatSt :=
  { b := 0, start := 0, st := .locked, active := .loc, hops := 0, early := false, cnterr := false, outwin := false, holdcnt := 0,
    lens := [], edgeoff := 0, acc := 0, good := 0, alt := [], altHit := [], acq := none, mark := none, latch := [],
    flipDue := false, applyDue := false }

/-- The host interface after reset: nothing resident, nothing pending (Table 11.5). -/
def hostReset : HostSt :=
  { atomicEn := true, slots := [], pendSet := [], scanReq := false, scanBeat := 0, cands := [], ctxs := [], evts := [], sigs := [], abandon := [],
    jobs := [], atoms := [], op := none, opRes := 0, opLost := false, dbMiss := false, d3 := [], badQ := [], regionNo := 0, flr := [] }

/-- The twin after reset: SOLO (Table 13.12). -/
def twinReset : Twin :=
  { st := 0, primary := false, linkup := false, unfit := false, step := 0, crossed := false, minor := 0, peer := none,
    sync := none, detach := false, takeover := false, key := none, journal := [], agrees := [], done := [], made := [], outbox := [],
    sent := 0, given := 0, heard := 0 }

/-- Start-up after reset: phase 1, nothing read (R361). -/
def bootReset : BootSt :=
  { phase := 1, reason := 0, unit := 0, err := false, retry := false, fuses := none, desc := none, cert := [], hdr := none, frame := 0,
    reads := 0, acc := false, secs := [], started := false, trained := [], params := none, books := [], l0 := false,
    uds := false, dice := none, phy := ⟨false, [], []⟩, soft := false }

/-- The MC after reset: not running (Table 18.11). -/
def mcReset : McSt :=
  { run := false, dead := false, restarts := 0, fwver := 0, svn := 0, imgid := 0, expiry := none, i3c := 0, rowCe := [],
    laneCe := [], remap := [], repair := [], areas := [], words := [], inv := [], seq := 0, dyn := [], reboot := false }

/-- The fault unit after reset: buffer empty, SEQ 0 (Tables 17.6, 17.7). -/
def fltReset : FltSt :=
  { buf := [], moved := [], next := 0, mcNext := 0, mcMiss := 0, tail := 0, head := 0, seen := 0, faultn := false, low := false, lost := 0,
    vecUp := false, retained := [] }

/-- The block of a build after reset (R359): no register of Table 18.1's maps differs from its reset value. Stack scrub period exponent
35 (R404), everything else empty, zero or idle. Key identifiers below 16 name no drawn key. -/
def State.resetOf (b : Build) : State :=
  { build := b, now := 0, beat := beatReset, parts := [], cores := [], spad := [], rows := [], errs := [], mesh := [], flitErrs := [], claims := [],
    lands := [], stores := [], nextId := 0, nextKey := 16, mkey := 0,
    stk := { mem := [], sealed := [], greqs := [], packs := [], ports := [], out := false, scrub := 0, period := 35, passes := 0, errs := [] },
    ext := { tab := [], stg := [], epoch := 0, flip := false, latch := [], unmap := [], jobs := [], roots := [], errs := [], wait := [], due := [],
             copy := [], half := [] },
    host := hostReset, mbx := [], ports := [], twin := twinReset, slots := [], xouts := [], loads := [], boot := bootReset, meas := [],
    spdm := [], mc := mcReset,
    therm := { temps := [], last := none, overs := [], armed := true, stop := none, cool := 0, clear := false, resume := false },
    scrub := { banks := [], ext := 0, code := [], last := none, fixed := [] }, flt := fltReset, posts := [], free := 0,
    regs := { live := [], stage := [], capt := none, due := none, last := 0, partErr := false, slotErr := false }, cfgDone := false, held := [],
    pending := [] }

/-- The machine right after reset, of the build that Config.build names (log 4): the Beat LOCKED on the local source with count 0
(R240), start-up in phase 1 (R361). -/
def State.reset : State := State.resetOf Config.build

end Sys2Proof.Machine
end

