-- ==== Sys2Proof/Machine/RegMap.lean ====
section
/-!
DEFINITION. RegMap.lean: BAR0 offsets, staged fields and reset values of the registers, and the words that the build fixes (chapter 18,
Tables 10.4, 11.5, 12.8, 13.10, 13.12, 14.8, 17.6, 18.4 to 18.11).
-/

namespace Sys2Proof.Machine

/-! ### Offsets (Table 18.1) -/

/-- GLB_APPLY (Table 18.4). -/
def rGLB_APPLY : Nat := 0x20
/-- GLB_STATUS. -/
def rGLB_STATUS : Nat := 0x24
/-- BEAT_SRC (Table 10.4). -/
def rBEAT_SRC : Nat := 0x00100004
/-- BEAT_STAT. -/
def rBEAT_STAT : Nat := 0x00100010
/-- BEAT_LOAD_LO. -/
def rBEAT_LOAD : Nat := 0x00100014
/-- BEAT_COMP. -/
def rBEAT_COMP : Nat := 0x00100020
/-- HQ_CTL (Table 11.5). -/
def rHQ_CTL : Nat := 0x00200000
/-- HQ_CTX_BASE, low word. -/
def rHQ_CTX_BASE : Nat := 0x00200008
/-- HQ_Q_BASE, low word. -/
def rHQ_Q_BASE : Nat := 0x00200010
/-- HQ_EVT_BASE, low word. -/
def rHQ_EVT_BASE : Nat := 0x00200018
/-- HQ_OVF_BASE, low word. -/
def rHQ_OVF_BASE : Nat := 0x00200020
/-- HQ_STAT. -/
def rHQ_STAT : Nat := 0x00200034
/-- A register of mailbox n (Table 11.15). -/
def rMBX (n k : Nat) : Nat := 0x00300000 + 0x20 * n + k
/-- A register of partition p (Table 18.6). -/
def rPART (p k : Nat) : Nat := 0x00400000 + 0x40 * p + k
/-- FLT_CTL (Table 17.6). -/
def rFLT_CTL : Nat := 0x00500000
/-- FLT_RING_BASE, low word. -/
def rFLT_BASE : Nat := 0x00500008
/-- FLT_SUMMARY. -/
def rFLT_SUMMARY : Nat := 0x00500018
/-- FLT_THERM. -/
def rFLT_THERM : Nat := 0x00500020
/-- EXT_STAGE0 (Table 12.6). -/
def rEXT_STAGE : Nat := 0x00600000
/-- A register of the window of core c (Table 18.9). -/
def rCORE (c k : Nat) : Nat := 0x00800000 + 0x4000 * c + k
/-- A register of stack port p (Table 12.8). -/
def rSTK (p k : Nat) : Nat := 0x00A00000 + 0x10000 * p + k
/-- A register of Braid port p (Table 13.10). -/
def rBRD (p k : Nat) : Nat := 0x00B00000 + 0x4000 * p + k
/-- TWN_CTL (Table 13.12). -/
def rTWN_CTL : Nat := 0x00B80000
/-- A register of slot n (Table 14.8). -/
def rSLT (n k : Nat) : Nat := 0x00C00000 + 0x4000 * n + k

/-! ### Staged fields (Table 18.3) -/

/-- The staged bits of a register of the PART block that the host writes. -/
def partMask (k : Nat) : W32 :=
  match k with
  | 0x00 => 0xFFFFFFFF | 0x04 => 0xFFFFFFFF | 0x08 => 0x00FF3FFF | 0x10 => 0xFFFFFFFF | 0x14 => 0xFFFFFFFF
  | 0x18 => 0x01FF3F7F | 0x1C => 0x0000FFFF | _ => 0

/-- The staged bits of a register that the host writes (access code RWS): 0 where the register has none or the build lacks its unit
(R414). -/
def rwsMask (b : Build) (off : Nat) : W32 :=
  match off with
  | 0x00100004 => 0xFFFF1F3F
  | 0x00100014 => 0xFFFFFFFF
  | 0x00100018 => 0xFFFFFFFF
  | 0x00100020 => 0x0000FFFF
  | 0x00200000 => 1
  | 0x00200008 => 0xFFFFF000
  | 0x0020000C => 0xFFFFFFFF
  | 0x00200010 => 0xFFFFF000
  | 0x00200014 => 0xFFFFFFFF
  | 0x00200018 => 0xFFFFF000
  | 0x0020001C => 0xFFFFFFFF
  | 0x00200020 => 0xFFFFE000
  | 0x00200024 => 0xFFFFFFFF
  | 0x00500000 => 0x0003FF1F
  | 0x00500008 => 0xFFFFF000
  | 0x0050000C => 0xFFFFFFFF
  | 0x00500020 => 0x00FF0000
  | _ =>
    if 0x00400000 ≤ off && off < 0x00400400 then partMask (off % 0x40)
    else if 0x00800000 ≤ off && off < 0x00900000 then
      if (off - 0x00800000) / 0x4000 < b.ncore && (off % 0x4000 == 0x40 || off % 0x4000 == 0x44) then 0xFFFFFFFF else 0
    else if 0x00B00000 ≤ off && off < 0x00B40000 then
      if (off - 0x00B00000) / 0x4000 < b.nbraid && off % 0x4000 == 0 then 0x3F else 0
    else if off == 0x00B80000 then (if b.twin then 7 else 0)
    else if 0x00C00000 ≤ off && off < 0x00C20000 then
      if (off - 0x00C00000) / 0x4000 < b.nslot && off % 0x4000 == 0 then 0x7FF else 0
    else 0

/-- The staged bits of a register that only the MC writes (Table 18.2): PART_CTLn.MCDELAY and STK_CTL.EN. -/
def mcMask (b : Build) (off : Nat) : W32 :=
  if 0x00400000 ≤ off && off < 0x00400400 && off % 0x40 == 8 then 0xFF000000
  else if 0x00A00000 ≤ off && off < 0x00A80000 && off % 0x10000 == 0 && (off - 0x00A00000) / 0x10000 < b.nstack then 1
  else 0

/-- The reset value of a staged register. -/
def regReset (b : Build) (off : Nat) : W32 :=
  if off == rFLT_CTL then 0x0002000C
  else if off == rBEAT_SRC then 3
  else if off == rFLT_THERM then BitVec.ofNat 32 ((b.tstopd - 10) * 2 ^ 16)
  else if 0x00400000 ≤ off && off < 0x00400400 then
    (match off % 0x40 with
     | 0x08 => 0x200 | 0x10 => 0xFFFFFFFF | 0x14 => 0xFFFFFFFF | 0x18 => 0x01003040 | _ => 0)
  else 0

/-- The applied value of a staged register. -/
def liveReg (s : State) (off : Nat) : W32 := (smGet none s.regs.live off).getD (regReset s.build off)

/-- The staged value of a register, which a read returns (Table 0.6): the last one written, until the apply that takes it (log 25). -/
def stagedReg (s : State) (off : Nat) : W32 :=
  ((smGet none s.regs.stage off) <|> (smGet none (s.regs.capt.getD []) off) <|> (smGet none (s.regs.due.getD []) off)).getD (liveReg s off)

/-- A 64-bit register as the pair of its words. -/
def liveReg64 (s : State) (off : Nat) : W64 := liveReg s (off + 4) ++ liveReg s off

/-! ### What the build fixes (Table 18.5) -/

/-- R7: columns of the mesh. -/
def meshW (b : Build) : Nat := if b.ncore % 8 == 0 && b.ncore ≥ 16 then 8 else 4

/-- The code of SPAD_KIB. -/
def spadCode (b : Build) : Nat := if b.spadKib == 2048 then 0 else if b.spadKib == 4096 then 1 else 2

/-- GLB_BUILD. -/
def glbBuild (b : Build) : W64 :=
  BitVec.ofNat 64 (b.ncore + b.ntorte * 2 ^ 8 + spadCode b * 2 ^ 12 + b.nstack * 2 ^ 16 + b.nbraid * 2 ^ 20
    + (if b.twin then 2 ^ 25 else 0) + b.nslot * 2 ^ 28 + meshW b * 2 ^ 32 + b.ncore / meshW b * 2 ^ 36)

/-- GLB_STEPPING. -/
def glbStepping (b : Build) : Nat := if b.b0 then 0xB0 else 0xA1

/-- GLB_CAP0 to GLB_CAP3. -/
def glbCaps : List W32 := [0x01000100, 0x01000100, 0x01000100, 0x00280100]

/-- ENGID of the block's position (Table 15.6); zero before phase 5. -/
def engId (s : State) : Nat :=
  match s.boot.params, s.boot.fuses with
  | some p, some f => p.engid.getD f.cfgpos 0
  | _, _ => 0

/-- The MC runs (R410, R421). -/
def mcUp (s : State) : Bool := s.mc.run && !s.mc.dead

/-- R359, R362, R410: a function's accesses reach the registers: the host's from CFG_DONE on, up to which the ports are quiet, the MC's while it runs. -/
def fnOn (s : State) : Func → Bool
  | .mc => mcUp s
  | _ => s.cfgDone

/-- R262, R415: the PF, or the MC through its window, whose accesses reach the registers. -/
def pfOn (s : State) (f : Func) : Bool := fnOn s f && (match f with | .vf _ => false | _ => true)

/-- R413: a write with all byte enables set. -/
def fullWr (w : WrVal) : Bool := w.be == 0xF

end Sys2Proof.Machine
end

