-- ==== Sys2Proof/Machine/Ops.lean ====
section
/-!
DEFINITION. Ops.lean: the named operations every command is built from: cores and partitions, points in time, raising a record and
aborting a Segment, scratchpad rows with their ports, tags and pending bits, sync counters and the registers of a core.
-/

namespace Sys2Proof.Machine

/-! ### Defaults and accessors -/

/-- A stale entry (R108). -/
def staleEntry : Entry := ⟨⟨false, 0, 0, [], []⟩, [], []⟩
/-- A zero accumulator value. -/
def zeroAcc : Acc := ⟨0, false, false, false⟩
/-- Empty held and shadow registers (R108). -/
def emptyWafer : Wafer := ⟨none, none, 0, none⟩
/-- A counter at zero. -/
def zeroCtr : Ctr := ⟨0, []⟩
/-- A cleared wide-sum register (R183). -/
def zeroWs : WSum := ⟨0, false, false, false, 0, 0⟩
/-- A stream outside any Segment: registers zero, queue and loop stack empty (R168). -/
def idleStrm : StrmSt := ⟨[], [], [], [], 0, none, [], 0, false, 0, 0, 0, none⟩
/-- A core with every map at its default. -/
def emptyCore : Core :=
  { s := [], l := [], f := [], sd := [], an := [], sdOld := [], anOld := [], sc := [], strm := [], waf := [], lanes := [], ent := [],
    mmas := [], ws := [], dig := [], acts := [], rampAt := 0, rampLast := none, svLast := none, segend := false, guards := [],
    lfsr := [], holder := none, moving := false, bank := [], want := [], wake := [], remap := [], rowmap := [], tstat := [],
    sout := false, degraded := 0, code := [], codeErr := [], ucode := [] }
/-- A row never written: tag 0, not pending (R154). -/
def emptyRow : Row := ⟨0, 0, [], []⟩
/-- A partition that holds no cores and runs nothing. -/
def emptyPart : Part :=
  { cores := [], width := 0, want := [], seg := none, prevEnd := none, oepoch := 0, keySt := .empty, key := 0, drawn := 0,
    release := false, grant := false, stkUse := 0, regions := [], overB := none, graceB := none, res := none, link := none }
/-- No symbol in error. -/
def noErr : SymErr := ⟨0, 0, 0⟩

/-- Core c. -/
def getCore (s : State) (c : Nat) : Core := smGet emptyCore s.cores c
/-- Replace core c. -/
def setCore (s : State) (c : Nat) (v : Core) : State := { s with cores := smSet emptyCore s.cores c v }
/-- Change core c. -/
def modCore (s : State) (c : Nat) (f : Core → Core) : State := setCore s c (f (getCore s c))
/-- Partition p. -/
def getPart (s : State) (p : Nat) : Part := smGet emptyPart s.parts p
/-- Replace partition p. -/
def setPart (s : State) (p : Nat) (v : Part) : State := { s with parts := smSet emptyPart s.parts p v }
/-- Change partition p. -/
def modPart (s : State) (p : Nat) (f : Part → Part) : State := setPart s p (f (getPart s p))

/-- Stream codes of Table 9.2. -/
def strmCode : Strm → Nat
  | .control => 0 | .load => 1 | .store => 2 | .move => 3 | .matrix => 4 | .strudel => 5 | .glaze => 6

/-- A stream of a core. -/
def getStrm (s : State) (c : Nat) (k : Strm) : StrmSt := smGet idleStrm (getCore s c).strm (strmCode k)
/-- Replace a stream of a core. -/
def setStrm (s : State) (c : Nat) (k : Strm) (v : StrmSt) : State :=
  modCore s c (fun x => { x with strm := smSet idleStrm x.strm (strmCode k) v })
/-- Change a stream of a core. -/
def modStrm (s : State) (c : Nat) (k : Strm) (f : StrmSt → StrmSt) : State := setStrm s c k (f (getStrm s c k))

/-- The timed streams (Table 7.1). -/
def isTimed : Strm → Bool
  | .move | .matrix | .strudel | .glaze => true
  | _ => false

/-- The running Segment of partition p, unless it is being aborted (R184). -/
def runningSeg (s : State) (p : Nat) : Option Seg :=
  match (getPart s p).seg with
  | some g => if g.abort.isNone then some g else none
  | none => none

/-- R397, R184: the streams of a Segment act at a point: it runs, or its fault falls there or later. Those of the built-in Segment of a COPY or FILL
hold no program. -/
def segActs (g : Seg) (pt : BitVec 64 × Nat) : Bool :=
  g.bulk.isNone && (match g.abort with
  | none => true
  | some a => match a.key with
    | b :: c :: _ => decide (pt.1.toNat < b) || (pt.1.toNat == b && decide (pt.2 ≤ c))
    | _ => false)

/-- Change the Segment of partition p. -/
def modSeg (s : State) (p : Nat) (f : Seg → Seg) : State := modPart s p (fun x => { x with seg := x.seg.map f })

/-- The partition of a core (R7). -/
def partOf (s : State) (c : Nat) : Nat := (getCore s c).holder.getD 16

/-- R192: the physical core of a partition core index. -/
def coreAt (s : State) (p idx : Nat) : Option Nat := (getPart s p).cores[idx]?
/-- R192: the partition core index of a physical core. -/
def coreIdx (s : State) (p c : Nat) : Nat := (getPart s p).cores.findIdx (· == c)

/-! ### Time -/

/-- R9: the point (b, c) of an absolute cycle of this Beat or a later one. -/
def pointOf (s : State) (t : Nat) : W64 × Nat :=
  if t < s.beat.start then (s.beat.b, 0)
  else if t - s.beat.start ≤ 4127 then (s.beat.b, t - s.beat.start)
  else (s.beat.b + BitVec.ofNat 64 ((t - s.beat.start) / 4096), (t - s.beat.start) % 4096)

/-- R397, R184: partition p has a Segment that acts in cycle t. -/
def segLive (s : State) (p t : Nat) : Bool :=
  match (getPart s p).seg with
  | some g => segActs g (pointOf s t)
  | none => false

/-- The model's latest cycle. -/
def touch (s : State) (t : Nat) : State := { s with now := max s.now t }

/-- Table 9.3: an entry of the Transit Table of the running stepping. -/
def transit (b : Build) (id : Nat) : Nat :=
  match id with
  | 0x0001 => if b.b0 then 5 else 4
  | 0x0002 => 4
  | 0x0003 => 6
  | 0x0004 => if b.b0 then 4 else 3
  | 0x0005 => 5
  | 0x0006 => 33
  | 0x0007 => 1
  | 0x0010 => 1
  | 0x0011 => 4
  | 0x0012 => 5
  | 0x0013 => if b.b0 then 4 else 3
  | 0x0014 => 5
  | 0x0020 => 2
  | 0x0021 => 1
  | 0x0022 => 3
  | 0x0030 => 1
  | 0x0031 => 2
  | 0x0032 => 3
  | 0x0033 => 2
  | 0x0034 => 3
  | 0x0035 => 3
  | 0x0036 => 3
  | 0x0040 => 1
  | 0x0041 => 4
  | 0x0042 => 5
  | 0x0043 => 2
  | 0x0044 => 5
  | 0x0045 => if b.b0 then 8 else 7
  | 0x0046 => 6
  | 0x0047 => 8
  | 0x0048 => 3
  | 0x0049 => if b.b0 then 11 else 9
  | 0x004A => if b.b0 then 12 else 11
  | 0x004B => 10
  | 0x004C => if b.b0 then 16 else 14
  | 0x004D => if b.b0 then 17 else 15
  | 0x004E => 2
  | 0x004F => 2
  | 0x0050 => 1
  | 0x0051 => 2
  | _ => 0

/-- The identifiers of Table 9.3, in order. -/
def transitIds : List Nat :=
  [0x0001, 0x0002, 0x0003, 0x0004, 0x0005, 0x0006, 0x0007, 0x0010, 0x0011, 0x0012, 0x0013, 0x0014, 0x0020, 0x0021, 0x0022,
   0x0030, 0x0031, 0x0032, 0x0033, 0x0034, 0x0035, 0x0036, 0x0040, 0x0041, 0x0042, 0x0043, 0x0044, 0x0045, 0x0046, 0x0047,
   0x0048, 0x0049, 0x004A, 0x004B, 0x004C, 0x004D, 0x004E, 0x004F, 0x0050, 0x0051]

/-! ### What leaves the block -/

/-- The engine is the twin of a primary: its queues fetch only from the journal and it writes no host memory (R336). -/
def twinSide (s : State) : Bool := (s.twin.st == 2 || s.twin.st == 3 || s.twin.st == 4) && !s.twin.primary

/-- A write to host memory. -/
def toHost : Post → Bool
  | .write _ _ _ _ => true | .msix _ _ => true | .fetchAdd _ _ _ => true | .setBit _ _ _ => true | _ => false

/-- Send something out. The twin writes no host memory (R336). -/
def post (s : State) (p : Post) : State := if twinSide s && toHost p then s else { s with posts := s.posts ++ [p] }

/-- R262: a posted write of the engine's own with the PF's requester ID. -/
def pfWrite (s : State) (addr : W64) (bytes : List Byte) : State := post s (.write 0 false addr bytes)

/-- R262: the function whose requester ID a queue's requests carry: 0 the PF, n VF n. -/
def fnOf (x : QSlot) : Nat := if x.qr.pfq then 0 else x.part + 1

/-- The function of a resident queue. -/
def queueFn (s : State) (q : Nat) : Nat :=
  match s.host.slots.find? (fun e => match e.2 with | some x => x.q == q | none => false) with
  | some (_, some x) => fnOf x
  | _ => 0

/-- R262: a posted write made for a queue. -/
def queueWrite (s : State) (q : Nat) (addr : W64) (bytes : List Byte) : State := post s (.write (queueFn s q) false addr bytes)

/-- R261, R262: a write of data by the Store engine for a queue, with Relaxed Ordering. -/
def dataWrite (s : State) (q : Nat) (addr : W64) (bytes : List Byte) : State := post s (.write (queueFn s q) true addr bytes)

/-! ### Records (R393 to R401) -/

/-- MINSEV (Table 17.7). -/
def minSev (s : State) : Nat := ((liveReg s rFLT_CTL) >>> 16).toNat % 4

/-- A fault as a rule raises it: code, DETAIL and the absolute cycle. -/
structure Flt where
  code   : FCode
  detail : Nat
  at_    : Nat
deriving DecidableEq, Repr

/-- Two records that R396 coalesces. -/
def sameRec (a b : FRec) : Bool := a.code == b.code && a.part == b.part && a.detail == b.detail

/-- Increment REPEAT of the first record of the buffer that equals `r` (R396). -/
def bumpRep (r : FRec) : List FRec → List FRec
  | [] => []
  | x :: xs => if sameRec x r then { x with rep := min 15 (x.rep + 1) } :: xs else x :: bumpRep r xs

/-- R396: what orders records: the cycle in which they are raised, then partition, core index, stream and code. A record of no partition follows those
of partitions. -/
def recKey (r : FRec) : List Nat := [r.beat.toNat, r.cycle, r.part.getD 16, r.core, r.strm, r.code]

/-- The order of lists of numbers by their first difference. -/
def keyLt : List Nat → List Nat → Bool
  | x :: xs, y :: ys => decide (x < y) || (x == y && keyLt xs ys)
  | _, _ => false

/-- R396: record `r` enters before `x`, which a command has raised earlier, the MC has not reached and no reset has carried over. -/
def enters (f : FltSt) (r x : FRec) : Bool :=
  keyLt (recKey r) (recKey x) && !x.retained && decide ((x.seq - f.mcNext).toNat < 2 ^ 31)

/-- A record at its place in the buffer (R396): before the last records that it precedes. -/
def seatRec (f : FltSt) (r : FRec) (buf : List FRec) : List FRec :=
  let n := buf.length - (buf.reverse.takeWhile (enters f r)).length
  buf.take n ++ r :: buf.drop n

/-- The records in their order with the SEQs in theirs (R396). -/
def seatSeqs (f : FltSt) (order : List FRec) (seqs : List W32) : FltSt :=
  let b := List.zipWith (fun x n => { x with seq := n }) order seqs
  { f with buf := b, moved := b.foldl (fun m x => smSet 0 m x.id.toNat (x.seq - x.id)) f.moved }

/-- R397: the SEQ that the record of a number has. -/
def seqOf (f : FltSt) (id : W32) : W32 := id + smGet 0 f.moved id.toNat

/-- FLT_SUMMARY's class bits and FAULT_N once a record has entered (R401). -/
def sawRec (cfg : Bool) (min : Nat) (r : FRec) (f : FltSt) : FltSt :=
  let drive := cfg && decide (min ≤ r.sev)
  { f with seen := f.seen ||| (1 <<< (r.code / 4096 - 1)), faultn := f.faultn || drive, low := f.low || drive }

/-- R396, R401: a record enters the buffer, coalesces, or is lost. -/
def enterRec (r : FRec) (s : State) : State :=
  if r.sev == 0 && s.flt.buf.any (fun x => sameRec x r) then { s with flt := { s.flt with buf := bumpRep r s.flt.buf } }
  else if s.flt.buf.length ≥ 64 then { s with flt := { s.flt with lost := min 65535 (s.flt.lost + 1) } }
  else
    let f := seatSeqs s.flt (seatRec s.flt { r with id := s.flt.next } s.flt.buf) (s.flt.buf.map FRec.seq ++ [s.flt.next])
    { s with flt := sawRec s.cfgDone (minSev s) r { f with next := s.flt.next + 1 } }

/-- A record takes the place of one that stands in the buffer under the number `id` (R397). -/
def swapRec (id : W32) (r : FRec) (s : State) : State :=
  let order := seatRec s.flt { r with id := id } (s.flt.buf.filter (fun x => x.id != id))
  { s with flt := sawRec s.cfgDone (minSev s) r (seatSeqs s.flt order (s.flt.buf.map FRec.seq)) }

/-- A record with no location (R394): PART where it has one, BEAT and CYCLE of the cycle `t`. -/
def bareRec (s : State) (f : Flt) (part : Option Nat) : FRec :=
  { code := f.code.code, sev := f.code.sev, loc := false, retained := false, rep := 0, part := part, id := 0, seq := 0, context := 0,
    core := 0, strm := 0, dix := 0, progid := 0, loops := [0, 0, 0, 0], beat := (pointOf s f.at_).1,
    cycle := (pointOf s f.at_).2, pc := 0, dfmt := f.code.dfmt, detail := f.detail }

/-- Raise a record that concerns no Segment. -/
def note (s : State) (f : Flt) (part : Option Nat) : State := enterRec (bareRec s f part) s

/-- R394: raise a record of an event that has a core: PART is the core's partition, if any, and CORE its index there (log 65). -/
def noteCore (s : State) (f : Flt) (core : Nat) : State :=
  match (getCore s core).holder with
  | some p => enterRec { bareRec s f (some p) with core := coreIdx s p core } s
  | none => note s f none

/-- Table 9.6: the loop iteration vector. -/
def loopVec (st : StrmSt) : List W32 :=
  (List.range 4).map (fun l => match st.loops[l]? with | some x => BitVec.ofNat 32 x.done | none => 0xFFFFFFFF)

/-- R231: the entry of a location map for a physical PC: the last one whose PCSTART is not above it. -/
def locEntry (m : List LocEnt) (pc : W32) : Option LocEnt := (m.filter (fun e => e.pcstart.toNat ≤ pc.toNat)).getLast?

/-- The section of a stream in the code store of a core (R229). -/
def codeOf (s : State) (core : Nat) (k : Strm) : Option CodeSt := (getCore s core).code.find? (fun x => x.strm == strmCode k)

/-- Table 9.6: where a stream instruction stands: DVIS stream and index from the location map entry of its PC, and its loops as they
stand. A PC that no entry covers keeps its stream and index 0xFFFF_FFFF (log 60). -/
def locOf (s : State) (i : Iss) : Loc :=
  let e := match codeOf s i.core i.strm with
    | some x => locEntry x.locs i.pc
    | none => none
  let v := loopVec (getStrm s i.core i.strm)
  match e with
  | some e => ⟨i, e.strm, e.dix, v⟩
  | none => ⟨i, strmCode i.strm, 0xFFFFFFFF, v⟩

/-- Table 9.6: a record with the location of a stream instruction. -/
def locRec (s : State) (p : Nat) (g : Seg) (l : Loc) (r : FRec) : FRec :=
  { r with loc := true, context := g.ctx, progid := g.progid, core := coreIdx s p l.iss.core, strm := l.strm, dix := l.dix,
           loops := l.loops, pc := l.iss.pc }

/-- R394: the record of a fault of partition p's Segment, at a stream instruction when `loc` names one. -/
def segRec (s : State) (p : Nat) (g : Seg) (f : Flt) (loc : Option Loc) : FRec :=
  match loc with
  | none => bareRec s f (some p)
  | some l => locRec s p g l (bareRec s f (some p))

/-- A record raised since the count `n`, with no location yet. -/
def isFresh (n : W32) (r : FRec) : Bool := decide ((r.id - n).toNat < 2 ^ 31) && !r.loc

/-- R394: the records that entered while an instruction ran, from number `n` on, and the claims it made, all but the `m` last, carry its location; the
records keep the order of R396. -/
def locate (l : Loc) (n : W32) (m : Nat) (s : State) : State :=
  let k := s.claims.length - m
  let s1 := { s with claims := (s.claims.take k).map (fun c => if c.loc.isNone then { c with loc := some l } else c) ++ s.claims.drop k }
  if s.flt.buf.any (isFresh n) then
    match (getPart s (partOf s l.iss.core)).seg with
    | none => s1
    | some g =>
      let fresh := (s.flt.buf.filter (isFresh n)).map (locRec s (partOf s l.iss.core) g l)
      let order := fresh.foldl (fun b r => seatRec s.flt r b) (s.flt.buf.filter (fun r => !isFresh n r))
      { s1 with flt := seatSeqs s.flt order (s.flt.buf.map FRec.seq) }
  else s1

/-- The classes of which a Segment raises no further record after its fault (R397): PROG, with Segment overrun, and POWER. -/
def isQuiet (code : Nat) : Bool := code / 4096 == 2 || code / 4096 == 8

/-- R397: after the Segment's fault it raises no further PROG or POWER record. -/
def suppressed (g : Seg) (r : FRec) : Bool :=
  match g.abort with
  | some a => a.key != [] && !keyLt (recKey r) a.key && isQuiet r.code
  | none => false

/-- FLTIDX of a record just offered to the buffer (R397). -/
def idxOf (s s' : State) : FltIdx := if s'.flt.next == s.flt.next then .lost else .seq s.flt.next

/-- R396, R397: a record that precedes the Segment's fault `a` enters as the fault; the former one, if it is of a class the Segment then no longer raises
and stands in the buffer, gives it its place. -/
def earlierRec (s : State) (p : Nat) (a : Abort) (r : FRec) : State :=
  let former := match a.flt with
    | .seq id => s.flt.buf.find? (fun (x : FRec) => x.id == id && isQuiet x.code && enters s.flt r x)
    | _ => none
  match former with
  | some x => modSeg (swapRec x.id r s) p (fun g => { g with abort := some { a with key := recKey r } })
  | none => modSeg (enterRec r s) p (fun g => { g with abort := some { a with flt := idxOf s (enterRec r s), key := recKey r } })

/-- R36, R397, R184: a record of the Segment `g` of partition p; the first one of severity FAIL aborts the Segment. -/
def raiseRec (s : State) (p : Nat) (g : Seg) (c : FCode) (r : FRec) : State :=
  if suppressed g r then s
  else if c.sev != 1 then enterRec r s
  else match g.abort with
    | none => modSeg (enterRec r s) p (fun g => { g with abort := some ⟨idxOf s (enterRec r s), recKey r, s.beat.b⟩ })
    | some a => if a.key != [] && keyLt (recKey r) a.key then earlierRec s p a r else enterRec r s

/-- Raise a fault of the Segment of partition p, with the location of a stream instruction when `loc` names one. -/
def raiseSeg (s : State) (p : Nat) (f : Flt) (loc : Option Loc) : State :=
  match (getPart s p).seg with
  | none => note s f (some p)
  | some g => raiseRec s p g f.code (segRec s p g f loc)

/-- R394: a record with no location names the core and the stream concerned. -/
def raiseUnit (s : State) (p : Nat) (f : Flt) (core : Nat) (k : Strm) : State :=
  let put (r : FRec) : FRec := { r with core := coreIdx s p core, strm := strmCode k }
  match (getPart s p).seg with
  | none => enterRec (put (bareRec s f (some p))) s
  | some g => raiseRec s p g f.code (put (segRec s p g f none))

/-- A fault of a stream instruction that was located at its issue (R394). -/
def raiseLoc (s : State) (l : Loc) (f : Flt) : State := raiseSeg s (partOf s l.iss.core) f (some l)

/-- A fault of a stream instruction as it issues (R394: with its location). -/
def raiseAt (s : State) (i : Iss) (f : Flt) : State := raiseLoc s (locOf s i) f

/-- DETAIL of format SCRATCH (Table 17.5). -/
def scratchDetail (core local_ found expected src : Nat) : Nat :=
  core * 2 ^ 23 + local_ + found * 2 ^ 29 + expected * 2 ^ 33 + src * 2 ^ 48

/-! ### Scratchpad rows (chapter 06) -/

/-- A row of the byte space of Global Scratchpad Addresses (R129). -/
def rowNo (core local_ : Nat) : Nat := core * 65536 + local_ / 128
/-- The bank of a local address (Table 6.1). -/
def bankOf (local_ : Nat) : Nat := local_ / 128 % 32
/-- R6: the local addresses exist in the build. -/
def localOk (b : Build) (local_ len : Nat) : Bool := local_ + len ≤ b.spadKib * 1024
/-- The state of the bank of a local address. -/
def bankAt (s : State) (core local_ : Nat) : Bank := smGet .on (getCore s core).bank (bankOf local_)
/-- The row record of a row. -/
def getRow (s : State) (g : Nat) : Row := smGet emptyRow s.rows g

/-- A row as a reader meets it: its bytes, tag and outstanding landings, and the last cycle in which its write port was used. -/
structure RowView where
  data : List Byte
  tag  : BitVec 4
  pend : Nat
  wr   : Option Nat
deriving DecidableEq, Repr

/-- Bytes `bs` laid over `data` at `off`. -/
def splice (data : List Byte) (off : Nat) (bs : List Byte) : List Byte :=
  data.take off ++ bs ++ data.drop (off + bs.length)

/-- R135: bytes written to a row in cycle t. What is written in one cycle is one use of the write port and counts once. -/
def putRow (v : RowView) (t off : Nat) (bs : List Byte) : RowView :=
  { v with data := splice v.data off bs, tag := if v.wr == some t then v.tag else v.tag + 1, wr := some t }

/-- R134, R135: one use of a row, in cycle t. -/
def applyUse (v : RowView) (t : Nat) : RowUse → RowView
  | .write off bs => putRow v t off bs
  | .accept => { v with pend := v.pend + 1 }
  | .land off bs => { putRow v t off bs with pend := v.pend - 1 }
  | .retire => { v with pend := v.pend - 1 }

/-- The row before the uses listed for it. -/
def rowBase (s : State) (g : Nat) : RowView :=
  let r := getRow s g
  ⟨memRead s.spad (g * 128) 128, r.tag, r.pend, none⟩

/-- R28, R136: the row as it stood at the start of cycle t. -/
def rowView (s : State) (g t : Nat) : RowView :=
  ((getRow s g).uses.filter (fun u => u.1 < t)).foldl (fun v u => applyUse v u.1 u.2) (rowBase s g)

/-- List a use after every use of its cycle or an earlier one. -/
def insUse (u : Nat × RowUse) : List (Nat × RowUse) → List (Nat × RowUse)
  | [] => [u]
  | x :: xs => if u.1 < x.1 then u :: x :: xs else x :: insUse u xs

/-- A use that writes the row. -/
def isWrite : RowUse → Bool
  | .write _ _ => true
  | .land _ _ => true
  | _ => false

/-- The use writes bytes of Granule q of its row. -/
def onGran (q : Nat) : RowUse → Bool
  | .write off bs => decide (off < 32 * q + 32) && decide (32 * q < off + bs.length)
  | .land off bs => decide (off < 32 * q + 32) && decide (32 * q < off + bs.length)
  | _ => false

/-- Symbol errors of a Granule of a row, but for the writes of the Beat. -/
def granErr (s : State) (g gran : Nat) : SymErr := smGet noErr s.errs (g * 4 + gran)

/-- R131, R403: the symbol errors that a read of cycle t meets: a write of the Granule in an earlier cycle of the Beat has formed its check symbols anew,
and what the scrub corrects is written back at 4,051. -/
def errAt (s : State) (g gran t : Nat) : SymErr :=
  if (getRow s g).uses.any (fun u => decide (u.1 < t) && onGran gran u.2) then noErr
  else match s.scrub.fixed.find? (fun x => x.1 == g * 4 + gran) with
    | some x => if s.scrub.last == some s.beat.b && decide (t ≤ s.beat.start + 4051) then x.2 else granErr s g gran
    | none => granErr s g gran

/-- R387: the row lies in a resident range of the partition. -/
def inRes (r : ResRec) (g : Nat) : Bool :=
  r.rngs.any (fun x => x.1 == g / 65536 && x.2.1 ≤ g % 65536 && g % 65536 < x.2.1 + x.2.2)

/-- R387: a write to a row of the partition's resident ranges clears RESOK. -/
def clearRes (s : State) (g : Nat) : State :=
  let p := partOf s (g / 65536)
  match (getPart s p).res with
  | some r =>
    if r.ok && inRes r g then
      modPart s p (fun y => { y with res := some { r with ok := false } })
    else s
  | none => s

/-- Add a use of row g at cycle t. -/
def addUse (s : State) (g t : Nat) (u : RowUse) : State :=
  let r := getRow s g
  let s := if isWrite u then clearRes s g else s
  { s with rows := smSet emptyRow s.rows g { r with uses := insUse (t, u) r.uses } }

/-- Fold every use before cycle t into the stored row. -/
def commitRow (t : Nat) (s : State) (g : Nat) : State :=
  let r := getRow s g
  let v := rowView s g t
  { s with spad := memWrite s.spad (g * 128) v.data,
           errs := (List.range 4).foldl (fun e q => smSet noErr e (g * 4 + q) (errAt s g q t)) s.errs,
           rows := smSet emptyRow s.rows g
             { tag := v.tag, pend := v.pend, uses := r.uses.filter (fun u => t ≤ u.1), rds := [] } }

/-- Fold the uses of the Beat that ends into every row. -/
def commitRows (s : State) (t : Nat) : State := (s.rows.map Prod.fst).foldl (commitRow t) s

/-- R138: the row lies in a guarded range of the core. -/
def guarded (s : State) (core local_ : Nat) : Bool :=
  (getCore s core).guards.any (fun x => x.1 ≤ local_ / 128 && local_ / 128 < x.1 + x.2)

/-- One row a unit reads: row-aligned local address, Granules [g0, g1), cycle. -/
structure RdReq where
  row : Nat
  g0  : Nat
  g1  : Nat
  at_ : Nat
deriving DecidableEq, Repr

/-- The bytes a read of a row delivers at cycle t (R131): a Granule with four or more symbols in error is a free value. -/
def rowData (s : State) (g t : Nat) : List Byte :=
  let d := (rowView s g t).data
  if (List.range 4).any (fun k => (errAt s g k t).n ≥ 4) then
    d.zipIdx.map (fun (b, j) => if (errAt s g (j / 32) t).n ≥ 4 then Config.spadByte (g * 4 + j / 32) (j % 32) else b)
  else d

/-- The port of a bank (R128): reading, or writing with `w`. -/
def portNo (core local_ : Nat) (w : Bool) : Nat := 64 * core + 2 * bankOf local_ + (if w then 1 else 0)

/-- The cycle of an absolute time in the current Beat. -/
def cyc (s : State) (t : Nat) : Nat := t - s.beat.start

/-- R29, R31: a timed action falls in the guard window. -/
def late (s : State) (k : Strm) (t : Nat) : Bool := isTimed k && decide (cyc s t > 4031)

/-- R29: the fault of an action of a timed stream that falls in the guard window, where the stream does nothing. -/
def lateFault (s : State) (k : Strm) (t : Nat) : Option Flt := if late s k t then some ⟨.segOverrun, 0, t⟩ else none

/-- R133: the users of the open pool; everything else on a port is a timed claim. -/
def openUser : Strm → Bool
  | .load => true
  | .store => true
  | _ => false

/-- R132: a claim moved by a hold meets a timed claim of another stream. An access of the open pool gives way. -/
def claimClash (s : State) (c : Claim) : Bool :=
  s.claims.any (fun x => x.port == c.port && x.at_ == c.at_ && x.strm != c.strm && (x.shifted || c.shifted)
    && !openUser x.strm && !openUser c.strm)

/-- R27, R132: a port cycle that carries an access already, so that an access of the open pool waits. -/
def portTaken (s : State) (port t : Nat) : Bool := s.claims.any (fun x => x.port == port && x.at_ == t)

/-- The claim of a stream on a port at a cycle. -/
def mkClaim (s : State) (core : Nat) (k : Strm) (local_ t : Nat) (w : Bool) : Claim :=
  ⟨portNo core local_ w, t, k, (getStrm s core k).shift != 0, rowNo core local_, none⟩

/-- R131: a Granule of the read has two or three symbols in error. -/
def readUe (s : State) (core : Nat) (r : RdReq) : Bool :=
  (List.range 4).any (fun q => r.g0 ≤ q && q < r.g1 && ((errAt s (rowNo core r.row) q r.at_).n == 2 || (errAt s (rowNo core r.row) q r.at_).n == 3))

/-- R6, R132, R136 to R138, R150, R436, R131: the fault of one row read, in the order the rules give. -/
def readFault (s : State) (core : Nat) (k : Strm) (exp : Option Nat) (r : RdReq) : Option Flt :=
  let g := rowNo core r.row
  let v := rowView s g r.at_
  let tg := v.tag.toNat
  let d := scratchDetail core r.row tg (exp.getD 0) (strmCode k)
  if late s k r.at_ then some ⟨.segOverrun, 0, r.at_⟩
  else if !localOk s.build r.row 128 then some ⟨.outOfPartition, scratchDetail core r.row 0 0 (strmCode k), r.at_⟩
  else if claimClash s (mkClaim s core k r.row r.at_ false) then some ⟨.segOverrun, 0, r.at_⟩
  else if bankAt s core r.row != .on then some ⟨.darkRead, scratchDetail core r.row 0 0 (strmCode k), r.at_⟩
  else if v.pend > 0 then some ⟨.pendRead, d, r.at_⟩
  else if guarded s core r.row && (getRow s g).uses.any (fun u => u.1 == r.at_ && isWrite u.2) then
    some ⟨.guardConflict, d, r.at_⟩
  else if exp.isSome && exp != some tg then some ⟨.tagMismatch, d, r.at_⟩
  else if readUe s core r then some ⟨.granuleUe, d, r.at_⟩
  else none

/-- R131: the corrected Granules of a read raise GRANULE_CE. -/
def noteCe (s : State) (core : Nat) (k : Strm) (r : RdReq) : State :=
  (List.range 4).foldl (fun s q =>
    if r.g0 ≤ q && q < r.g1 && (errAt s (rowNo core r.row) q r.at_).n == 1 then
      noteCore s ⟨.granuleCe, scratchDetail core (r.row + 32 * q) 0 0 (strmCode k), r.at_⟩ core
    else s) s

/-- What a read leaves behind: its claim, its cycle on a guarded row, its corrected Granules. -/
def markRead (s : State) (core : Nat) (k : Strm) (r : RdReq) : State :=
  let s := { s with claims := mkClaim s core k r.row r.at_ false :: s.claims }
  let s := if guarded s core r.row then
      let x := getRow s (rowNo core r.row)
      { s with rows := smSet emptyRow s.rows (rowNo core r.row) { x with rds := r.at_ :: x.rds } }
    else s
  noteCe s core k r

/-- The read uses the port of its bank. -/
def usesPort (s : State) (core : Nat) (k : Strm) (r : RdReq) : Bool :=
  !late s k r.at_ && localOk s.build r.row 128 && !claimClash s (mkClaim s core k r.row r.at_ false) && bankAt s core r.row == .on

/-- R131, R436: the rows that a faulting read uses in the cycle `t` of its fault, from the first that faults: their ports are used and their Granules
checked all the same; `raised` says that the fault is the GRANULE_UE of the first row. -/
def restReads (core : Nat) (k : Strm) (t : Nat) (raised : Bool) : List RdReq → State → State
  | [], s => s
  | r :: rs, s =>
    if r.at_ == t && usesPort s core k r then
      let s1 := markRead s core k r
      let d := scratchDetail core r.row (rowView s (rowNo core r.row) r.at_).tag.toNat 0 (strmCode k)
      restReads core k t false rs (if readUe s core r && !raised then noteCore s1 ⟨.granuleUe, d, r.at_⟩ core else s1)
    else restReads core k t false rs s

/-- Row reads in order of cycle and address, each with the tag it expects; the first fault stops them (R436). -/
def doReadsBy (core : Nat) (k : Strm) : List (Option Nat × RdReq) → State → State × Option Flt
  | [], s => (s, none)
  | (exp, r) :: rs, s => match readFault s core k exp r with
    | some f => (restReads core k f.at_ (f.code == .granuleUe) (r :: rs.map Prod.snd) s, some f)
    | none => doReadsBy core k rs (markRead s core k r)

/-- Reads that expect one tag. -/
def expecting (exp : Option Nat) (l : List RdReq) : List (Option Nat × RdReq) := l.map (fun r => (exp, r))

/-- Row reads in order of cycle and address that expect one tag (R137). -/
def doReads (core : Nat) (k : Strm) (exp : Option Nat) (l : List RdReq) (s : State) : State × Option Flt :=
  doReadsBy core k (expecting exp l) s

/-- A read at its place among reads in order of cycle and address. -/
def insRead (r : Option Nat × RdReq) : List (Option Nat × RdReq) → List (Option Nat × RdReq)
  | [] => [r]
  | x :: xs => if r.2.at_ < x.2.at_ || (r.2.at_ == x.2.at_ && r.2.row < x.2.row) then r :: x :: xs else x :: insRead r xs

/-- R436: reads in order of cycle and address. -/
def sortReads (l : List (Option Nat × RdReq)) : List (Option Nat × RdReq) := l.foldl (fun m r => insRead r m) []

/-- The row reads that cover bytes [local, local + len) at cycle t, in ascending address. -/
def spanReads (local_ len t : Nat) : List RdReq :=
  if len == 0 then []
  else (List.range ((local_ + len - 1) / 128 - local_ / 128 + 1)).map (fun j =>
    let row := (local_ / 128 + j) * 128
    let lo := max local_ row - row
    let hi := min (local_ + len) (row + 128) - row
    ⟨row, lo / 32, (hi + 31) / 32, t⟩)

/-- The bytes [local, local + len) of a core's scratchpad as read at cycle t. -/
def readSpan (s : State) (core local_ len t : Nat) : List Byte :=
  if len == 0 then []
  else (((List.range ((local_ + len - 1) / 128 - local_ / 128 + 1)).flatMap (fun j =>
      rowData s (rowNo core local_ + j) t)).drop (local_ % 128)).take len

/-- R131: bytes that take the place of those of a Granule in which two or more symbols are in error: free values (log 66). -/
def lostBytes (s : State) (g gran t lo n : Nat) : List Byte :=
  if (errAt s g gran t).n ≥ 2 then (List.range n).map (fun j => Config.spadByte (g * 4 + gran) (lo + j)) else []

/-- R131: what a write of bytes at an offset stores: the check symbols of a Granule that it writes in part are formed over the stored rest, of which nothing
is known where two or more symbols are in error. -/
def storedBytes (s : State) (g off : Nat) (bs : List Byte) (t : Nat) : Nat × List Byte :=
  let e := off + bs.length
  let pre := lostBytes s g (off / 32) t 0 (off % 32)
  (off - pre.length, pre ++ bs ++ lostBytes s g ((e - 1) / 32) t (e % 32) (if e % 32 == 0 then 0 else 32 - e % 32))

/-- R150, R135, R138: one write of at most a row arrives at its bank at cycle t. A write to a bank that is not ON is dropped. -/
def writeRow (s : State) (core : Nat) (k : Strm) (src : Nat) (local_ : Nat) (bs : List Byte) (t : Nat) : State × Option Flt :=
  let g := rowNo core local_
  if late s k t then (s, some ⟨.segOverrun, 0, t⟩)
  else if !localOk s.build local_ bs.length then (s, some ⟨.outOfPartition, scratchDetail core local_ 0 0 src, t⟩)
  else if claimClash s (mkClaim s core k local_ t true) then (s, some ⟨.segOverrun, 0, t⟩)
  else if bankAt s core local_ != .on then (s, some ⟨.darkWrite, scratchDetail core local_ 0 0 src, t⟩)
  else
    let tg := (rowView s g t).tag.toNat
    let w := storedBytes s g (local_ % 128) bs t
    let s1 := addUse s g t (.write w.1 w.2)
    let s2 := { s1 with claims := mkClaim s core k local_ t true :: s1.claims }
    if guarded s core local_ && (getRow s g).rds.contains t then
      (s2, some ⟨.guardConflict, scratchDetail core local_ tg 0 src, t⟩)
    else (s2, none)

/-- Split bytes at a local address into the writes of its rows. -/
def rowPieces : Nat → Nat → List Byte → List (Nat × List Byte)
  | 0, _, _ => []
  | fuel + 1, local_, bs =>
    if bs.isEmpty then []
    else
      let n := 128 - local_ % 128
      (local_, bs.take n) :: rowPieces fuel (local_ + min n bs.length) (bs.drop n)

/-- The first of two faults. -/
def orFlt (a b : Option Flt) : Option Flt := if a.isSome then a else b

/-- Writes of a span at cycle t, row by row; a faulting row is dropped and the others proceed. -/
def writeSpan (core : Nat) (k : Strm) (src t : Nat) : List (Nat × List Byte) → State → State × Option Flt
  | [], s => (s, none)
  | (a, b) :: r, s =>
    let (s1, f1) := writeRow s core k src a b t
    let (s2, f2) := writeSpan core k src t r s1
    (s2, orFlt f1 f2)

/-- Write bytes of a stream at a local address at cycle t. -/
def writeBytes (s : State) (core : Nat) (k : Strm) (local_ : Nat) (bs : List Byte) (t : Nat) : State × Option Flt :=
  writeSpan core k (strmCode k) t (rowPieces (bs.length / 128 + 2) local_ bs) s

/-- A write of a list of writes. -/
structure Wr where
  local_ : Nat
  bytes  : List Byte
  at_    : Nat
deriving DecidableEq, Repr

/-- Timed writes in order. -/
def doWrites (core : Nat) (k : Strm) : List Wr → State → State × Option Flt
  | [], s => (s, none)
  | w :: ws, s =>
    let (s1, f1) := writeBytes s core k w.local_ w.bytes w.at_
    let (s2, f2) := doWrites core k ws s1
    (s2, orFlt f1 f2)

/-! ### Sync counters (R175 to R177) -/

/-- A sync counter of a core. -/
def getCtr (s : State) (core sc : Nat) : Ctr := smGet zeroCtr (getCore s core).sc sc
/-- R175: add an amount in cycle t. -/
def addCtr (s : State) (core sc : Nat) (t : Nat) (amt : W32) : State :=
  modCore s core (fun c => { c with sc := smMod zeroCtr c.sc sc (fun x => { x with adds := x.adds ++ [(t, amt)] }) })
/-- R176: the value a waiter sees in cycle t: additions of cycle t − 3 or earlier. -/
def seenAt (c : Ctr) (t : Nat) : W32 :=
  (c.adds.filter (fun a => a.1 + 3 ≤ t)).foldl (fun v a => v + a.2) c.base
/-- The whole value. -/
def ctrVal (c : Ctr) : W32 := c.adds.foldl (fun v a => v + a.2) c.base
/-- R177. -/
def reached (cur v : W32) : Bool := decide ((cur - v).toNat < 0x80000000)
/-- The least of a list of numbers that is at least `t` and meets a test. -/
def firstFrom (t : Nat) (p : Nat → Bool) (l : List Nat) : Option Nat :=
  (l.filter (fun x => t ≤ x && p x)).foldl (fun m x => match m with | none => some x | some y => some (min x y)) none
/-- R31, R109, R176: the first cycle from t in which a counter is seen to have reached v, as far as its additions are known. -/
def waitCycle (c : Ctr) (v : W32) (t : Nat) : Option Nat :=
  if reached (seenAt c t) v then some t
  else firstFrom t (fun x => reached (seenAt c x) v) (c.adds.map (fun a => a.1 + 3))

/-! ### Registers of a core -/

/-- R163: a register at the start of cycle t: the value before the first of the SETs of cycle t or later, listed latest first. -/
def valAt {α : Type} (now : α) : List (Nat × α) → Nat → α
  | [], _ => now
  | (c, v) :: r, t => if t ≤ c then valAt v r t else now
/-- R163: SDn as read at cycle t. -/
def sdAt (c : Core) (n t : Nat) : W64 := valAt (smGet 0 c.sd n) (smGet [] c.sdOld n) t
/-- R163: ANn as read at cycle t. -/
def anAt (c : Core) (n t : Nat) : Int := (valAt (smGet 0 c.an n) (smGet [] c.anOld n) t).toInt
/-- Address register An of a stream. -/
def aReg (s : State) (i : Iss) (n : Nat) : Nat := (smGet 0 (getStrm s i.core i.strm).a n).toNat
/-- Parameter register Pn of a stream. -/
def pReg (s : State) (i : Iss) (n : Nat) : W32 := smGet 0 (getStrm s i.core i.strm).p n

/-! ### Local operands -/

/-- R169, R130: the check of a local operand of `len` bytes aligned to `al`. -/
def localFault (s : State) (i : Iss) (a len al t : Nat) : Option Flt :=
  if a ≥ 2 ^ 23 || !localOk s.build a len then
    some ⟨.outOfPartition, scratchDetail i.core (a % 2 ^ 23) 0 0 (strmCode i.strm), t⟩
  else if a % al != 0 then some ⟨.align, scratchDetail i.core a 0 0 (strmCode i.strm), t⟩
  else none

/-- R187, R137: the expected tag of source operand n. -/
def expTag (x : Ext) (n : Nat) : Option Nat :=
  match x.chk with
  | some c => if c.en.getLsbD n then some ((c.tag >>> (4 * n)).toNat % 16) else none
  | none => none

end Sys2Proof.Machine
end

