-- ==== Sys2Proof/Machine/Flags.lean ====
section
/-!
DEFINITION. Flags.lean: the sticky flags, values and counts that the arithmetic keeps: Long Accumulator entries (R53 to R57), drains
(R58 to R61), precision counts and modes (R94 to R96), anchor state records (R89 to R93) and wide-sum registers (R65, R66).
-/

namespace Sys2Proof.Machine

/-! ### Precision counts (Table 3.9) -/

/-- No counts. -/
def zeroCounts : PCounts := ⟨0, 0, 0, 0, 0, 0, 0⟩

/-- The sum of two sets of counts. -/
def addCounts (a b : PCounts) : PCounts :=
  ⟨a.clamp + b.clamp, a.winsat + b.winsat, a.outsat + b.outsat, a.nonfin + b.nonfin, a.qclip + b.qclip,
   a.qnonfin + b.qnonfin, a.underuse + b.underuse⟩

/-- R94, R95: a faulting count of the precision mode is nonzero. -/
def countsFault (mode : Nat) (c : PCounts) : Bool :=
  match mode with
  | 1 => c.clamp != 0 || c.winsat != 0
  | 2 => c.clamp != 0 || c.winsat != 0 || c.outsat != 0 || c.qclip != 0
  | _ => false

/-- R61: add to the counts of the Segment that runs on a core, in cycle t. -/
def countSeg (s : State) (core t : Nat) (c : PCounts) : State :=
  if c == zeroCounts then s else modSeg s (partOf s core) (fun g => { g with later := g.later ++ [(t, c)] })

/-- The counts of a Segment as they stand after cycle t. -/
def countsAt (g : Seg) (t : Nat) : PCounts := (g.later.filter (fun x => x.1 ≤ t)).foldl (fun a x => addCounts a x.2) g.cnt

/-- All counts of a Segment. -/
def countsAll (g : Seg) : PCounts := g.later.foldl (fun a x => addCounts a x.2) g.cnt

/-- The counts of the Beat that has ended join those before it. -/
def foldCounts (g : Seg) : Seg := { g with cnt := countsAll g, later := [], ends := [] }

/-- R95: a faulting count of the Segment on a core is nonzero after cycle t. -/
def precisionFault (s : State) (core t : Nat) : Option Flt :=
  match (getPart s (partOf s core)).seg with
  | some g => if countsFault g.prec (countsAt g t) then some ⟨.precision, 0, t⟩ else none
  | none => none

/-- R95: of the ends before cycle t, the first after which a faulting count is nonzero. -/
def earlierEnd (g : Seg) (t : Nat) : Option (Nat × Loc) :=
  (g.ends.filter (fun e => e.1 < t && countsFault g.prec (countsAt g e.1))).foldl
    (fun m e => match m with | some x => if e.1 < x.1 then some e else m | none => some e) none

/-- R95: the DRAIN, SDRAIN or VQUANT at `l` ends in cycle t. The fault is raised at the first end after which a faulting count of the Segment is nonzero, be it
the end of an instruction that has issued earlier. -/
def endCheck (s : State) (l : Loc) (t : Nat) : State × Option Flt :=
  let p := partOf s l.iss.core
  let s1 := modSeg s p (fun g => { g with ends := (t, l) :: g.ends })
  match ((getPart s p).seg).bind (fun g => earlierEnd g t) with
  | some e => (raiseLoc s1 e.2 ⟨.precision, 0, e.1⟩, none)
  | none => (s1, precisionFault s l.iss.core t)

/-! ### Long Accumulator entries -/

/-- 2^95 − 1 and −2^95, the limits of the window (R55). -/
def winMax : Int := 2 ^ 95 - 1
/-- The least value of the window. -/
def winMin : Int := -(2 ^ 95)

/-- R54: floor(x × 2^n). -/
def floorShift (x n : Int) : Int := x * (2 ^ n.toNat : Nat) / (2 ^ (-n).toNat : Nat)

/-- R54 to R56, R52: one term added to one accumulator value under an Anchor; the number of clamps. -/
def addTerm (anchor : Int) (a : Acc × Nat) (t : Term) : Acc × Nat :=
  let v := floorShift t.x (t.e - anchor)
  let c := max winMin (min winMax v)
  (⟨a.1.v + BitVec.ofInt 128 c, a.1.n || t.n, a.1.p || t.p, a.1.m || t.m⟩, a.2 + (if c = v then 0 else 1))

/-- Terms in any order (R38): their sum. -/
def addTerms (anchor : Int) (a : Acc) (ts : List Term) : Acc × Nat := ts.foldl (addTerm anchor) (a, 0)

/-- Column c of an entry. -/
def colOf (e : EntV) (c : Nat) : Acc := e.cols.getD c zeroAcc

/-- R57: a spilled value added exactly. -/
def joinAcc (a b : Acc) : Acc := ⟨a.v + b.v, a.n || b.n, a.p || b.p, a.m || b.m⟩

/-- The value an entry drains (R58), its window saturations, and the integer value after saturation. -/
def drainValue (a : Acc) (anchor : Int) (oexp : Int) : DVal × Nat × Option Int :=
  if a.n || (a.p && a.m) then (.nan, 0, none)
  else if a.p then (.inf false, 0, none)
  else if a.m then (.inf true, 0, none)
  else
    let v := a.v.toInt
    let c := max winMin (min winMax v)
    let (n, d) := ratShift c 1 (anchor + oexp)
    (.fin n d, if c = v then 0 else 1, some c)

/-- R58 to R61, R91, R93: one element drained: its code, its counts, and the integer value that counts for a carried Anchor. -/
def drainElem (fmt : Nat) (rnd : Rnd) (oexp : Int) (a : Acc) (anchor : Int) : Nat × PCounts × Option Int :=
  let (v, sat, iv) := drainValue a anchor oexp
  let (code, out) := drainRound fmt rnd v
  let under := match iv with
    | some x => x != 0 && decide (x.natAbs < 2 ^ 32)
    | none => false
  (code, { zeroCounts with winsat := BitVec.ofNat 64 sat, outsat := if out then 1 else 0,
                           nonfin := if iv.isNone then 1 else 0, underuse := if under then 1 else 0 }, iv)

/-! ### Anchor state records (Table 3.7) -/

/-- An anchor state record; `resv`: a reserved bit is set (R90). -/
structure ARec where
  acur   : Int
  enext  : Int
  head   : Nat
  valid  : Bool
  evalid : Bool
  sat    : Bool
  step   : W32
  resv   : Bool
deriving DecidableEq, Repr

/-- Table 3.7: the fields of a record. -/
def parseARec (g : List Byte) : ARec :=
  let v := leNat g
  { acur := signed 16 (bitsOf v 0 16), enext := signed 16 (bitsOf v 16 16), head := bitsOf v 32 4,
    valid := bitsOf v 40 1 == 1, evalid := bitsOf v 41 1 == 1, sat := bitsOf v 42 1 == 1,
    step := BitVec.ofNat 32 (bitsOf v 64 32),
    resv := bitsOf v 36 4 != 0 || bitsOf v 43 5 != 0 || bitsOf v 48 16 != 0 || bitsOf v 96 32 != 0 }

/-- Table 3.7: the bytes of a record. -/
def packARec (r : ARec) : List Byte :=
  natLe 16 (unsign 16 r.acur + unsign 16 r.enext * 2 ^ 16 + r.head * 2 ^ 32 + (if r.valid then 2 ^ 40 else 0)
    + (if r.evalid then 2 ^ 41 else 0) + (if r.sat then 2 ^ 42 else 0) + r.step.toNat * 2 ^ 64)

/-- The signed 16-bit clamp of R91 and R92. -/
def clamp16 (x : Int) : Int := max (-32768) (min 32767 x)

/-- R91: the effect on a record of the values drained under Anchor `anchor`; `sat` says that the drain counted CLAMP or WINSAT. -/
def noteDrained (r : ARec) (vals : List (Int × Int)) (sat : Bool) : ARec :=
  let es := (vals.filter (fun v => v.1 != 0)).map (fun v => (Nat.log2 v.1.natAbs : Int) + v.2)
  let r := if sat then { r with sat := true } else r
  match es with
  | [] => r
  | e :: rest =>
    let m := rest.foldl max e
    { r with enext := clamp16 (if r.evalid then max m r.enext else m), evalid := true }

/-- R92: close_record. -/
def closeRec (r : ARec) : ARec :=
  { r with acur := if r.evalid then clamp16 (r.enext + r.head - 94) else r.acur, valid := r.valid || r.evalid,
           evalid := false, sat := false, step := r.step + 1 }

/-! ### Wide-sum registers -/

/-- R65: one FP32 element added to a wide-sum register. -/
def wsAdd (w : WSum) (x : Nat) : WSum :=
  match decFP fp32 x with
  | .nan => { w with n := true, terms := w.terms + 1 }
  | .inf neg => { w with p := w.p || !neg, m := w.m || neg, terms := w.terms + 1 }
  | .fin q f => { w with v := w.v + BitVec.ofInt 320 (q * (2 ^ (f + 149).toNat : Nat)), terms := w.terms + 1 }

/-- R66: a wide-sum register read as FP32. -/
def wsRead (w : WSum) : Nat :=
  if w.n || (w.p && w.m) then qnan
  else if w.p then inf32 false
  else if w.m then inf32 true
  else rneDy false w.v.toInt (-149)

/-- Table 8.12: the 64 bytes of a saved register. -/
def wsSave (w : WSum) : List Byte :=
  natLe 40 w.v.toNat ++ natLe 8 ((if w.n then 1 else 0) + (if w.p then 2 else 0) + (if w.m then 4 else 0))
    ++ natLe 16 (w.terms % 2 ^ 43)

/-- Table 8.12: the fields of a saved register. -/
def wsFields (b : List Byte) : WSum :=
  let v := leNat b
  let fl := bitsOf v 320 3
  ⟨BitVec.ofNat 320 v, fl % 2 == 1, fl / 2 % 2 == 1, fl / 4 % 2 == 1, bitsOf v 384 128, 0⟩

/-- Table 8.12: a saved register read back; none when a reserved bit is set or the count exceeds 2^42 (R210). -/
def wsParse (b : List Byte) : Option WSum :=
  if bitsOf (leNat b) 320 64 ≥ 8 || (wsFields b).terms > 2 ^ 42 then none else some (wsFields b)

/-- R66, R210: a saved register added exactly. -/
def wsMerge (a b : WSum) : WSum :=
  { a with v := a.v + b.v, n := a.n || b.n, p := a.p || b.p, m := a.m || b.m, terms := a.terms + b.terms }

end Sys2Proof.Machine
end

