-- ==== Sys2Proof/Machine/Extents.lean ====
section
/-!
DEFINITION. Extents.lean: stack memory under its keys (R289, R304), the Extent Table with its staging slots, flips and releases (R293
to R301), and the commands EXT_STAGE_CMD, EXT_FLIP, EXT_FLIP_EFFECT and RETAINED_RELEASE.
-/

namespace Sys2Proof.Machine

/-! ### Stack memory (R289, R304) -/

/-- Pseudo-channels of the build. -/
def stackP (b : Build) : Nat := b.nstack * 64
/-- Granules of stack memory. -/
def stackGrans (b : Build) : Nat := b.nstack * b.stkGran

/-- The 32 bytes of a key, most significant first. -/
def keyBytes (k : BitVec 256) : List Byte := natBe 32 k.toNat

/-- K1 and K2 of a storage key (R303). K2 is drawn again while it equals K1 (R307). -/
def storageKey (k : Nat) : List Byte × List Byte :=
  let k1 := Config.drawnKey k 0
  (keyBytes k1, keyBytes (k1 + 1 + BitVec.ofNat 256 ((Config.drawnKey k 1).toNat % (2 ^ 256 - 1))))

/-- R304: the cipher text that a Granule holds: its plaintext sealed under its key, or what an unwritten Granule holds. -/
def stkCipher (s : State) (g : Nat) : List Byte :=
  let k := smGet 0 s.stk.sealed g
  if k == 0 then (List.range 32).map (Config.stackByte g)
  else xtsEnc (storageKey k).1 (storageKey k).2 g ((List.range 32).map (fun i => smGet 0 s.stk.mem (32 * g + i)))

/-- The byte at a stack byte address as key `k` opens it (R304). -/
def stkByte (s : State) (k a : Nat) : Byte :=
  if k != 0 && smGet 0 s.stk.sealed (a / 32) == k then smGet 0 s.stk.mem a
  else (xtsDec (storageKey k).1 (storageKey k).2 (a / 32) (stkCipher s (a / 32))).getD (a % 32) 0

/-- Bytes from a stack byte address as a key opens them. -/
def stkRead (s : State) (k a : Nat) : Nat → List Byte
  | 0 => []
  | n + 1 => stkByte s k a :: stkRead s k (a + 1) n

/-- R291: how a read of a stack Granule is found: as the command says, or by the error the stored Granule has. -/
def foundErr (s : State) (g : Nat) (e : SymErr) : SymErr := if e.n == 0 then smGet noErr s.stk.errs g else e

/-- The Granules of bytes [a, a + len) of the stacks. -/
def stkSpan (a len : Nat) : List Nat := (List.range ((a + len + 31) / 32 - a / 32)).map (a / 32 + ·)

/-- The bytes of a Granule as delivered (R291): beyond three symbols in error they are a free value. -/
def stkGranule (s : State) (key g : Nat) (e : SymErr) : List Byte :=
  if e.n ≥ 4 then (List.range 32).map (fun i => Config.stackBad g i) else stkRead s key (32 * g) 32

/-- Bytes [a, a + len) of the stacks as a key opens them, each Granule as GC-288 finds it (R291). -/
def stkBytes (s : State) (key a len : Nat) : List Byte :=
  (((stkSpan a len).flatMap (fun g => stkGranule s key g (smGet noErr s.stk.errs g))).drop (a % 32)).take len

/-- DETAIL of format STACK (Table 17.5). -/
def stackDetail (g : Nat) (e : SymErr) (scrub : Bool) : Nat :=
  g + e.sym % 64 * 2 ^ 35 + (if scrub then 2 ^ 41 else 0) + e.mag.toNat * 2 ^ 42

/-- R291: the records of a read of bytes [a, a + len) of the stacks: STACK_CE for each corrected Granule, noted by `note`, and the STACK_UE of the
first Granule that is not correctable. -/
def stkCheck (raise : State → Flt → State) (a len t : Nat) (s : State) : State × Option Flt :=
  let err (g : Nat) : SymErr := smGet noErr s.stk.errs g
  let s1 := ((stkSpan a len).filter (fun g => (err g).n == 1)).foldl (fun s1 g => raise s1 ⟨.stackCe, stackDetail g (err g) false, t⟩) s
  (s1, ((stkSpan a len).find? (fun g => (err g).n == 2 || (err g).n == 3)).map (fun g => ⟨.stackUe, stackDetail g (err g) false, t⟩))

/-- Seal the Granules from `g` on under a key. -/
def sealFrom (k g : Nat) : Nat → SMap Nat → SMap Nat
  | 0, m => m
  | n + 1, m => sealFrom k (g + 1) n (smSet 0 m g k)

/-- Granules from `g` on that have no symbol in error any more. -/
def cleanFrom (g : Nat) : Nat → SMap SymErr → SMap SymErr
  | 0, m => m
  | n + 1, m => cleanFrom (g + 1) n (smSet noErr m g noErr)

/-- Whole Granules written from a Granule-aligned byte address and sealed under a key, with fresh check symbols (R291). -/
def stkWrite (s : State) (k a : Nat) (bs : List Byte) : State :=
  { s with stk := { s.stk with mem := memWrite s.stk.mem a bs, sealed := sealFrom k (a / 32) (bs.length / 32) s.stk.sealed,
                               errs := cleanFrom (a / 32) (bs.length / 32) s.stk.errs } }

/-! ### Entries and lookups (R293 to R295, R301) -/

/-- An invalid entry of generation 0. -/
def emptyExt : ExtEnt := ⟨false, 0, 0, 0, 0, 0, false, false, false, 0, 0, false, 0, false⟩

/-- Table 12.2: an entry from its 128 bits; VEPOCH, RHELD and RSLOT are set by the flip (Table 12.6). -/
def parseExt (v : Nat) : ExtEnt :=
  { valid := bitsOf v 0 1 == 1, part := bitsOf v 1 4, oepoch := BitVec.ofNat 12 (bitsOf v 5 12),
    gen := BitVec.ofNat 13 (bitsOf v 17 13), base := BitVec.ofNat 24 (bitsOf v 30 24), len := BitVec.ofNat 20 (bitsOf v 54 20),
    packed := bitsOf v 74 1 == 1, ro := bitsOf v 75 1 == 1, dgv := bitsOf v 76 1 == 1, keyslot := bitsOf v 77 5, vepoch := 0,
    rheld := false, rslot := 0, resv := bitsOf v 115 13 != 0 }

/-- The index of a handle (R293). -/
def hIdx (h : W32) : Nat := h.toNat % 2 ^ 19
/-- The generation of a handle (R293). -/
def hGen (h : W32) : BitVec 13 := BitVec.ofNat 13 (h.toNat / 2 ^ 19)
/-- A handle from index and generation. -/
def mkHandle (idx : Nat) (gen : BitVec 13) : W32 := BitVec.ofNat 32 (idx + gen.toNat * 2 ^ 19)

/-- The active entry of an index. -/
def extAt (s : State) (idx : Nat) : ExtEnt := smGet emptyExt s.ext.tab idx

/-- R295: a − b is negative in signed 16-bit arithmetic. -/
def before16 (a b : BitVec 16) : Bool := (a - b).toInt < 0

/-- R295: the version of an entry that a Segment of epoch `sep` sees. -/
def extSeen (s : State) (idx : Nat) (sep : BitVec 16) : ExtEnt :=
  let e := extAt s idx
  if e.rheld && before16 sep e.vepoch then
    match smGet none s.ext.stg e.rslot with
    | some g => g.ent
    | none => e
  else e

/-- The size of an Extent in bytes. -/
def ExtEnt.size (e : ExtEnt) : Nat := (e.len.toNat + 1) * 65536
/-- The stack byte address of an Extent. -/
def ExtEnt.addr (e : ExtEnt) : Nat := e.base.toNat * 65536

/-- The outcome of a lookup. -/
inductive Lk
  | ok (e : ExtEnt) | bad (c : FCode)
deriving DecidableEq, Repr

/-- R295, R301: lookup(h, part, sep, off, len, write). A table Granule with two or three symbols in error faults every lookup. -/
def lookup (s : State) (h : W32) (part : Nat) (sep : BitVec 16) (off len : Nat) (write : Bool) : Lk :=
  let idx := hIdx h
  let n := (smGet noErr s.ext.errs (idx / 2)).n
  let e := extSeen s idx sep
  if n == 2 || n == 3 then .bad .extUe
  else if idx == 0 || !e.valid || e.gen != hGen h then .bad .extStale
  else if e.keyslot != e.part || e.part != part || e.oepoch != (getPart s part).oepoch then .bad .extPart
  else if off + len > e.size then .bad .extRange
  else if write && e.ro then .bad .extRo
  else .ok e

/-- R301: a corrected table Granule raises EXT_CE at a lookup of its entries. -/
def lookupCe (s : State) (h : W32) (t : Nat) : State :=
  if (smGet noErr s.ext.errs (hIdx h / 2)).n == 1 then note s ⟨.extCe, hIdx h / 2 * 2 ^ 16, t⟩ none else s

/-- DETAIL of format EXTENT (Table 17.5). -/
def extDetail (h : W32) (off : Nat) : Nat := h.toNat + off % 2 ^ 36 * 2 ^ 32

/-- The storage key of a partition's Extents (R303, R304). -/
def partKey (s : State) (p : Nat) : Nat := (getPart s p).key

/-! ### Staging, flips and releases (R298 to R300) -/

/-- The lowest free staging slot below 65,536. -/
def freeStg : Nat → Nat → SMap (Option Stg) → Option Nat
  | 0, _, _ => none
  | fuel + 1, k, m => if (smGet none m k).isNone then (if k < 65536 then some k else none) else freeStg fuel (k + 1) m

/-- R298: the MC places an entry in a free staging slot and in its copy of the table (R301); none when no slot is free. -/
def stageEnt (s : State) (idx : Nat) (e : ExtEnt) : Option State :=
  (freeStg (s.ext.stg.length + 1) 0 s.ext.stg).map (fun k =>
    { s with ext := { s.ext with stg := smSet none s.ext.stg k (some ⟨idx, e, false⟩), copy := smSet emptyExt s.ext.copy idx e } })

/-- R298, R301: the MC stages an entry, flipping for it where `flip`; while no slot is free it holds the work. -/
def stageOrWait (s : State) (idx : Nat) (e : ExtEnt) (flip : Bool) : State :=
  match stageEnt s idx e with
  | some s => { s with ext := { s.ext with flip := s.ext.flip || flip } }
  | none => { s with ext := { s.ext with wait := s.ext.wait ++ [(idx, e, flip)] } }

/-- R298: the MC places the entries it holds, in order, as slots become free. -/
def placeWaiting (s : State) : State :=
  s.ext.wait.foldl (fun s w => stageOrWait s w.1 w.2.1 w.2.2) { s with ext := { s.ext with wait := [] } }

/-- The entry an index will hold after its staged entries have moved in: the latest staged one, or the active one. -/
def extFuture (s : State) (idx : Nat) : ExtEnt :=
  match (s.ext.stg.filter (fun x => match x.2 with | some g => g.idx == idx && !g.retained | none => false)).getLast? with
  | some (_, some g) => g.ent
  | _ => extAt s idx

/-- R301: one entry of a table Granule has been rewritten at a flip. A Granule with one symbol in error has been read corrected and forms new check
symbols; one with more is whole again, and the MC says so, once both its entries have been rewritten (index 0 holds none). -/
def rewritten (s : State) (idx : Nat) : State :=
  let k := idx / 2
  let sib := if idx % 2 == 0 then idx + 1 else idx - 1
  let clear (s : State) : State := { s with ext := { s.ext with errs := smSet noErr s.ext.errs k noErr,
                                                                half := s.ext.half.filter (fun i => i / 2 != k) } }
  if (smGet noErr s.ext.errs k).n < 2 then clear s
  else if sib == 0 || s.ext.half.contains sib then note (clear s) ⟨.extRestored, k * 2 ^ 16, s.beat.start⟩ none
  else { s with ext := { s.ext with half := idx :: s.ext.half } }

/-- R299: one staged entry moves in, unless its index still has RHELD. -/
def moveIn (s : State) (k : Nat) : State :=
  match smGet none s.ext.stg k with
  | some g =>
    let old := extAt s g.idx
    if g.retained || old.rheld then s
    else
      rewritten { s with ext := { s.ext with
        tab := smSet emptyExt s.ext.tab g.idx { g.ent with vepoch := s.ext.epoch, rheld := true, rslot := k },
        stg := smSet none s.ext.stg k (some ⟨g.idx, old, true⟩) } } g.idx
  | none => s

/-- The keys of a map. -/
def keysOf {α : Type} (m : SMap α) : List Nat := m.map Prod.fst

/-- R299: the flip. -/
def flipTable (s : State) : State :=
  s.ext.due.foldl moveIn { s with ext := { s.ext with epoch := s.ext.epoch + 1, due := [] } }

/-- The epochs latched by running Segments. -/
def runEpochs (s : State) : List (BitVec 16) := s.parts.filterMap (fun p => p.2.seg.map (fun g => g.epoch))

/-- R300: the oldest epoch latched by a running Segment, or the current one. -/
def oldestEpoch (s : State) : BitVec 16 :=
  (runEpochs s).foldl (fun m e => if before16 e m then e else m) s.ext.epoch

/-- R300: release the retained version of an index whose active entry is not after the oldest epoch. -/
def releaseAt (s : State) (idx : Nat) : State :=
  let e := extAt s idx
  if e.rheld && !before16 (oldestEpoch s) e.vepoch then
    { s with ext := { s.ext with tab := smSet emptyExt s.ext.tab idx { e with rheld := false, rslot := 0 },
                                 stg := smSet none s.ext.stg e.rslot none } }
  else s

/-! ### The boundary -/

/-- The model stands at (b, 0): nothing has happened in this Beat yet (R9). -/
def atEdge (s : State) : Bool := s.now ≤ s.beat.start

/-- Who may write the MC's registers (Table 18.2). -/
def isMc : Func → Bool
  | .mc => true
  | _ => false

/-! ### Commands -/

/-- EXT_STAGE_CMD (R298, R313): the running MC stages EXT_STAGE0 to 3 under a target index. Writes of another function, or
without all byte enables (R413), are ignored. -/
def execExtStageCmd (f : Func) (x : WrVal) (s : State) : Host.Outcome State Fault Refusal :=
  let w (k : Nat) : Nat := (smGet 0 s.ext.latch k).toNat * 2 ^ (32 * k)
  let e := parseExt (w 0 + w 1 + w 2 + w 3)
  if !isMc f || !mcUp s || !s.cfgDone || !fullWr x then .next s else .next (stageOrWait s (hIdx x.v) e false)

/-- EXT_FLIP (R299, R313): a write of 1 by the running MC requests the flip of the next boundary. -/
def execExtFlip (f : Func) (x : WrVal) (s : State) : Host.Outcome State Fault Refusal :=
  if isMc f && mcUp s && fullWr x && x.v.getLsbD 0 then .next { s with ext := { s.ext with flip := true } } else .next s

end Sys2Proof.Machine
end

