-- ==== Sys2Proof/Machine/Arrays.lean ====
section
/-!
DEFINITION. Arrays.lean: the accumulator entries of Wafers and Strudel lanes as passes write them and drains read them (R53 to R61,
R91, R92, R108, R112), and the reads an operand makes at issue (R67). The Strudel's lanes are Wafer 32.
-/

namespace Sys2Proof.Machine

/-- The Strudel's place among the entry banks of a core. -/
def lanesBank : Nat := 32

/-- Entry index e of bank w of a core. -/
def getEntry (s : State) (core w e : Nat) : Entry := smGet staleEntry (getCore s core).ent (64 * w + e)
/-- Replace an entry index. -/
def putEntry (s : State) (core w e : Nat) (v : Entry) : State :=
  modCore s core (fun c => { c with ent := smSet staleEntry c.ent (64 * w + e) v })

/-- R53: the contents a clearing write starts from. -/
def clearedEnt (anchor : Int) : EntV := ⟨true, anchor, 0, [], List.replicate 32 zeroAcc⟩

/-- R53: the contents after a drain with clear: the Anchor stays, the entry stays live. -/
def drainedEnt (v : EntV) : EntV := { v with terms := 0, clp := [], cols := List.replicate 32 zeroAcc }

/-- R61: the clamps of column c that no drain has counted. -/
def clampsOf (v : EntV) (c : Nat) : Nat := v.clp.getD c 0

/-- R61: no clamp is left to count. -/
def normClamps (l : List Nat) : List Nat := if l.all (· == 0) then [] else l

/-- R54 to R56: the terms of one row added to an entry index; `n` terms are counted. -/
def addRow (v : EntV) (n : Nat) (cols : List (List Term)) : EntV :=
  let rs := (List.range 32).map (fun c => addTerms v.anchor (colOf v c) (cols.getD c []))
  { v with terms := v.terms + n, clp := normClamps (rs.zipIdx.map (fun r => clampsOf v r.2 + r.1.2)), cols := rs.map Prod.fst }

/-- R61: a drain has counted the clamps of the first n columns. -/
def countedEnt (n : Nat) (v : EntV) : EntV := { v with clp := normClamps (List.replicate n 0 ++ v.clp.drop n) }

/-- R56: the term limit. -/
def termLimit : Nat := 2 ^ 32

/-- R57: a spilled index added exactly to a live one. The clamps it had where it was spilled are counted nowhere (log 61). -/
def joinEnt (a b : EntV) : EntV :=
  { a with terms := a.terms + b.terms, cols := (List.range 32).map (fun c => joinAcc (colOf a c) (colOf b c)) }

/-- What an entry index holds after one thing has happened to it. -/
def applyOp (v : EntV) : EntOp → EntV
  | .add clear n cols => addRow (match clear with | some a => clearedEnt a | none => v) n cols
  | .load w => w
  | .join w => joinEnt v w
  | .drained => drainedEnt v
  | .counted n => countedEnt n v

/-- The contents after everything listed. -/
def entNow (e : Entry) : EntV := e.evs.foldl (fun v x => applyOp v x.2) e.base

/-- The contents at the start of cycle t. -/
def entAt (e : Entry) (t : Nat) : EntV := (e.evs.filter (fun x => x.1 < t)).foldl (fun v x => applyOp v x.2) e.base

/-- R108: the entry is live as an instruction that issues in cycle t finds it. -/
def liveAt (s : State) (core w e t : Nat) : Bool := (entAt (getEntry s core w e) t).live

/-- R112: a drain's clear comes before the writes of its cycle, everything else after what its cycle already has. -/
def isDrained : EntOp → Bool
  | .drained => true
  | .counted _ => true
  | _ => false

/-- List what happens to an entry in its place by cycle. -/
def insEv (x : Nat × EntOp) : List (Nat × EntOp) → List (Nat × EntOp)
  | [] => [x]
  | y :: ys => if x.1 < y.1 || (x.1 == y.1 && isDrained x.2) then x :: y :: ys else y :: insEv x ys

/-- Something happens to an entry index in cycle t. -/
def writeEntry (s : State) (core w e t : Nat) (o : EntOp) : State :=
  let x := getEntry s core w e
  putEntry s core w e { x with evs := insEv (t, o) x.evs }

/-- R112: a write in cycle t meets an entry that a drain has armed and reads later. -/
def armedRace (s : State) (core w e t : Nat) : Option Flt :=
  if (getEntry s core w e).reads.any (fun r => r.1 ≤ t && t < r.2) then some ⟨.drainRace, 0, t⟩ else none

/-- A pass row of stream k written into entry e of bank w in cycle t (R29, R53, R104, R112): the entry, the race. -/
def passWrite (s : State) (core : Nat) (k : Strm) (w e t : Nat) (clear : Option Int) (n : Nat) (cols : List (List Term)) :
    State × Option Flt :=
  if late s k t then (s, some ⟨.segOverrun, 0, t⟩)
  else
    (writeEntry s core w e t (.add clear n cols), armedRace s core w e t)

/-- The result of draining one entry index: codes, counts, integer values with their Anchor, and whether CLAMP or WINSAT counted. -/
structure Drained where
  codes : List Nat
  cnt   : PCounts
  vals  : List (Int × Int)
  sat   : Bool
deriving DecidableEq, Repr

/-- R58 to R61, R91, R93: the first `n` columns of an entry index drained. The drain counts CLAMP for the terms of its columns that were clamped since the
entry's last clear or reload and that no drain has counted (DESIGN CHOICE, log 61). -/
def drainCols (v : EntV) (n fmt : Nat) (oexp : Int) (rnd : Nat → Rnd) : Drained :=
  let rs := (List.range n).map (fun c => drainElem fmt (rnd c) oexp (colOf v c) v.anchor)
  let clamps := ((List.range n).map (clampsOf v)).foldl (· + ·) 0
  let cnt := rs.foldl (fun a r => addCounts a r.2.1) { zeroCounts with clamp := BitVec.ofNat 64 clamps }
  { codes := rs.map (fun r => r.1), cnt := cnt, vals := rs.filterMap (fun r => r.2.2.map (fun x => (x, v.anchor))),
    sat := cnt.winsat != 0 || clamps != 0 }

/-- The bytes of element codes of a format of whole bytes. -/
def codeBytes (fmt : Nat) (codes : List Nat) : List Byte := (codes.map (natLe (fmtBits fmt / 8))).flatten

/-- What the drains of one instruction gather. -/
structure DrainAcc where
  vals : List (Int × Int)
  sat  : Bool
deriving DecidableEq, Repr

/-- Read an entry index in cycle rd, clear it there where `clear` says so, and write its columns at an address in cycle wr (R29, R112). -/
def drainOne (i : Iss) (w e n fmt : Nat) (oexp : Int) (rnd : Nat → Rnd) (clear : Bool) (addr rd wr : Nat)
    (a : (State × Option Flt) × DrainAcc) : (State × Option Flt) × DrainAcc :=
  let s := a.1.1
  if late s i.strm rd then ((s, orFlt a.1.2 (some ⟨.segOverrun, 0, rd⟩)), a.2)
  else
  let v := entAt (getEntry s i.core w e) rd
  let d := drainCols v n fmt oexp rnd
  let s := if clear then writeEntry s i.core w e rd .drained
    else if d.cnt.clamp != 0 then writeEntry s i.core w e rd (.counted n) else s
  let s := countSeg s i.core rd d.cnt
  let (s, f) := writeBytes s i.core i.strm addr (codeBytes fmt d.codes) wr
  ((s, orFlt a.1.2 f), ⟨a.2.vals ++ d.vals, a.2.sat || d.sat⟩)

/-- R112: arm an entry in cycle t that a drain reads in cycle rd, or find that a pass, reload or EWM writes it between the two. The clear of
another drain is no such write (log 61). -/
def armRead (core w e t rd : Nat) (r : State × Option Flt) : State × Option Flt :=
  let x := getEntry r.1 core w e
  let f := match x.evs.find? (fun v => t ≤ v.1 && v.1 < rd && !isDrained v.2) with
    | some v => some (⟨.drainRace, 0, v.1⟩ : Flt)
    | none => none
  (putEntry r.1 core w e { x with reads := (t, rd) :: x.reads }, orFlt r.2 f)

/-! ### Anchors (R53, R90 to R92) -/

/-- R169, R130: the address of an anchor record of 16 bytes, at the start of a Granule. -/
def recFault (s : State) (i : Iss) (a t : Nat) : Option Flt := localFault s i a 16 32 t

/-- The record read in cycle t. -/
def recAt (s : State) (core a t : Nat) : ARec := parseARec (readSpan s core a 16 t)

/-- R90: the record is read and checked in cycle t. -/
def openRec (s : State) (i : Iss) (carried : Bool) (a t : Nat) : State × Option Flt :=
  if !carried then (s, none)
  else match recFault s i a t with
    | some f => (s, some f)
    | none => match doReads i.core i.strm none (spanReads a 16 t) s with
      | (s, some f) => (s, some f)
      | (s, none) => (s, if (recAt s i.core a t).resv then some ⟨.anchorState, 0, t⟩ else none)

/-- R53, R90: the Anchor a pass works under. -/
def passAnchor (s : State) (i : Iss) (carried : Bool) (an a t : Nat) : Int :=
  if carried && (recAt s i.core a t).valid then (recAt s i.core a t).acur else anAt (getCore s i.core) an t

/-- R91, R92, R131, R136: the record after the drains of an instruction that end in cycle `done`. It is read, with the checks of every read, and
written in that cycle (DESIGN CHOICE, log 61: R91 gives none). -/
def updateRec (i : Iss) (carried close : Bool) (a done : Nat) (d : DrainAcc) (r : State × Option Flt) : State × Option Flt :=
  if !carried then r
  else match doReads i.core i.strm none (spanReads a 16 done) r.1 with
    | (s, some f) => (s, orFlt r.2 (some f))
    | (s, none) =>
      let x := noteDrained (recAt s i.core a done) d.vals d.sat
      let w := writeBytes s i.core i.strm a (packARec (if close then closeRec x else x)) done
      (w.1, orFlt r.2 w.2)

/-- R203: the three P registers of a stochastic drain: tensor identifier, index base, N_t. -/
def stochRegs (s : State) (i : Iss) (k : Nat) : Nat × Nat × Nat :=
  ((pReg s i k).toNat, (pReg s i ((k + 1) % 4)).toNat, (pReg s i ((k + 2) % 4)).toNat)

/-- R85 to R87: the rounding of the element at an index. -/
def drawRnd (stoch : Bool) (key : W64) (tid idx purpose : Nat) : Rnd :=
  if stoch then .sr (draw16 key tid (idx % 2 ^ 64) purpose) else .rne

/-! ### Reads of an operand at issue (R67, R69, R72, R74, R77, R78) -/

/-- A reader of a core's scratchpad at cycle t. -/
def reader (s : State) (core t : Nat) : Nat → Nat → List Byte := fun a n => readSpan s core a n t

/-- What a used descriptor names for channels [c0, c0 + chans) and K positions [k0, k1), as row reads in cycle t. -/
def descReads (d : QDesc) (rd : Nat → Nat → List Byte) (c0 chans k0 k1 t : Nat) : List RdReq :=
  let w := if d.sbf16 then 2 else 1
  let j0 := if d.group == 0 then 0 else k0 / d.group
  let groups := if d.group == 0 then 0 else (k1 + d.group - 1) / d.group - j0
  let os := (d.outliers rd).length
  (if d.cbsel then spanReads d.cbaddr 32 t else [])
    ++ (if d.zpmode == 2 then spanReads (d.zbase + 2 * c0) (2 * chans) t else [])
    ++ (if d.outl then spanReads d.oiaddr 160 t ++ spanReads (d.ovbase + 2 * c0 * os) (2 * chans * os) t else [])
    ++ (if groups == 0 then [] else
        (List.range chans).flatMap (fun c => spanReads (d.scaleAddr (c0 + c) j0) (groups * w) t))

/-- R67, R41, R72, R74, R77, R79: open a descriptor at a local address for channels [c0, c0 + chans) and K positions [k0, k1) of depth k,
in a role that allows what `role` says. -/
def openDesc (i : Iss) (role : QDesc → Bool) (exp : Option Nat) (a c0 chans k0 k1 k t : Nat) (s : State) : (State × Option Flt) × QDesc :=
  let none' := parseDesc []
  match localFault s i a 32 32 t with
  | some f => ((s, some f), none')
  | none => match doReads i.core i.strm exp (spanReads a 32 t) s with
    | (s, some f) => ((s, some f), none')
    | (s, none) =>
      let d := parseDesc (readSpan s i.core a 32 t)
      let rd := reader s i.core t
      if !d.ok k || !role d then ((s, some ⟨.formatRole, 0, t⟩), d)
      else match doReadsBy i.core i.strm (sortReads (expecting exp (descReads d rd c0 chans k0 k1 t))) s with
        | (s, some f) => ((s, some f), d)
        | (s, none) => match d.fault rd c0 chans k with
          | some c => ((s, some ⟨c, 0, t⟩), d)
          | none => ((s, none), d)

/-- Terms counted for Grains [g0, g1) of a pairing of depth k (R56, R62, R76, R78), the outlier K positions being `os`. -/
def termCount (wide zp : Bool) (os : List Nat) (g0 g1 k : Nat) : Nat :=
  (if wide then min k (32 * g1) - min k (32 * g0) else (if zp then 2 else 1) * (g1 - g0))
    + (os.filter (fun p => 32 * g0 ≤ p && p < 32 * g1)).length

end Sys2Proof.Machine
end

