-- ==== Sys2Proof/Machine/Passes.lean ====
section
/-!
DEFINITION. Passes.lean: the units of the arrays, the held and shadow registers of their cells, the fold of an MMA into passes, what one
pass does when it begins, and the activity of the Tortes (R97 to R107, R110, R112, R113, R115, R116, R201 to R203).
-/

namespace Sys2Proof.Machine

/-! ### The active count of a core (R116) -/

/-- The number of Tortes active in cycle t. -/
def activeCount (acts : List Act) (t : Nat) : Nat :=
  ((acts.filter (fun a => a.start ≤ t && t < a.stop)).map Act.torte).eraseDups.length

/-- Insert a number into an ascending list. -/
def insNat (n : Nat) : List Nat → List Nat
  | [] => [n]
  | x :: xs => if n ≤ x then n :: x :: xs else x :: insNat n xs

/-- The cycles in [a, b) at which an activity starts or stops, ascending. -/
def changeCycles (acts : List Act) (a b : Nat) : List Nat :=
  ((acts.flatMap (fun x => [x.start, x.stop])).filter (fun c => a ≤ c && c < b)).eraseDups.foldr insNat []

/-- R116: go through the changes; the last change that keeps the rule, and the first cycle that breaks it. -/
def rampScan (acts : List Act) : Option Nat → List Nat → Option Nat × Option Nat
  | last, [] => (last, none)
  | last, c :: cs =>
    let a := if c == 0 then 0 else activeCount acts (c - 1)
    let b := activeCount acts c
    if a == b then rampScan acts last cs
    else if (a == b + 1 || b == a + 1) && (match last with | some l => l + 32 ≤ c | none => true) then
      rampScan acts (some c) cs
    else (last, some c)

/-- R116: check the changes of a core before cycle t that are not checked yet. -/
def rampCheck (s : State) (core t : Nat) : State × Option Nat :=
  let c := getCore s core
  let (last, bad) := rampScan c.acts c.rampLast (changeCycles c.acts c.rampAt t)
  if changeCycles c.acts c.rampAt t == [] then (s, none)
  else (setCore s core { c with rampAt := max c.rampAt t, rampLast := last }, bad)

/-- R116, R394: the ramp check of every change before cycle t; RAMP_STEP carries the location of the activity whose start or end made
the change. -/
def rampGuard (s : State) (core t : Nat) : State :=
  let r := rampCheck s core t
  match r.2 with
  | none => r.1
  | some c => raiseSeg r.1 (partOf s core) ⟨.rampStep, 0, c⟩
      (((getCore s core).acts.find? (fun a => a.start == c || a.stop == c)).bind Act.loc)

/-! ### Units and shapes (Table 4.2, R99, R101) -/

/-- The units an instruction names. -/
def unitList (mode : AMode) (first n : Nat) : List Nat := match mode with
  | .tier => [0]
  | _ => (List.range n).map (first + ·)

/-- The Tortes of a unit. -/
def unitTortes (b : Build) (mode : AMode) (u : Nat) : List Nat := match mode with
  | .torte => [u]
  | .tier => List.range b.ntorte
  | .solo => [u / 4]

/-- The Wafers whose held and shadow registers a unit uses. -/
def unitWafers (b : Build) (mode : AMode) (u : Nat) : List Nat := match mode with
  | .torte => (List.range 4).map (4 * u + ·)
  | .tier => List.range (4 * b.ntorte)
  | .solo => [u]

/-- The Wafers whose entries a unit writes (Table 4.2): in Tier mode those of the last band. -/
def outWafers (b : Build) (mode : AMode) (u : Nat) : List Nat := match mode with
  | .tier => (List.range 4).map (4 * (b.ntorte - 1) + ·)
  | _ => unitWafers b mode u

/-- Panel width (Table 4.2). -/
def panelWidth : AMode → Nat
  | .solo => 32
  | _ => 128

/-- CORE_STAT of a Torte: 0 in service, 1 Solo-only, 2 out of service (R101). -/
def torteStat (s : State) (core t : Nat) : Nat := smGet 0 (getCore s core).tstat t

/-- R101: the Tortes can run the mode. -/
def modeOk (s : State) (core : Nat) (mode : AMode) (us : List Nat) : Bool :=
  let ts := us.flatMap (unitTortes s.build mode)
  ts.all (fun t => t < s.build.ntorte && (match mode with
    | .solo => torteStat s core t ≤ 1
    | _ => torteStat s core t == 0))

/-- R101: a pass broadcasts on a Torte in cycle t. -/
def busyAt (c : Core) (torte t : Nat) : Bool :=
  c.acts.any (fun a => a.torte == torte && a.kind == 0 && a.start ≤ t && t < a.stop)

/-- The Tortes in Solo mode in a cycle from t on, with those of `ts`. -/
def soloCount (c : Core) (ts : List Nat) (t : Nat) : Nat :=
  (ts ++ (c.acts.filter (fun a => a.solo && t < a.stop)).map Act.torte).eraseDups.length

/-- R115: an activity begins; a Meringue running on the Torte ends in the cycle before a pass, and before another Meringue (log 61). -/
def addAct (s : State) (core : Nat) (a : Act) : State :=
  modCore s core (fun c => { c with acts :=
    a :: (c.acts.map (fun x => if x.torte == a.torte && x.kind == 2 && a.kind != 1 && x.start ≤ a.start && a.start < x.stop
      then { x with stop := a.start, left := 0 } else x)) })

/-! ### Held and shadow registers (R97, R105, R106, R110, R201) -/

/-- The band of a Wafer (R105): only in Tier mode do bands differ. -/
def bandOf (mode : AMode) (w : Nat) : Nat := match mode with
  | .tier => w / 4
  | _ => 0

/-- The last band of a unit. -/
def lastBand (b : Build) (mode : AMode) : Nat := match mode with
  | .tier => b.ntorte - 1
  | _ => 0

/-- Change the held and shadow registers of a list of Wafers. -/
def setWafers (s : State) (core : Nat) (ws : List Nat) (f : Nat → Wafer → Wafer) : State :=
  let m := ws.foldl (fun m w => smMod emptyWafer m w (f w)) (getCore s core).waf
  modCore s core (fun c => { c with waf := m })

/-- R110: the physical row that carries a logical row under a row map value. -/
def physRow (u r : Nat) : Nat := if r < u then r else r + 1

/-- R97, R110: the cells of a column: by physical row the elements at that row of each Grain loaded, nothing in the row out of use. -/
def columnCells (u kg g0 : Nat) (r : OpRow) : List (List Dec) :=
  (List.range 33).map (fun q =>
    if q == u then [] else (List.range kg).map (fun g => r.el (32 * (g0 + g) + (if q < u then q else q - 1))))

/-- R105, R201: what a shadow load puts into the cells of one Wafer: `p0` the channel of its column 0, `g0` its first Grain. -/
def cellLoad (d : QDesc) (rq rd : Nat → Nat → List Byte) (base : Nat) (o : HoldOps) (issue u p0 g0 : Nat) : CellLoad :=
  let rows := (List.range 32).map (fun c =>
    if p0 + c < o.chans then loadGrains d rq rd base (32 * o.pitch) (p0 + c) o.k g0 (g0 + o.kg) else zeroRow d)
  { mode := o.mode, unit := o.unit, units := o.units, k := o.k, chans := o.chans, issue := issue, g0 := g0, kg := o.kg,
    fmt := d.fmt, wide := fmtWide d.fmt, zp := d.zpmode != 0, outl := d.outl, outIdx := d.outliers rq,
    zs := rows.map OpRow.z, scales := rows.map (fun r => (List.range o.kg).map (fun g => r.sc (g0 + g))),
    outs := rows.map (fun r => r.outs.filter (fun q => 32 * g0 ≤ q.1 && q.1 < 32 * (g0 + o.kg))),
    cells := rows.map (columnCells u o.kg g0) }

/-- The held operand of column c as it meets the streamed Grains from `g0` on: the elements of its cells in logical order (R110). -/
def heldRow (h : CellLoad) (u c g0 : Nat) : OpRow :=
  let z := h.zs.getD c 0
  let pad : Dec := .fin z (fmtWeight h.fmt)
  let col := h.cells.getD c []
  { wide := h.wide, fmt := h.fmt, z := z, zp := h.zp,
    els := List.replicate (32 * g0) pad ++ (List.range h.kg).flatMap (fun q =>
      (List.range 32).map (fun r => (col.getD (physRow u r) []).getD q pad)),
    scales := List.replicate g0 (.fin 1 0) ++ h.scales.getD c [],
    outs := (h.outs.getD c []).map (fun x => (x.1 + 32 * g0 - 32 * h.g0, x.2)) }

/-- The row map value of a Wafer of a core (R110). -/
def rowMapOf (s : State) (core w : Nat) : Nat := smGet 32 (getCore s core).rowmap w

/-- R106: a front reaches the cells of a Wafer at cycle t: the shadow becomes the held operand. `use` is what the MMA names (R201). -/
def frontAt (use : AMode × Nat × Nat × Nat × Nat) (t : Nat) (y : Wafer) : Wafer :=
  match y.shadow with
  | some h => ⟨some h, none, t, some use⟩
  | none => { y with used := some use }

/-- R107: the shadow that a front at cycle t meets is not complete. -/
def shadowLate (s : State) (core w t : Nat) : Bool :=
  match (smGet emptyWafer (getCore s core).waf w).shadow with
  | some h => decide (t < h.issue + transit s.build 0x02 + transit s.build 0x06)
  | none => false

/-! ### The fold (R102 to R104) -/

/-- R102: the figures of a tile. `four`: both operands are 4-bit formats; `wide`: either is BF16 or FP16. -/
def foldOf (b : Build) (mode : AMode) (sx hx k : Nat) (four wide : Bool) : Fold :=
  let bands := match mode with | .tier => b.ntorte | _ => 1
  let kg := if four then 2 else 1
  let kstep := 32 * kg * bands
  let pw := panelWidth mode
  { sx := sx, hx := hx, ng := (k + 31) / 32, kg := kg, kstep := kstep, np := (hx + pw - 1) / pw, ns := (sx + 63) / 64,
    nk := (k + kstep - 1) / kstep, bands := bands, cr := if wide then 4 else 1 }

/-- R104: cycles of a row: the streamed element or the outlier products of the chunk's K range. -/
def rowCycles (f : Fold) (outs : List Nat) (kc : Nat) : Nat :=
  let j := (outs.filter (fun k => kc * f.kstep ≤ k && k < (kc + 1) * f.kstep)).length
  max f.cr ((j + 3) / 4)

/-- Rows of streamed block sb (R102). -/
def blockRows (f : Fold) (sb : Nat) : Nat := min f.sx (64 * sb + 64) - 64 * sb

/-- The panel, block and chunk of each pass of the unit at place `ui` of `n`, in fold order (R102). -/
def unitFold (f : Fold) (n ui : Nat) : List (Nat × Nat × Nat) :=
  ((List.range f.np).filter (fun p => p % n == ui)).flatMap (fun p =>
    (List.range f.ns).flatMap (fun sb => (List.range f.nk).map (fun kc => (p, sb, kc))))

/-- R104: the passes of a unit from its first broadcast on. -/
def timePasses (f : Fold) (outs : List Nat) (u : Nat) : List (Nat × Nat × Nat) → Nat → List Pass
  | [], _ => []
  | (p, sb, kc) :: r, t =>
    let rows := blockRows f sb
    let c := rowCycles f outs kc
    ⟨u, p, sb, kc, rows, t, c, kc + 1 == f.nk⟩ :: timePasses f outs u r (t + max 33 (rows * c))

/-- Insert a pass after those that begin no later. -/
def insPass (x : Pass) : List Pass → List Pass
  | [] => [x]
  | y :: ys => if x.p < y.p then x :: y :: ys else y :: insPass x ys

/-- R102: every pass of an MMA, in the order in which they begin. -/
def foldPasses (f : Fold) (outs : List Nat) (us : List Nat) (p0 : Nat) : List Pass :=
  (us.zipIdx.flatMap (fun (u, ui) => timePasses f outs u (unitFold f us.length ui) p0)).foldl (fun l x => insPass x l) []

/-- The units of an MMA that run a pass, with their places: those whose first panel lies within the held extent. -/
def busyUnits (mode : AMode) (us : List Nat) (hx : Nat) : List (Nat × Nat) := us.zipIdx.filter (fun x => panelWidth mode * x.2 < hx)

/-- R104: the cycle in which row r of a pass is written to its entry. -/
def entryCycle (b : Build) (f : Fold) (c p r : Nat) : Nat :=
  p + r * c + (c - 1) + transit b 0x03 + transit b 0x04 + (f.bands - 1)

/-- The last entry write of a pass. -/
def passEnd (b : Build) (f : Fold) (x : Pass) : Nat := entryCycle b f x.c x.p (x.rows - 1)

/-- The last cycle of an MMA (R103, R104, R112): its last entry write, or the last write of its finishes. -/
def foldEnd (b : Build) (f : Fold) (out : OMode) (xs : List Pass) : Nat :=
  xs.foldl (fun m x => max m (match out with
    | .acc => passEnd b f x
    | _ => if x.last then passEnd b f x + 1 + (x.rows - 1) + transit b 0x05 else passEnd b f x)) 0

/-- R116, R100: the broadcasts of the passes as activity of the Tortes. -/
def passActs (b : Build) (mode : AMode) (l : Loc) (xs : List Pass) : List Act :=
  xs.flatMap (fun x => (unitTortes b mode x.unit).map (fun t =>
    let p' := x.p + (match mode with | .tier => t | _ => 0)
    ⟨t, p', p' + x.rows * x.c, 0, mode == .solo, 0, 0, some l, false⟩))

/-! ### One pass (R100, R102, R106) -/

/-- The terms that a streamed row adds to column c of the Wafer at place `k` of a unit's outputs (R100): in Tier mode every band adds the terms
of its own Grains. -/
def columnTerms (s : State) (core : Nat) (m : MmaRun) (x : Pass) (row : OpRow) (k c : Nat) : List Term :=
  (List.range m.f.bands).flatMap (fun b =>
    let w := match m.o.mode with | .tier => 4 * b + k | _ => (unitWafers s.build m.o.mode x.unit).getD k 0
    let g0 := (x.kc * m.f.bands + b) * m.f.kg
    match (smGet emptyWafer (getCore s core).waf w).held with
    | some h => pairTerms row (heldRow h (rowMapOf s core w) c g0) g0 (min m.f.ng (g0 + m.f.kg)) m.o.k
    | none => [])

/-- R100, R56: the terms that a pass adds to each of its entries. `h` is a held operand of its unit. -/
def passTerms (m : MmaRun) (x : Pass) (h : CellLoad) : Nat :=
  let g0 := x.kc * m.f.bands * m.f.kg
  termCount (fmtWide m.desc.fmt || h.wide) (m.desc.zpmode != 0 || h.zp) (if h.outl then h.outIdx else []) g0
    (min m.f.ng (g0 + m.f.bands * m.f.kg)) m.o.k

/-- One row of a pass: read in its broadcast cycle, multiplied against what the cells hold, written to its entry in every Wafer that the unit
writes. What the descriptor names is as it stood at the issue (R73, log 59). -/
def passRow (m : MmaRun) (x : Pass) (r : Nat) (a : State × Option Flt) : State × Option Flt :=
  if a.2.isSome then a
  else
    let i := m.loc.iss
    let s := a.1
    let tr := x.p + r * x.c
    let g0 := x.kc * (m.f.kstep / 32)
    let g1 := min m.f.ng (g0 + m.f.kstep / 32)
    let sr := 64 * x.blk + r
    let lo := spanBytes m.desc.fmt (32 * g0)
    let hi := spanBytes m.desc.fmt (min m.o.k (32 * g1))
    match doReads i.core i.strm (expTag m.x 0) (spanReads (m.base + sr * (32 * m.o.pitch) + lo) (hi - lo) tr) s with
    | (s, some e) => (s, some e)
    | (s, none) =>
      let rq := reader s i.core m.t
      let row := loadGrains m.desc rq (reader s i.core tr) m.base (32 * m.o.pitch) sr m.o.k g0 g1
      let w := entryCycle s.build m.f x.c x.p r
      let clr := if m.o.clear && x.kc == 0 then some m.anchor else none
      let h := (smGet emptyWafer (getCore s i.core).waf ((unitWafers s.build m.o.mode x.unit).headD 0)).held
      let n := match h with
        | some h => passTerms m x h + (row.outs.filter (fun p => 32 * g0 ≤ p.1 && p.1 < 32 * g1)).length
        | none => 0
      (outWafers s.build m.o.mode x.unit).zipIdx.foldl (fun (r : State × Option Flt) (wf, k) =>
        let r' := passWrite r.1 i.core i.strm wf (sr % 64) w clr n ((List.range 32).map (columnTerms s i.core m x row k))
        (r'.1, orFlt r.2 r'.2)) (s, none)

/-- R203, R87: the index of an element of an MMA's tile. -/
def tileIndex (held : Bool) (base nt a b : Nat) : Nat := if held then base + b * nt + a else base + a * nt + b

/-- R202, R103, R112: FUSED finish of a block: its entries are armed, and the block is drained to its place in the output tile. -/
def fuseBlock (m : MmaRun) (x : Pass) (r : State × Option Flt) : (State × Option Flt) × DrainAcc :=
  let o := m.o
  let i := m.loc.iss
  let b := r.1.build
  let rd0 := passEnd b m.f x + 1
  let size := fmtBits o.ofmt / 8
  let pw := panelWidth o.mode
  let dr := transit b 0x05
  let ws := outWafers b o.mode x.unit
  let armed := (List.range x.rows).foldl (fun r e => ws.foldl (fun r wf => armRead i.core wf e rd0 (rd0 + e) r) r) r
  (List.range x.rows).foldl (fun acc e =>
    ws.zipIdx.foldl (fun (acc : (State × Option Flt) × DrainAcc) (wf, w) =>
      let col := pw * x.panel + 32 * w
      let n := min 32 (m.f.hx - col)
      if n == 0 then acc
      else
        let row := 64 * x.blk + e
        drainOne i wf e n o.ofmt o.oexp.toInt
          (fun c => drawRnd o.stoch m.key m.tid (tileIndex o.aHeld m.index m.nt row (col + c)) 0) false
          (m.out + row * (32 * o.opitch) + col * size) (rd0 + e) (rd0 + e + dr) acc) acc) (armed, ⟨m.vals, m.sat⟩)

/-- Table 4.9: the trailer record of an entry index. -/
def spillTrailer (v : EntV) : List Byte :=
  let mask (p : Acc → Bool) : Nat := (List.range 32).foldl (fun m c => if p (colOf v c) then m + 2 ^ c else m) 0
  natLe 2 (unsign 16 v.anchor) ++ natLe 5 v.terms ++ [if v.live then 1 else 0] ++ natLe 4 (mask Acc.n) ++ natLe 4 (mask Acc.p)
    ++ natLe 4 (mask Acc.m) ++ natLe 12 0

/-- Table 4.9: the values of an entry index. -/
def spillValues (v : EntV) : List Byte := (List.range 32).flatMap (fun c => natLe 16 (colOf v c).v.toNat)

/-- R113: spill one entry index of bank w read in cycle rd to the area at `area`, written in cycle wr. -/
def spillOne (i : Iss) (w e area rd wr : Nat) (r : State × Option Flt) : State × Option Flt :=
  let v := entAt (getEntry r.1 i.core w e) rd
  if late r.1 i.strm rd then (r.1, orFlt r.2 (some ⟨.segOverrun, 0, rd⟩))
  else
  let (s, f1) := writeBytes r.1 i.core i.strm (area + 512 * e) (spillValues v) wr
  let (s, f2) := writeBytes s i.core i.strm (area + 32768 + 32 * e) (spillTrailer v) wr
  (s, orFlt r.2 (orFlt f1 f2))

/-- R103: the spill area of a block: W counts every Wafer of the unit (Table 4.2), in Tier mode those of all bands, and the Wafers that are written lie
at their place in the last band (DEDUCED, log 61). -/
def spillArea (b : Build) (m : MmaRun) (x : Pass) : Nat :=
  m.out + (x.panel * m.f.ns + x.blk) * 34816 * (unitWafers b m.o.mode x.unit).length

/-- R103: SPILL finish of a block. Its first read falls in the cycle after the block's last entry write, as a FUSED finish's does (DEDUCED, log 61). -/
def spillBlock (m : MmaRun) (x : Pass) (r : State × Option Flt) : State × Option Flt :=
  let b := r.1.build
  let rd0 := passEnd b m.f x + 1
  let dr := transit b 0x05
  (List.range x.rows).foldl (fun r e => (outWafers b m.o.mode x.unit).zipIdx.foldl (fun r (wf, k) =>
    spillOne m.loc.iss wf e (spillArea b m x + 34816 * k) (rd0 + e) (rd0 + e + dr) r) r) r

/-- R102, R106: a pass begins: its front reaches the cells of its unit, its rows stream, and the last chunk's pass finishes the block. Result: state,
fault, and the run with what the finish drained. -/
def runPass (m : MmaRun) (x : Pass) (s : State) : (State × Option Flt) × MmaRun :=
  let i := m.loc.iss
  let ws := unitWafers s.build m.o.mode x.unit
  let fr (w : Nat) : Nat := x.p + bandOf m.o.mode w
  match ws.find? (fun w => shadowLate s i.core w (fr w)) with
  | some w => ((s, some ⟨.shadowLate, 0, fr w⟩), m)
  | none =>
    let s := setWafers s i.core ws (fun w y => frontAt (m.o.mode, m.o.unit, m.o.units, m.o.k, m.f.hx) (fr w) y)
    let r := (List.range x.rows).foldl (fun a k => passRow m x k a) (s, none)
    if r.2.isSome || !x.last then (r, m)
    else match m.o.out with
      | .acc => (r, m)
      | .fused =>
        let a := fuseBlock m x r
        (a.1, { m with vals := a.2.vals, sat := a.2.sat })
      | .spill => (spillBlock m x r, m)

/-- R91, R92, R95: the end of an MMA with FUSED output: the anchor state record, and the precision check at its last cycle. -/
def endRun (m : MmaRun) (s : State) : State × Option Flt :=
  if m.o.out != .fused then (s, none)
  else
    let r := updateRec m.loc.iss m.o.carried m.o.close m.rec_ m.done ⟨m.vals, m.sat⟩ (s, none)
    let e := endCheck r.1 m.loc m.done
    (e.1, orFlt r.2 e.2)

/-- The passes of an MMA that begin at cycle `lim` or earlier, in order, up to the first fault; and its end after the last. -/
def runPasses (lim : Nat) : List Pass → MmaRun → State → State × MmaRun
  | [], m, s => (s, { m with passes := [] })
  | x :: xs, m, s =>
    if lim < x.p || !segLive s (partOf s m.loc.iss.core) x.p then (s, { m with passes := x :: xs })
    else
      let here (u : State) : State := locate m.loc s.flt.next s.claims.length u
      match runPass m x s with
      | ((s1, some f), m1) => (raiseLoc (here s1) m.loc f, { m1 with passes := [] })
      | ((s1, none), m1) =>
        if xs.isEmpty then
          match endRun m1 s1 with
          | (s2, some f) => (raiseLoc (here s2) m.loc f, { m1 with passes := [] })
          | (s2, none) => (here s2, { m1 with passes := [] })
        else runPasses lim xs m1 (here s1)

/-- A pass of the core begins at cycle `lim` or earlier and has not run. -/
def passDue (c : Core) (lim : Nat) : Bool := c.mmas.any (fun m => m.passes.any (fun x => x.p ≤ lim))

/-- Every pass of a core that begins at cycle `lim` or earlier runs, MMA by MMA in the order of their issue. -/
def catchUp (s : State) (core lim : Nat) : State :=
  if !passDue (getCore s core) lim then s
  else
    let r := (getCore s core).mmas.foldl (fun (a : State × List MmaRun) m =>
      let r := runPasses lim m.passes m a.1
      (r.1, if r.2.passes.isEmpty then a.2 else a.2 ++ [r.2])) (s, [])
    modCore r.1 core (fun c => { c with mmas := r.2 })

/-- What a core has done before a stream instruction issues in cycle t: the passes that issued at t or before (R104: a pass issues MX_SF before
its first broadcast), and the ramp check of the changes before t (R116). -/
def settleCore (s : State) (core t : Nat) : State := rampGuard (catchUp s core (t + transit s.build 0x01)) core t

/-- Nothing is left for a core to do before cycle t. -/
def quietAt (s : State) (core t : Nat) : Bool :=
  !passDue (getCore s core) (t + transit s.build 0x01) && changeCycles (getCore s core).acts (getCore s core).rampAt t == []

end Sys2Proof.Machine
end

