-- ==== Sys2Proof/Machine/Issue.lean ====
section
/-!
DEFINITION. Issue.lean: the issue of a stream instruction with its waits, holds, skips and block end (R30, R31, R155, R156, R160 to R162,
R166, R170, R187, R229).
-/

namespace Sys2Proof.Machine

/-! ### The issue of a stream instruction -/

/-- What the body of an instruction comes to: done, with the cycle of its last write; stopped by a fault; or waiting. -/
inductive Res
  | ok (s : State) (done : Nat)
  | bad (s : State) (f : Flt)
  | wait
deriving DecidableEq, Repr

/-- A body that ends with a possible fault of its accesses. -/
def resOf (r : State × Option Flt) (done : Nat) : Res :=
  match r.2 with
  | none => .ok r.1 done
  | some f => .bad r.1 f

/-- The streams a hold group names, with the stream itself (Table 8.3, R187). -/
def holdGroup (k : Strm) (hg : BitVec 4) : List Strm :=
  k :: ((if hg.getLsbD 0 then [Strm.move] else []) ++ (if hg.getLsbD 1 then [Strm.matrix] else [])
    ++ (if hg.getLsbD 2 then [Strm.strudel] else []) ++ (if hg.getLsbD 3 then [Strm.glaze] else []))

/-- R187: a timed stream's own bit stands in its hold group. -/
def ownBit (k : Strm) (hg : BitVec 4) : Bool :=
  match k with
  | .move => hg.getLsbD 0 | .matrix => hg.getLsbD 1 | .strudel => hg.getLsbD 2 | .glaze => hg.getLsbD 3
  | _ => true

/-- The stream stops issuing: it or its hold group waits (R31, R156), or it stands at its realign barrier (R180). -/
def blocked (s : State) (core : Nat) (k : Strm) : Bool :=
  s.held.any (fun h => h.core == core && h.strms.contains k) || (getStrm s core k).realign.isSome

/-- Put a command among those that wait. -/
def park (s : State) (i : Iss) (self : Instr) (ks : List Strm) : State := { s with held := s.held ++ [⟨self, i.core, ks⟩] }

/-- Table 7.1: the cycle in which the instruction issues, before any wait of its own: never before the one ahead of it (R156). -/
def issueCycle (s : State) (i : Iss) : Nat :=
  let st := getStrm s i.core i.strm
  if isTimed i.strm then max (s.beat.start + i.at_ + st.shift) st.lastIss
  else max (s.beat.start + i.at_) (st.lastIss + 1)

/-- The stream may issue: its partition has a Segment that acts in the cycle, and its block, or the control stream, has not ended. -/
def mayIssue (s : State) (i : Iss) : Bool :=
  (getCore s i.core).holder.isSome && segLive s (partOf s i.core) (issueCycle s i) &&
    (match i.strm with
     | .control => !(getCore s i.core).segend
     | _ => match (getStrm s i.core i.strm).blk with
       | some b => !b.ended
       | none => false)

/-- R175: the block-end signal of a block that ends in cycle t. -/
def endBlock (s : State) (core : Nat) (k : Strm) (t : Nat) : State :=
  match (getStrm s core k).blk with
  | none => s
  | some b =>
    let s := modStrm s core k (fun x => { x with blk := none, prevEnd := t })
    match b.sig with
    | some g => addCtr s core g.sc t g.amt
    | none => s

/-- The start of the running block of a stream, which names the block. -/
def blockStart (s : State) (core : Nat) (k : Strm) : Nat := ((getStrm s core k).blk.map Block.start).getD 0

/-- R180: no request of the engine is outstanding. -/
def drained (s : State) (core : Nat) (k : Strm) : Bool :=
  match k with
  | .load => !s.lands.any (fun l => l.core == core)
  | .store => !s.stores.any (fun l => l.core == core)
  | _ => true

/-- R162: no request of the engine's running block is outstanding. -/
def blockDone (s : State) (core : Nat) (k : Strm) : Bool :=
  match k with
  | .load => !s.lands.any (fun l => l.core == core && l.blk == blockStart s core k)
  | .store => !s.stores.any (fun l => l.core == core && l.blk == blockStart s core k)
  | _ => true

/-- R162: a request of the block that began in cycle `blk` has landed, or has read its row, in cycle t. -/
def blockUsed (s : State) (core : Nat) (k : Strm) (blk t : Nat) : State :=
  modStrm s core k (fun x => { x with blk := x.blk.map (fun b => if b.start == blk then { b with last := max b.last t } else b) })

/-- R162: an asynchronous block whose marked instruction has issued ends when nothing of it is outstanding. -/
def tryEnd (s : State) (core : Nat) (k : Strm) (t : Nat) : State :=
  match (getStrm s core k).blk with
  | some b => if b.ended && blockDone s core k then endBlock s core k (max t b.last) else s
  | none => s

/-- R155, R162, R172: what follows an instruction that is done in cycle `done`: the block goes on, or ends at its mark: in the cycle the
marked instruction is done, or, in a Load or Store block, when nothing is outstanding. `sharp`: a Store block whose mark stands on a DIGEST CLOSE, or
any block whose mark stands on an open-mode WAITSC, ends with it. -/
def finishInstr (s : State) (i : Iss) (sharp fin : Bool) (done : Nat) : State :=
  match i.strm, (getStrm s i.core i.strm).blk with
  | .control, _ => s
  | _, none => s
  | k, some b =>
    let b := { b with last := max b.last done, ended := b.ended || fin }
    let s := modStrm s i.core k (fun x => { x with blk := some b })
    if !fin then s
    else if (getStrm s i.core k).loops != [] then
      raiseAt (modStrm s i.core k (fun x => { x with blk := some { b with ended := false } })) i ⟨.loopDepth, 0, done⟩
    else if isTimed k || sharp then endBlock s i.core k done
    else tryEnd s i.core k done

/-- R162: the instructions at whose end a block ends, whatever it has outstanding. -/
def endsSharp : Instr → Bool
  | .digestClose _ _ _ => true
  | .waitsc _ w _ => w.isSome
  | _ => false

/-- R30, R178: a wait without bound, which the guard window does not end. -/
def openWaits : Instr → Bool
  | .waitsc _ w _ => w.isSome
  | _ => false

/-- R31: every stream of the hold group resumes with its placements of the Beat shifted. -/
def shiftGroup (s : State) (core : Nat) (ks : List Strm) (d : Nat) : State :=
  if d == 0 then s
  else (ks.filter isTimed).eraseDups.foldl (fun s k => modStrm s core k (fun x => { x with shift := x.shift + d })) s

/-- R31: a hold has moved a timed instruction past the placement of its core's SEGEND, which stands and waits. -/
def pastEnd (s : State) (i : Iss) (t : Nat) : Bool :=
  isTimed i.strm && s.held.any (fun h => h.core == i.core && (match h.cmd with
    | .segend j => decide (i.at_ ≤ j.at_) && decide (s.beat.start + j.at_ < t)
    | _ => false))

/-- What an instruction that issues in cycle t does: its body, its end, its faults. -/
def runBody (i : Iss) (self : Instr) (t : Nat) (fin : Bool) (body : Nat → State → Res) (s : State) : State :=
  let l := locOf s i
  let s0 := touch (modStrm s i.core i.strm (fun x => { x with lastIss := t })) t
  match body t s0 with
  | .wait => park s i self [i.strm]
  | .bad s' f => raiseLoc (locate l s.flt.next s.claims.length s') l f
  | .ok s' done =>
    let u := locate l s.flt.next s.claims.length s'
    if late s i.strm done && !openWaits self then raiseLoc u l ⟨.segOverrun, 0, done⟩
    else finishInstr u i (endsSharp self) fin done

/-- R229: the Granule of the code store that holds the instruction's word has two or three symbols in error (words of 8 bytes, log 17). -/
def codeUe (s : State) (i : Iss) : Bool :=
  let e := smGet noErr (getCore s i.core).codeErr (i.pc.toNat / 4)
  e.n == 2 || e.n == 3

/-- R188: the word of the code store at the instruction's PC is zero, which spells the reserved opcode 0x00 (words of 8 bytes, log 17). -/
def reservedWord (s : State) (i : Iss) : Bool :=
  match codeOf s i.core i.strm with
  | some x => (x.bytes.drop (8 * i.pc.toNat)).take 8 == List.replicate 8 0
  | none => false

/-- R156, R31, R109, R166, R170, R229, R9: the issue of a stream instruction, after what its core has done before. `skip` is what an instruction inside a zero-count loop does. -/
def issueGen (i : Iss) (self : Instr) (cond : Option Cond) (fin : Bool) (skip : State → State) (body : Nat → State → Res)
    (s : State) : Host.Outcome State Fault Refusal :=
  if i.at_ > 4127 then .fault .noSuchPoint
  else
  let s := settleCore s i.core (issueCycle s i)
  if !mayIssue s i then .next s
  else if blocked s i.core i.strm then .next (park s i self [i.strm])
  else
    let st := getStrm s i.core i.strm
    let t := issueCycle s i
    if codeUe s i then .next (raiseAt s i ⟨.granuleUe, scratchDetail 0 0 0 0 (strmCode i.strm), t⟩)
    else if st.skip > 0 then .next (skip s)
    else if st.skipNext then
      .next (modStrm s i.core i.strm (fun x => { x with skipNext := false, lastIss := t }))
    else if reservedWord s i then .next (raiseAt s i ⟨.illegalOp, 0, t⟩)
    else if late s i.strm t || pastEnd s i t then .next (raiseAt s i ⟨.segOverrun, 0, t⟩)
    else match cond with
      | none => .next (runBody i self t fin body s)
      | some c =>
        if !ownBit i.strm c.hg then .next (raiseAt s i ⟨.illegalOp, 0, t⟩)
        else match waitCycle (getCtr s i.core c.sc) c.v t with
          | none => .next (park s i self (holdGroup i.strm c.hg))
          | some t' =>
            if late s i.strm t' || pastEnd s i t' then .next (raiseAt s i ⟨.segOverrun, 0, t'⟩)
            else .next (runBody i self t' fin body (shiftGroup s i.core (holdGroup i.strm c.hg) (t' - t)))

/-- The issue of an instruction with no special rule inside a zero-count loop: there it does nothing (R170). -/
def issue (i : Iss) (self : Instr) (cond : Option Cond) (body : Nat → State → Res) (s : State) :
    Host.Outcome State Fault Refusal :=
  issueGen i self cond i.fin (fun s => s) body s

/-- R187, Table 7.9: the signal modifier of a timed instruction, in the cycle of its last scratchpad write. -/
def signalAt (s : State) (i : Iss) (g : Option Sig) (t : Nat) : State :=
  match g with
  | some g => addCtr s i.core g.sc t g.amt
  | none => s

/-- R188: an extension word that the operand table does not permit. -/
def extBad (x : Ext) (cond sig chk : Bool) : Bool :=
  (x.cond.isSome && !cond) || (x.sig.isSome && !sig) || (x.chk.isSome && !chk)

/-- R157, R188: the instruction stands outside its stream, or carries a word it may not carry. -/
def formFault (i : Iss) (k : Strm) (bad : Bool) (t : Nat) : Option Flt :=
  if i.strm != k || bad then some ⟨.illegalOp, 0, t⟩ else none

/-- A finished body with its signal. -/
def okSig (r : State × Option Flt) (i : Iss) (x : Ext) (done : Nat) : Res :=
  match r.2 with
  | some f => .bad r.1 f
  | none => .ok (signalAt r.1 i x.sig done) done

/-- Continue unless there is a fault. -/
def check (s : State) (f : Option Flt) (k : Unit → Res) : Res :=
  match f with
  | some f => .bad s f
  | none => k ()

/-- Continue a body after accesses that may have faulted. -/
def thenR (r : State × Option Flt) (k : State → Res) : Res :=
  match r.2 with
  | some f => .bad r.1 f
  | none => k r.1

/-- Retry the commands that wait, oldest first: the first that goes on is taken, the others keep their order. -/
def retryHeld (ex : Instr → State → Host.Outcome State Fault Refusal) (s : State) :
    List Held → List Held → Host.Outcome State Fault Refusal
  | _, [] => .next s
  | before, h :: rest =>
    match ex h.cmd { s with held := before } with
    | .next s' =>
      if s'.held.length == before.length + 1 && s'.held.dropLast == before && s'.held.getLast?.map Held.cmd == some h.cmd then
        retryHeld ex s (before ++ [h]) rest
      else .next { s' with held := s'.held ++ rest }
    | .fault e => .fault e
    | .refused e => .refused e

end Sys2Proof.Machine
end

