-- ==== Sys2Proof/Machine/LoadStore.lean ====
section
/-!
DEFINITION. LoadStore.lean: LDS LDH LDW STS STH DIGEST (R197 to R199, R277, R309 to R312), and what becomes of their requests: LANDING,
STORE_READ, STACK_BURST, STACK_READ_DATA (R133, R134, R290, R291).
-/

namespace Sys2Proof.Machine

/-! ### Requests -/

/-- The tag of the running Segment of a partition on its stores: partition, queue and entry count, so that a command's own writes can
be told (Table 1.5, stage 5). -/
def segTag (s : State) (p : Nat) : Nat :=
  match (getPart s p).seg with
  | some g => p + 32 * (g.q + 65536 * g.seq.toNat)
  | none => p

/-- The partition of a tag. -/
def tagPart (t : Nat) : Nat := t % 32

/-- The queue of a tag. -/
def tagQueue (t : Nat) : Nat := t / 32 % 65536

/-- R130: a Load or Store offset or length that is not whole Granules. -/
def granFault (s : State) (i : Iss) (a off len unit t : Nat) : Option Flt :=
  orFlt (localFault s i a len 32 t)
    (if off % unit != 0 || len % unit != 0 then some ⟨.align, scratchDetail i.core a 0 0 (strmCode i.strm), t⟩ else none)

/-- The partition's Segment epoch (R295); a Segment that is being aborted issues nothing. -/
def segEpoch (s : State) (p : Nat) : BitVec 16 :=
  match (getPart s p).seg with
  | some g => g.epoch
  | none => s.ext.epoch

/-- Continue with the entry a lookup finds, or with its fault. An offset with a bit above [35:0] lies outside every Extent (R169). -/
def withExt (s : State) (i : Iss) (h : W32) (off len t : Nat) (write : Bool) (k : State → ExtEnt → Res) : Res :=
  let s := lookupCe s h t
  match lookup s h (partOf s i.core) (segEpoch s (partOf s i.core)) off len write with
    | .bad c => .bad s ⟨c, extDetail h off, t⟩
    | .ok e => k s e

/-- R277: the host object a P register names, for bytes [off, off + len); none is HOST_RANGE. -/
def hostObj (s : State) (p : Nat) (idx off len : Nat) : Option Nat :=
  match (getPart s p).seg with
  | some g => match g.objs[idx]? with
    | some o => if o.kind == 1 && off < 2 ^ 48 && off + len ≤ o.length.toNat then some (o.base.toNat + off) else none
    | none => none
  | none => none

/-- DETAIL of format REASON (Table 17.5). -/
def reasonDetail (reason unit value : Nat) : Nat := reason % 256 + unit % 256 * 2 ^ 8 + value % 2 ^ 32 * 2 ^ 16

/-- The spans of rows that bytes [a, a + len) of a scratchpad cover: local address and length. -/
def rowSpans : Nat → Nat → Nat → List (Nat × Nat)
  | 0, _, _ => []
  | fuel + 1, a, len =>
    if len == 0 then []
    else
      let n := min len (128 - a % 128)
      (a, n) :: rowSpans fuel (a + n) (len - n)

/-- Row spans of a request. -/
def spansOf (a len : Nat) : List (Nat × Nat) := rowSpans (len / 128 + 2) a len

/-- Landings outstanding on a row as seen in cycle t (R134). -/
def rowPend (s : State) (core a t : Nat) : Nat := (rowView s (rowNo core a) t).pend

/-- R134: the first cycle from t in which every row of a request has room for one more landing, as far as its uses are known. -/
def acceptCycle (s : State) (core : Nat) (spans : List (Nat × Nat)) (t : Nat) : Option Nat :=
  let room (c : Nat) : Bool := spans.all (fun x => rowPend s core x.1 c < 4)
  if room t then some t
  else firstFrom t room (spans.flatMap (fun x => (getRow s (rowNo core x.1)).uses.map (fun u => u.1 + 1)))

/-- R134, R150: accept one landing: the row is marked unless its bank is not ON. -/
def acceptOne (l : Loc) (sc : Nat) (t : Nat) (x : Nat × Nat) (host : Option Nat) (pack : List (Nat × Nat × Nat)) (need : Nat)
    (s : State) : State :=
  let core := l.iss.core
  let dark := bankAt s core x.1 != .on
  let l : Landing := ⟨s.nextId, core, x.1, sc, partOf s core, dark, host, pack, need, List.replicate x.2 0, l, blockStart s core .load⟩
  let s := if dark then s else addUse s (rowNo core x.1) t .accept
  { s with lands := s.lands ++ [l], nextId := s.nextId + 1 }

/-- Granule read requests of bytes [a, a + 32 n) of the stacks for a landing or packed block. -/
def readReqs (core key a land : Nat) (packed : Bool) (n : Nat) : List GReq :=
  (List.range n).map (fun k => ⟨core, a / 32 + k, key, land, packed, 32 * k, false, none, []⟩)

/-- One row of an LDS: its landing and its Granule requests. -/
def acceptRow (l : Loc) (sc t key : Nat) (src : Nat) (base : Nat) (s : State) (x : Nat × Nat) : State :=
  let id := s.nextId
  let s := acceptOne l sc t x none [] (x.2 / 32) s
  { s with stk := { s.stk with greqs := s.stk.greqs ++ readReqs l.iss.core key (src + (x.1 - base)) id false (x.2 / 32) } }

/-- A stream instruction of the Load engine that has passed its checks: accepted when its rows have room. -/
def acceptLoad (i : Iss) (spans : List (Nat × Nat)) (t : Nat) (go : Nat → State → State) (s : State) : Res :=
  match acceptCycle s i.core spans t with
  | none => .wait
  | some t' => .ok (go t' (modStrm s i.core i.strm (fun x => { x with lastIss := t' }))) t'

/-- LDS (R198, R295). -/
def goLds (i : Iss) (o : LdOps) (s : State) : Host.Outcome State Fault Refusal :=
  issue i (.lds i o) none (fun t s =>
    let a := aReg s i o.aDst
    let off := aReg s i o.aOff
    let h := pReg s i o.pObj
    check s (formFault i .load false t) fun _ =>
    check s (granFault s i a off o.len 32 t) fun _ =>
    withExt s i h off o.len t false fun s e =>
    let spans := spansOf a o.len
    acceptLoad i spans t (fun t' s =>
      spans.foldl (acceptRow (locOf s i) o.sc t' (partKey s (partOf s i.core)) (e.addr + off) a) s) s) s

/-- LDH (R198, R277): one host read for each row. -/
def goLdh (i : Iss) (o : LdOps) (s : State) : Host.Outcome State Fault Refusal :=
  issue i (.ldh i o) none (fun t s =>
    let a := aReg s i o.aDst
    let off := aReg s i o.aOff
    let idx := (pReg s i o.pObj).toNat
    check s (formFault i .load false t) fun _ =>
    check s (granFault s i a off o.len 32 t) fun _ =>
    match hostObj s (partOf s i.core) idx off o.len with
    | none => .bad s ⟨.hostRange, reasonDetail 0 0 idx, t⟩
    | some addr =>
      let spans := spansOf a o.len
      acceptLoad i spans t (fun t' s =>
        spans.foldl (fun s x => acceptOne (locOf s i) o.sc t' x (some (addr + (x.1 - a))) [] 1 s) s) s) s

/-! ### Packed weights (R309 to R312) -/

/-- The set bits of a mask, ascending. -/
def maskBits (v n : Nat) : List Nat := (List.range n).filter (fun k => v / 2 ^ k % 2 == 1)

/-- All bytes zero. -/
def allZero (b : List Byte) : Bool := b.all (fun x => x == 0)

/-- Table 12.5: a block unpacked from its packed bytes; none when PLEN or padding disagrees with the mode. -/
def unpackBlock (mode plen : Nat) (b : List Byte) : Option (List Byte) :=
  match mode with
  | 0 => if plen == 128 then some b else none
  | 1 =>
    let m := leNat (b.take 128)
    let bits := maskBits m 1024
    let n := bits.length
    if plen != 4 + (n + 7) / 8 || !allZero (b.drop (128 + 4 * n)) then none
    else some ((List.range 1024).flatMap (fun w =>
      if m / 2 ^ w % 2 == 1 then (b.drop (128 + 4 * (bits.findIdx (· == w)))).take 4 else [0, 0, 0, 0]))
  | 2 =>
    let lo := leNat (b.take 2048)
    let m := leNat ((b.drop 2048).take 512)
    let bits := maskBits m 4096
    let e := bits.length
    let hi := leNat ((b.drop 2560).take ((e + 1) / 2))
    if plen != 80 + (e + 63) / 64 || !allZero (b.drop (2560 + (e + 1) / 2)) || hi ≥ 16 ^ e then none
    else some ((List.range 4096).map (fun k =>
      let l := lo / 16 ^ k % 16
      let h := if m / 2 ^ k % 2 == 1 then hi / 16 ^ (bits.findIdx (· == k)) % 16 else if l ≥ 8 then 15 else 0
      BitVec.ofNat 8 (l + 16 * h)))
  | 3 => if plen == 0 then some (List.replicate 4096 0) else none
  | _ => none

/-- R310, R312: what an index entry tells before its data is read: POFF, PLEN, MODE, and whether it is faulty. -/
def packEntry (e : ExtEnt) (data v : Nat) : Nat × Nat × Nat × Bool :=
  let poff := bitsOf v 0 32
  let plen := bitsOf v 32 8
  let mode := bitsOf v 40 4
  (poff, plen, mode, mode > 3 || bitsOf v 44 20 != 0 || plen > 128 || data % 32 != 0 || data + 32 * (poff + plen) > e.size)

/-- One block of an LDW whose index entry is read: its packed Granules are requested. `id` numbers the block. -/
def acceptBlock (l : Loc) (key : Nat) (h : W32) (e : ExtEnt) (data j0 id0 : Nat) (s : State) (j : Nat) : State :=
  let (poff, plen, mode, bad) := packEntry e data (leNat (stkBytes s key (e.addr + 32 + 8 * (j0 + j)) 8))
  let need := if bad then 0 else plen
  let id := id0 + j
  let p : Pack := ⟨id, mode, bad, plen, need, List.replicate (32 * need) 0, (h, 32 + 8 * (j0 + j))⟩
  { s with stk := { s.stk with packs := s.stk.packs ++ [p],
                               greqs := s.stk.greqs ++ readReqs l.iss.core key (e.addr + data + 32 * poff) id true need } }

/-- The parts of unpacked blocks that make up bytes [o, o + n) of an LDW whose blocks are numbered from `id0`. -/
def packParts (id0 o n : Nat) : List (Nat × Nat × Nat) :=
  let m := min n (4096 - o % 4096)
  (id0 + o / 4096, o % 4096, m) :: (if m < n then [(id0 + o / 4096 + 1, 0, n - m)] else [])

/-- What an LDW accepts: its blocks and the landings of its rows. -/
def acceptPacked (l : Loc) (sc t key a n : Nat) (h : W32) (e : ExtEnt) (data j0 : Nat) (s : State) : State :=
  let id0 := s.nextId
  let s := (List.range n).foldl (acceptBlock l key h e data j0 id0) { s with nextId := s.nextId + n }
  (spansOf a (4096 * n)).foldl (fun s x => acceptOne l sc t x none (packParts id0 (x.1 - a) x.2) 0 s) s

/-- Continue after a read of stack memory that an instruction makes at its issue (R291). -/
def withStk (s : State) (i : Iss) (a len t : Nat) (k : State → Res) : Res :=
  let r := stkCheck (fun s f => raiseAt s i f) a len t s
  check r.1 r.2 fun _ => k r.1

/-- LDW (R311, R312). Header and index entries are read at its issue, its blocks in the core's stack slots. -/
def goLdw (i : Iss) (o : LdOps) (s : State) : Host.Outcome State Fault Refusal :=
  issue i (.ldw i o) none (fun t s =>
    let a := aReg s i o.aDst
    let off := aReg s i o.aOff
    let h := pReg s i o.pObj
    let key := partKey s (partOf s i.core)
    let n := o.len / 4096
    let j0 := off / 4096
    check s (formFault i .load false t) fun _ =>
    check s (granFault s i a off o.len 4096 t) fun _ =>
    withExt s i h 0 32 t false fun s e =>
    check s (if off < 2 ^ 36 then none else some ⟨.extRange, extDetail h off, t⟩) fun _ =>
    withStk s i e.addr 16 t fun s =>
    let hd := leNat (stkBytes s key e.addr 16)
    let bad : Flt := ⟨.packForm, extDetail h off, t⟩
    check s (if e.packed && bitsOf hd 0 32 == 0x4B434150 && j0 + n ≤ bitsOf hd 32 32 then none else some bad) fun _ =>
    withExt s i h (32 + 8 * j0) (8 * n) t false fun s e =>
    withStk s i (e.addr + 32 + 8 * j0) (8 * n) t fun s =>
    acceptLoad i (spansOf a o.len) t (fun t' s => acceptPacked (locOf s i) o.sc t' key a n h e (bitsOf hd 64 64) j0 s) s) s

/-! ### Stores and digest streams (R199) -/

/-- A digest stream of a core. -/
def getDig (s : State) (core n : Nat) : Option DigStrm := smGet none (getCore s core).dig n
/-- Replace a digest stream. -/
def putDig (s : State) (core n : Nat) (d : Option DigStrm) : State :=
  modCore s core (fun c => { c with dig := smSet none c.dig n d })

/-- R199: the fault of a store with DG set, and the stream after it. -/
def digStore (s : State) (i : Iss) (o : StOps) (off t : Nat) : Option Flt × Option DigStrm :=
  if !o.dg then (none, none)
  else match getDig s i.core o.dstr with
    | some d =>
      if d.obj == pReg s i o.pObj && d.next == off then (none, some { d with next := d.next + o.len })
      else (some ⟨.digestOrder, 0, t⟩, none)
    | none => (some ⟨.digestOrder, 0, t⟩, none)

/-- Granule write requests of a row of a store, accepted with it in order (R290); their bytes come with the row's read. -/
def writeReqs (core tag id n : Nat) : Place → List GReq
  | .stack a key => (List.range (n / 32)).map (fun k => ⟨core, a / 32 + k, key, id, false, 32 * k, false, some (tag, []), []⟩)
  | .host _ => []

/-- The row reads that a store owes (R133) and its Granule requests: destination byte and digest offset advance with the row. -/
def storeReqs (i : Iss) (o : StOps) (a off : Nat) (dst : Nat → Place) (d : Option DigStrm) (s : State) : State :=
  let l := locOf s i
  let s := match d with
    | some d => putDig s i.core o.dstr (some d)
    | none => s
  (spansOf a o.len).foldl (fun s x =>
    let tag := segTag s (partOf s i.core)
    let r : StoreReq := ⟨s.nextId, i.core, x.1, x.2, dst (x.1 - a), tag, d.map (fun d => (o.dstr, off + (x.1 - a) - d.start)), l,
      blockStart s i.core .store⟩
    { s with stores := s.stores ++ [r], nextId := s.nextId + 1,
             stk := { s.stk with greqs := s.stk.greqs ++ writeReqs i.core tag s.nextId x.2 (dst (x.1 - a)) } }) s

/-- STS (R199, R295, R311). -/
def goSts (i : Iss) (o : StOps) (s : State) : Host.Outcome State Fault Refusal :=
  issue i (.sts i o) none (fun t s =>
    let a := aReg s i o.aSrc
    let off := aReg s i o.aOff
    let h := pReg s i o.pObj
    let key := partKey s (partOf s i.core)
    check s (formFault i .store false t) fun _ =>
    check s (granFault s i a off o.len 32 t) fun _ =>
    withExt s i h off o.len t true fun s e =>
    let d := digStore s i o off t
    check s d.1 fun _ => .ok (storeReqs i o a off (fun k => .stack (e.addr + off + k) key) d.2 s) t) s

/-- STH (R199, R277). -/
def goSth (i : Iss) (o : StOps) (s : State) : Host.Outcome State Fault Refusal :=
  issue i (.sth i o) none (fun t s =>
    let a := aReg s i o.aSrc
    let off := aReg s i o.aOff
    let idx := (pReg s i o.pObj).toNat
    check s (formFault i .store false t) fun _ =>
    check s (granFault s i a off o.len 32 t) fun _ =>
    match hostObj s (partOf s i.core) idx off o.len with
    | none => .bad s ⟨.hostRange, reasonDetail 0 0 idx, t⟩
    | some addr =>
      let d := digStore s i o off t
      check s d.1 fun _ => .ok (storeReqs i o a off (fun k => .host (addr + k)) d.2 s) t) s

/-- DIGEST OPEN (R199). -/
def goDigestOpen (i : Iss) (aOff pObj dstr : Nat) (s : State) : Host.Outcome State Fault Refusal :=
  issue i (.digestOpen i aOff pObj dstr) none (fun t s =>
    let off := aReg s i aOff
    check s (formFault i .store false t) fun _ =>
    check s (if off % 4096 != 0 then some ⟨.align, scratchDetail i.core 0 0 0 (strmCode i.strm), t⟩ else none) fun _ =>
    check s (if (getDig s i.core dstr).isSome then some ⟨.digestOrder, 0, t⟩ else none) fun _ =>
    .ok (putDig s i.core dstr (some ⟨pReg s i pObj, off, off, []⟩)) t) s

/-- R27: the first cycle from t in which a port carries no access. -/
def openCycle (s : State) (port t : Nat) : Nat :=
  ((((List.range (s.claims.length + 1)).map (t + ·)).find? (fun c => !portTaken s port c)).getD t)

/-- DIGEST CLOSE (R199, R383): waits for the reads of its stream's stores, then writes the root and enters it in the output digests.
The root is written in the first cycle from the one in which the close goes on in which its bank's write port is open (R27, log 14). -/
def goDigestClose (i : Iss) (aRoot dstr : Nat) (s : State) : Host.Outcome State Fault Refusal :=
  issue i (.digestClose i aRoot dstr) none (fun t s =>
    let a := aReg s i aRoot
    let p := partOf s i.core
    check s (formFault i .store false t) fun _ =>
    check s (localFault s i a 32 32 t) fun _ =>
    match getDig s i.core dstr with
    | none => .bad s ⟨.digestOrder, 0, t⟩
    | some d =>
      if s.stores.any (fun r => r.core == i.core && r.dig.map Prod.fst == some dstr) then .wait
      else
        let t' := openCycle s (portNo i.core a true) (max t s.now)
        let root := treeRoot (memRead d.bytes 0 (d.next - d.start))
        let s1 := modSeg (putDig s i.core dstr none) p (fun g => { g with roots := g.roots ++ [(8 * coreIdx s p i.core + dstr, root)] })
        let s2 := modStrm s1 i.core i.strm (fun x => { x with lastIss := t' })
        resOf (writeBytes s2 i.core i.strm a (digBytes root) t') t') s

/-! ### Landings (R27, R133, R134, R150) -/

/-- The packed blocks of a landing. -/
def packIds (l : Landing) : List Nat := l.pack.map Prod.fst

/-- A packed block under way. -/
def packAt (s : State) (id : Nat) : Option Pack := s.stk.packs.find? (fun p => p.id == id)

/-- A landing whose data is there. -/
def landReady (s : State) (l : Landing) : Bool :=
  l.need == 0 && (packIds l).all (fun id => match packAt s id with
    | some p => p.need == 0
    | none => false)

/-- R133: landings of one bank take its port in the order of their requests. -/
def landTurn (s : State) (l : Landing) : Bool :=
  match s.lands.find? (fun x => x.core == l.core && bankOf x.local_ == bankOf l.local_ && landReady s x) with
  | some x => x.id == l.id
  | none => false

/-- Packed blocks that no landing waits for any more, with their requests, are over. -/
def dropPacks (s : State) : State :=
  let live (id : Nat) : Bool := s.lands.any (fun l => (packIds l).contains id)
  { s with stk := { s.stk with
      packs := s.stk.packs.filter (fun p => live p.id),
      greqs := s.stk.greqs.filter (fun r => r.wr.isSome || !r.packed || live r.land) } }

/-- R136, R127: the placed reads of row g up to cycle t that met its pending bit, which a request accepted after their instruction issued has set:
each raises PEND_READ in its cycle. -/
def pendReads (t : Nat) (s : State) (g : Nat) : State :=
  (s.claims.filter (fun c => c.row == g && c.port % 2 == 0 && decide (c.at_ ≤ t) && decide ((rowView s g c.at_).pend > 0))).foldr (fun c s =>
    let d := scratchDetail (g / 65536) (g % 65536 * 128) (rowView s g c.at_).tag.toNat 0 (strmCode c.strm)
    match (getPart s (partOf s (g / 65536))).seg with
    | some x => if x.start ≤ c.at_ then raiseSeg s (partOf s (g / 65536)) ⟨.pendRead, d, c.at_⟩ c.loc else s
    | none => s) s

/-- R134: retire the landings that a test picks, without a write; blocks of the Load engine may end. -/
def dropLands (s : State) (t : Nat) (q : Landing → Bool) : State :=
  let gone := s.lands.filter q
  let ids := gone.map Landing.id
  let s := gone.foldl (fun s l => if l.dark then s else addUse (pendReads t s (rowNo l.core l.local_)) (rowNo l.core l.local_) t .retire) s
  let s := { s with
    lands := s.lands.filter (fun l => !q l),
    stk := { s.stk with greqs := s.stk.greqs.filter (fun r => r.wr.isSome || r.packed || !ids.contains r.land) } }
  (gone.map Landing.core).eraseDups.foldl (fun s c => tryEnd s c .load t) (dropPacks s)

/-- R183: the block that began in cycle `blk` belongs to the Segment that partition p runs. -/
def inSegment (s : State) (p blk : Nat) : Bool :=
  match (getPart s p).seg with
  | some g => decide (g.start ≤ blk)
  | none => false

/-- R150: a fault of an asynchronous access of a block, against the Segment that ran it if it still runs. -/
def raiseLand (s : State) (l : Loc) (part blk : Nat) (f : Flt) : State :=
  if inSegment s part blk then raiseSeg s part f (some l) else note s f (some part)

/-- The bytes of one part of a packed landing; none is a faulty block (R312). -/
def partBytes (s : State) (x : Nat × Nat × Nat) : Option (List Byte) :=
  match packAt s x.1 with
  | some p => if p.bad then none else (unpackBlock p.mode p.plen p.data).map (fun b => (b.drop x.2.1).take x.2.2)
  | none => none

/-- The bytes a ready landing writes; none is a faulty packed block (R312). -/
def landBytes (s : State) (l : Landing) : Option (List Byte) :=
  if l.pack.isEmpty then some l.data
  else l.pack.foldl (fun b x => match b, partBytes s x with
    | some b, some y => some (b ++ y)
    | _, _ => none) (some [])

/-- The packed block of a landing that is faulty. -/
def badPack (s : State) (l : Landing) : Option Pack :=
  (l.pack.find? (fun x => (partBytes s x).isNone)).bind (fun x => packAt s x.1)

/-- The fault of a faulty packed block. -/
def packFault (s : State) (l : Landing) (t : Nat) : Flt :=
  match badPack s l with
  | some p => ⟨.packForm, extDetail p.where_.1 p.where_.2, t⟩
  | none => ⟨.packForm, 0, t⟩

/-- R403: a landing on a row while a scrub is about to write its Granules back cancels the write-back. -/
def scrubCancel (s : State) (g t : Nat) : State :=
  if s.scrub.last == some s.beat.b && s.beat.start + 4048 ≤ t && t ≤ s.beat.start + 4051 then
    { s with errs := (s.scrub.fixed.filter (fun x => x.1 / 4 == g)).foldl (fun m x => smSet noErr m x.1 x.2) s.errs }
  else s

/-- A landing takes an open write port in cycle t. It signals its counter while the Segment that asked for it runs (R183). -/
def landAt (s : State) (l : Landing) (t : Nat) : State :=
  let s := touch s t
  let s := { s with claims := mkClaim s l.core .load l.local_ t true :: s.claims }
  if l.dark || bankAt s l.core l.local_ != .on then
    dropLands (raiseLand s l.loc l.part l.blk ⟨.darkWrite, scratchDetail l.core l.local_ 0 0 1, t⟩) t (fun x => x.id == l.id)
  else match landBytes s l with
    | none => dropLands (raiseLand s l.loc l.part l.blk (packFault s l t)) t
        (fun x => match badPack s l with | some p => (packIds x).contains p.id | none => x.id == l.id)
    | some bs =>
      let g := rowNo l.core l.local_
      let hit := guarded s l.core l.local_ && (getRow s g).rds.contains t
      let s := addUse (scrubCancel (pendReads t s g) g t) g t (.land (l.local_ % 128) bs)
      let s := if inSegment s l.part l.blk then blockUsed (addCtr s l.core l.sc t 1) l.core .load l.blk t else s
      let s := dropPacks { s with lands := s.lands.filter (fun x => x.id != l.id) }
      let s := if hit then raiseLand s l.loc l.part l.blk ⟨.guardConflict, scratchDetail l.core l.local_ 0 0 1, t⟩ else s
      tryEnd s l.core .load t

/-- LANDING (R27, R132): landing `id` in cycle c of the Beat; it waits where its bank's write port carries a claim, those of the passes that have issued by then
among them. -/
def goLanding (id c : Nat) (s : State) : Host.Outcome State Fault Refusal :=
  if c > 4127 then .fault .noSuchPoint
  else match s.lands.find? (fun l => l.id == id) with
    | none => .next s
    | some l =>
      let t := s.beat.start + c
      let s := settleCore s l.core t
      if landReady s l && landTurn s l && !portTaken s (portNo l.core l.local_ true) t then .next (landAt s l t) else .next s

/-! ### Store reads (R133, R291, R263) -/

/-- R133: store reads of one bank take its port in the order of their requests. -/
def storeTurn (s : State) (r : StoreReq) : Bool :=
  match s.stores.find? (fun x => x.core == r.core && bankOf x.local_ == bankOf r.local_) with
  | some x => x.id == r.id
  | none => false

/-- A store request is over, with the Granule writes that wait for its row. -/
def dropStores (s : State) (q : StoreReq → Bool) : State :=
  let ids := (s.stores.filter q).map StoreReq.id
  { s with stores := s.stores.filter (fun x => !q x),
           stk := { s.stk with greqs := s.stk.greqs.filter (fun r => match r.wr with
             | some (_, bs) => !(bs.isEmpty && ids.contains r.land)
             | none => true) } }

/-- Where the bytes of a store go: its Granule writes to the stacks (R291), or one posted write to the host. -/
def storeOut (s : State) (r : StoreReq) (bs : List Byte) : State :=
  match r.dst with
  | .stack _ _ =>
    { s with stk := { s.stk with greqs := s.stk.greqs.map (fun q => match q.wr with
      | some (tag, []) => if q.land == r.id then { q with wr := some (tag, (bs.drop q.off).take 32) } else q
      | _ => q) } }
  | .host a => dataWrite s (tagQueue r.part) (BitVec.ofNat 64 a) bs

/-- STORE_READ (R27, R132, R133): the row of a store request read in cycle c; it waits where the bank's read port carries a claim. -/
def goStoreRead (id c : Nat) (s : State) : Host.Outcome State Fault Refusal :=
  if c > 4127 then .fault .noSuchPoint
  else match s.stores.find? (fun r => r.id == id) with
    | none => .next s
    | some r =>
      let t := s.beat.start + c
      let s := settleCore s r.core t
      if !storeTurn s r || portTaken s (portNo r.core r.local_ false) t then .next s
      else
        let s := touch s t
        match doReads r.core .store none (spanReads r.local_ r.len t) s with
        | (s1, some f) =>
          .next (raiseLand (dropStores (locate r.loc s.flt.next s.claims.length s1) (fun x => x.id == id)) r.loc (tagPart r.part) r.blk f)
        | (s1, none) =>
          let s1 := locate r.loc s.flt.next s.claims.length s1
          let bs := readSpan s1 r.core r.local_ r.len t
          let s2 := { storeOut s1 r bs with stores := s1.stores.filter (fun x => x.id != id) }
          let s3 := match r.dig with
            | some (n, off) => match getDig s2 r.core n with
              | some d => putDig s2 r.core n (some { d with bytes := memWrite d.bytes off bs })
              | none => s2
            | none => s2
          .next (tryEnd (blockUsed s3 r.core .store r.blk t) r.core .store t)

/-! ### Stack pipelines (R290, R291, R304) -/

/-- Serve the first request that a test picks: a write is taken out, a read is marked with what its burst reads. -/
def serveFirst (q : GReq → Bool) (rd : GReq → List Byte) : List GReq → Option GReq × List GReq
  | [] => (none, [])
  | r :: rs =>
    if q r then (some r, if r.wr.isSome then rs else { r with served := true, data := rd r } :: rs)
    else ((serveFirst q rd rs).1, r :: (serveFirst q rd rs).2)

/-- A request of a core that waits for a slot on a pseudo-channel. -/
def waitsOn (s : State) (core pch : Nat) (r : GReq) : Bool := r.core == core && r.g % stackP s.build == pch && !r.served

/-- R290: some core has a slot on the Granule's pseudo-channel and no request for it, so that the slot may carry a management access. -/
def mgmtSlot (s : State) (g : Nat) : Bool :=
  (List.range s.build.ncore).any (fun c => !s.stk.greqs.any (waitsOn s c (g % stackP s.build)))

/-- The Load request a landing or packed block belongs to. -/
def reqLand (s : State) (r : GReq) : Option Landing :=
  s.lands.find? (fun l => if r.packed then (packIds l).contains r.land else l.id == r.land)

/-- Data of a read request passed to its landing or packed block. -/
def deliver (s : State) (r : GReq) (bs : List Byte) : State :=
  let fill (d : List Byte) : List Byte := splice d r.off bs
  if r.packed then
    { s with stk := { s.stk with packs := s.stk.packs.map (fun p =>
      if p.id == r.land then { p with data := fill p.data, need := p.need - 1 } else p) } }
  else { s with lands := s.lands.map (fun l => if l.id == r.land then { l with data := fill l.data, need := l.need - 1 } else l) }

/-- Take out the first request a test picks. -/
def takeFirst {α : Type} (q : α → Bool) : List α → Option α × List α
  | [] => (none, [])
  | r :: rs => if q r then (some r, rs) else ((takeFirst q rs).1, r :: (takeFirst q rs).2)

/-! ### The built-in Segments of COPY and FILL (R274, R290, R295) -/

/-- The core whose Load and Store engines move the bytes of a COPY or FILL: the partition's first (log 16). -/
def bulkCore (s : State) (p : Nat) : Nat := ((getPart s p).cores.head?).getD 0

/-- A built-in Segment whose bytes are all there writes them: Granule writes in its core's stack slots, or one posted write. -/
def bulkWrite (s : State) (p : Nat) : State :=
  match runningSeg s p with
  | none => s
  | some g => match g.bulk with
    | none => s
    | some x =>
      if x.need != 0 || x.done then s
      else
        let put (r : GReq) : GReq := { r with wr := r.wr.map (fun w => (w.1, (x.data.drop r.off).take 32)) }
        let s := match x.dst with
          | .stack _ _ => { s with stk := { s.stk with
              greqs := s.stk.greqs ++ (writeReqs (bulkCore s p) (segTag s p) x.id x.data.length x.dst).map put } }
          | .host a => if x.data == [] then s else dataWrite s g.q (BitVec.ofNat 64 a) x.data
        modSeg s p (fun g => { g with bulk := some { x with done := true }, roots := [(0, treeRoot x.data)] })

/-- The partition whose built-in Segment made a request. -/
def bulkPart (s : State) (r : GReq) : Option Nat :=
  (s.parts.find? (fun p => match p.2.seg.bind Seg.bulk with | some x => x.id == r.land && !x.done | none => false)).map Prod.fst

/-- R291: a Granule that a COPY reads comes in: its record, its fault against the built-in Segment, or its bytes. -/
def bulkData (s : State) (p : Nat) (r : GReq) (e : SymErr) : State :=
  let det := stackDetail r.g e false
  if e.n == 2 || e.n == 3 then raiseSeg s p ⟨.stackUe, det, s.now⟩ none
  else
    let s := if e.n == 1 then raiseSeg s p ⟨.stackCe, det, s.now⟩ none else s
    let bs := if e.n ≥ 4 then (List.range 32).map (fun i => Config.stackBad r.g i) else r.data
    bulkWrite (modSeg s p (fun g => { g with bulk := g.bulk.map (fun x => { x with data := splice x.data r.off bs, need := x.need - 1 }) })) p

/-- R184: the reads of an aborted built-in Segment that are still out are dropped. -/
def dropBulk (s : State) (p : Nat) : State :=
  match ((getPart s p).seg.bind Seg.bulk) with
  | some x => { s with stk := { s.stk with greqs := s.stk.greqs.filter (fun r => r.wr.isSome || r.packed || r.land != x.id) } }
  | none => s

/-- STACK_READ_DATA (R291): the data of a served read, as its burst found it. -/
def execStackReadData (g : Nat) (err : SymErr) (s : State) : Host.Outcome State Fault Refusal :=
  match takeFirst (fun r => r.g == g && r.served) s.stk.greqs with
  | (none, _) => .next s
  | (some r, rest) =>
    let e := foundErr s g err
    let s := { s with stk := { s.stk with greqs := rest } }
    match reqLand s r with
    | none => .next (match bulkPart s r with | some p => bulkData s p r e | none => s)
    | some l =>
      let det := stackDetail g e false
      if e.n == 2 || e.n == 3 then
        .next (dropLands (raiseLand s l.loc l.part l.blk ⟨.stackUe, det, s.now⟩) s.now
          (fun x => if r.packed then (packIds x).contains r.land else x.id == r.land))
      else
        let s := if e.n == 1 then raiseLand s l.loc l.part l.blk ⟨.stackCe, det, s.now⟩ else s
        .next (deliver s r (if e.n ≥ 4 then (List.range 32).map (fun i => Config.stackBad g i) else r.data))

end Sys2Proof.Machine
end

