-- ==== Sys2Proof/Machine/Objects.lean ====
section
/-!
DEFINITION. Objects.lean: resident queues, completion records, Events and signals, contexts, quotas, and their commands: CTX_*, Q_*,
EVT_FREE, HQ_DB, HQ_OVF_KICK, OVF_SCAN, QUEUE_RESIDENCY, EVENT_SIGNAL, EVENT_ABANDON, QUOTA_RESET (R254 to R273, R278 to R283).
-/

namespace Sys2Proof.Machine

/-! ### Queue slots -/

/-- Slot n of the scheduler. -/
def getSlot (s : State) (n : Nat) : Option QSlot := smGet none s.host.slots n
/-- Replace slot n. -/
def setSlot (s : State) (n : Nat) (v : Option QSlot) : State :=
  { s with host := { s.host with slots := smSet none s.host.slots n v } }
/-- The slot that holds queue q. -/
def slotOf (s : State) (q : Nat) : Option Nat :=
  (s.host.slots.find? (fun e => match e.2 with | some x => x.q == q | none => false)).map Prod.fst
/-- Queue q where it is resident. -/
def queueAt (s : State) (q : Nat) : Option QSlot := (slotOf s q).bind (getSlot s)
/-- Change a resident queue. -/
def modQueue (s : State) (q : Nat) (f : QSlot → QSlot) : State :=
  match slotOf s q with
  | some n => setSlot s n ((getSlot s n).map f)
  | none => s
/-- Change a fetched command. -/
def modCmd (s : State) (q : Nat) (seq : W32) (f : Cmd → Cmd) : State :=
  modQueue s q (fun x => { x with cmds := x.cmds.map (fun c => if c.seq == seq then f c else c) })
/-- A fetched command. -/
def cmdAt (s : State) (q : Nat) (seq : W32) : Option Cmd := (queueAt s q).bind (fun x => x.cmds.find? (fun c => c.seq == seq))

/-- A context. -/
def getCtx (s : State) (id : Nat) : Ctx := smGet ⟨.free, 0, false, 0⟩ s.host.ctxs id
/-- Replace a context. -/
def setCtx (s : State) (id : Nat) (c : Ctx) : State :=
  { s with host := { s.host with ctxs := smSet ⟨.free, 0, false, 0⟩ s.host.ctxs id c } }

/-- The byte address of a field of a queue record (Table 11.4). -/
def qField (s : State) (q k : Nat) : W64 := liveReg64 s rHQ_Q_BASE + BitVec.ofNat 64 (128 * q + k)

/-- The engine writes STOPPED of a queue record (Table 11.4). -/
def postStopped (s : State) (q : Nat) (v : Bool) : State := post s (.setBit (qField s q 25) 3 v)

/-- R36, R273: a resident queue stops fetching. -/
def stopQueue (s : State) (q : Nat) : State :=
  match queueAt s q with
  | some x => if x.qr.stopped then modQueue s q (fun x => { x with stopReq := false })
    else postStopped (modQueue s q (fun x => { x with qr := { x.qr with stopped := true }, stopReq := false })) q true
  | none => s

/-- R36: a resident queue stops at a command: it fetches nothing and starts no later command. -/
def haltQueue (s : State) (q : Nat) : State := modQueue (stopQueue s q) q (fun x => { x with halted := true })

/-! ### Failing a command (R36, R279, R393) -/

/-- HOLDPUB of a command's TFLAGS (R276, R279). -/
def isHold (c : Cmd) : Bool :=
  match c.body with
  | .run _ _ _ => c.hdr.tflags.getLsbD 4
  | .copy _ => c.hdr.tflags.getLsbD 4
  | .fill _ => c.hdr.tflags.getLsbD 4
  | _ => false

/-- A PUBLISH command. -/
def isPublish (c : Cmd) : Bool := match c.body with | .publish => true | _ => false

/-- The command is over. -/
def isOver (c : Cmd) : Bool := match c.stage with | .ended _ _ => true | .counting _ => true | _ => false

/-- The commands of the publication group open at position `seq`: from the last PUBLISH before it to the next one (R279). -/
def groupSeqs (cs : List Cmd) (seq : W32) : List W32 :=
  let i := cs.findIdx (fun c => c.seq == seq)
  let before := ((cs.take i).reverse.takeWhile (fun c => !isPublish c)).filter isHold
  let after := cs.drop (i + 1)
  let mid := (after.takeWhile (fun c => !isPublish c)).filter isHold
  let pub := (after.dropWhile (fun c => !isPublish c)).take 1
  (before ++ mid ++ pub).map Cmd.seq

/-- R279: a failed member of a publication group: the others and the PUBLISH complete with GROUP_ABORT. One whose Segment runs retires after it. -/
def failGroup (s : State) (q : Nat) (seq : W32) : State :=
  match queueAt s q with
  | none => s
  | some x =>
    if !(x.cmds.any (fun c => c.seq == seq && isHold c)) then s
    else
      let g := groupSeqs x.cmds seq
      let open_ := !(x.cmds.any (fun c => isPublish c && g.contains c.seq))
      modQueue s q (fun x => { x with
        grpBad := open_,
        cmds := x.cmds.map (fun c => if g.contains c.seq && !isOver c then { c with stage := .ended 6 .none } else c) })

/-- A command is over with a status; a status that stops the queue stops it (Table 11.12). -/
def endCmd (s : State) (q : Nat) (seq : W32) (status : Nat) (idx : FltIdx) (stop : Bool) : State :=
  let s := modCmd s q seq (fun c => { c with stage := .ended status idx })
  let s := if status == 0 then s else failGroup s q seq
  if stop then haltQueue s q else s

/-- The record of a command's fault (R394): its partition and no location, so that the Context of Table 9.6 reads zero. -/
def cmdRec (s : State) (q : Nat) (f : Flt) : FRec := bareRec s f ((queueAt s q).map QSlot.part)

/-- R36: a command fails with a fault: its record enters, the command is over with FAULT, and its queue stops. -/
def failCmd (s : State) (q : Nat) (seq : W32) (f : Flt) : State :=
  let s' := enterRec (cmdRec s q f) s
  endCmd s' q seq 1 (idxOf s s') true

/-! ### Events (R254 to R258) -/

/-- Index of an Event handle. -/
def evIdx (h : W32) : Nat := h.toNat % 2 ^ 20
/-- Generation of an Event handle. -/
def evGen (h : W32) : BitVec 12 := BitVec.ofNat 12 (h.toNat / 2 ^ 20)

/-- A resident Event. -/
def getEvt (s : State) (i : Nat) : Option ResEvt := smGet none s.host.evts i
/-- Replace a resident Event. -/
def setEvt (s : State) (i : Nat) (e : Option ResEvt) : State :=
  { s with host := { s.host with evts := smSet none s.host.evts i e } }

/-- The byte address of a field of an Event record (Table 10.8). -/
def evField (s : State) (i k : Nat) : W64 := liveReg64 s rHQ_EVT_BASE + BitVec.ofNat 64 (32 * i + k)

/-- Code of an Event's STATE (Table 10.8). -/
def evStCode : EvSt → Nat
  | .free => 0 | .live => 1 | .abandoned => 2

/-- R255: the write-back of a changed Event: VALUE as one 8-byte write, then CREDIT, STALE, TICKET and the byte that holds STATE. -/
def writeBack (s : State) (i : Nat) (e : EvtRec) : State :=
  let s := pfWrite s (evField s i 0) (natLe 8 e.value.toNat)
  let s := pfWrite s (evField s i 8) (natLe 4 e.credit.toNat ++ natLe 4 e.stale.toNat ++ natLe 4 e.ticket.toNat)
  pfWrite s (evField s i 22) (natLe 1 ((if e.counted then 1 else 0) + (if e.notify then 2 else 0) + 4 * evStCode e.st))

/-- Saturating increment (R256). -/
def satInc (v : W32) : W32 := if v == 0xFFFFFFFF then v else v + 1

/-- R257: the waiter's threshold is reached. -/
def waitReached (e : EvtRec) (w : Waiter) : Bool := reached (e.value.truncate 32) w.thresh

/-- The reached waiter with the lowest ticket in serial order (R258). -/
def lowestTicket (e : EvtRec) (ws : List Waiter) : Option Waiter :=
  (ws.filter (waitReached e)).foldl (fun m w => match m with
    | none => some w
    | some x => if (w.ticket - x.ticket).toInt < 0 then some w else some x) none

/-- R258: release: the record, the waiters that stay and the waiters set free. -/
def releaseEvt : Nat → EvtRec → List Waiter → EvtRec × List Waiter × List Waiter
  | 0, e, ws => (e, ws, [])
  | n + 1, e, ws =>
    if !e.counted then (e, ws.filter (fun w => !waitReached e w), ws.filter (waitReached e))
    else if e.credit == 0 then (e, ws, [])
    else match lowestTicket e ws with
      | none => (e, ws, [])
      | some w =>
        let (e', rest, out) := releaseEvt n { e with credit := e.credit - 1 } (ws.filter (fun x => x != w))
        (e', rest, w :: out)

/-- A released WAIT of a queue: its command is over and its wait gone. ABANDONED stops the queue (Table 11.12). -/
def freeWaiter (status : Nat) (s : State) (w : Waiter) : State :=
  match queueAt s w.q with
  | none => s
  | some x =>
    let s := modQueue s w.q (fun x => { x with wait := none })
    match x.cmds.head? with
    | some c => endCmd s w.q c.seq status .none (status != 0)
    | none => s

/-- R255: store a changed resident Event, the most recently changed one now, and write it back. -/
def changeEvt (s : State) (i : Nat) (e : EvtRec) (ws : List Waiter) : State :=
  { writeBack (setEvt s i (some ⟨e, ws, s.nextId⟩)) i e with nextId := s.nextId + 1 }

/-- Store a changed resident Event and free the waiters it releases (R258). -/
def settle (s : State) (i : Nat) (e : EvtRec) (ws : List Waiter) : State :=
  let (e', rest, out) := releaseEvt (ws.length + 1) e ws
  out.foldl (freeWaiter 0) (changeEvt s i e' rest)

/-- The partition whose quota an Event counts under (R255). -/
def evtPart (s : State) (e : EvtRec) : Nat := (getCtx s e.owner).part

/-- PART_QUOTAn word 2: QCTX, QQUE, QEVT (Table 18.7). -/
def quotaSlots (s : State) (p : Nat) : Nat × Nat × Nat :=
  let v := (liveReg s (rPART p 0x18)).toNat
  (bitsOf v 0 7, bitsOf v 8 6, bitsOf v 16 9)

/-- Resident Events of a partition. -/
def evtUse (s : State) (p : Nat) : Nat :=
  (s.host.evts.filter (fun e => match e.2 with | some x => evtPart s x.er == p | none => false)).length

/-- The least recently changed unpinned resident Event that a test picks (R255). -/
def oldestEvt (s : State) (q : ResEvt → Bool) : Option Nat :=
  (s.host.evts.foldl (fun (m : Option (Nat × Nat)) e => match e.2 with
    | some x => if x.waiters == [] && q x then (match m with
        | some y => if x.stamp < y.2 then some (e.1, x.stamp) else some y
        | none => some (e.1, x.stamp)) else m
    | none => m) none).map Prod.fst

/-- R255: make an Event resident from its record; none while no slot can be had. -/
def makeResident (s : State) (i : Nat) (e : EvtRec) : Option State :=
  if (getEvt s i).isSome then some s
  else
    let p := evtPart s e
    let put (s : State) : State := { setEvt s i (some ⟨e, [], s.nextId⟩) with nextId := s.nextId + 1 }
    if evtUse s p ≥ (quotaSlots s p).2.2 then
      (oldestEvt s (fun x => evtPart s x.er == p)).map (fun j => put (setEvt s j none))
    else if s.host.evts.length ≥ 256 then (oldestEvt s (fun _ => true)).map (fun j => put (setEvt s j none))
    else some (put s)

/-- MSI-X of an Event with NOTIFY: the function of the owning context's partition (R256, R262). -/
def notifyEvt (s : State) (e : EvtRec) : State := if e.notify then post s (.msix (evtPart s e + 1) e.vec) else s

/-- R256: signal(ev, s) on a resident Event. -/
def signalEvt (s : State) (i : Nat) (v : W64) : State :=
  match getEvt s i with
  | none => s
  | some x =>
    let e := x.er
    if e.st != .live then settleStale s i x
    else
      let d : W32 := v.truncate 32 - e.value.truncate 32
      if d == 0 then s
      else if d.toNat ≥ 0x80000000 then settleStale s i x
      else
        let e := { e with value := e.value + d.zeroExtend 64, credit := if e.counted then satInc e.credit else e.credit }
        notifyEvt (settle s i e x.waiters) e
where
  /-- A signal ignored and counted (R256). -/
  settleStale (s : State) (i : Nat) (x : ResEvt) : State :=
    changeEvt s i { x.er with stale := satInc x.er.stale } x.waiters

/-- R254: a handle agrees with a record. -/
def evtMatch (h : W32) (e : EvtRec) : Bool := e.gen == evGen h && e.st != .free && h != 0

/-- R255: the signals to one Event go behind those to others, so that a signal that waits for an Event slot holds up none but its own Event's.
The signals to one Event stay in order of arrival (R256). -/
def deferSigs (i : Nat) (l : List SigReq) : List SigReq :=
  l.filter (fun g => evIdx g.evt != i) ++ l.filter (fun g => evIdx g.evt == i)

/-- EVENT_SIGNAL (R254 to R256): the foremost signal under way is applied; `rec` is the record as read when the Event is not resident. A signal
that finds no Event slot waits, and the signals to other Events come before it. -/
def execEventSignal (rec : EvtRec) (s : State) : Host.Outcome State Fault Refusal :=
  match s.host.sigs with
  | [] => .next s
  | g :: rest =>
    let i := evIdx g.evt
    let e := match getEvt s i with | some x => x.er | none => rec
    let s1 := { s with host := { s.host with sigs := rest } }
    if !evtMatch g.evt e then .next (note s1 ⟨.evtDropped, reasonDetail 0 0 g.evt.toNat, s.now⟩ none)
    else match makeResident s1 i rec with
      | none => .next { s with host := { s.host with sigs := deferSigs i s.host.sigs } }
      | some s2 => .next (signalEvt s2 i g.val)

/-- R259: a resident Event becomes ABANDONED and frees its waiters with that status. It leaves its slot, as the reset of its context frees
slots (R283). -/
def abandonEvt (s : State) (i : Nat) : State :=
  match getEvt s i with
  | some x =>
    if x.er.st != .live then s
    else x.waiters.foldl (freeWaiter 5) (setEvt (writeBack s i { x.er with st := .abandoned }) i none)
  | none => s

/-- EVENT_ABANDON (R259): an Event of a context whose reset was accepted; `rec` its record when it is not resident. -/
def execEventAbandon (idx : Nat) (rec : EvtRec) (s : State) : Host.Outcome State Fault Refusal :=
  let e := match getEvt s idx with | some x => x.er | none => rec
  if e.st != .live || !s.host.abandon.any (fun a => a.1 == e.owner) then .next s
  else match getEvt s idx with
    | some _ => .next (abandonEvt s idx)
    | none => .next (writeBack s idx { rec with st := .abandoned })

/-- R257: register a queue on a resident Event with a ticket; an ABANDONED Event releases it at once. -/
def registerWait (s : State) (q i : Nat) (w : WaitRec) (fresh : Bool) : State :=
  match getEvt s i with
  | none => s
  | some x =>
    let tk := if fresh then x.er.ticket else w.ticket
    let e := if fresh then { x.er with ticket := x.er.ticket + 1 } else x.er
    let wt : Waiter := ⟨q, w.thresh, tk⟩
    let s := modQueue s q (fun y => { y with wait := some { w with ticket := tk } })
    if e.st != .live then freeWaiter 5 (changeEvt s i e x.waiters) wt
    else settle s i e (x.waiters ++ [wt])

/-! ### Completion (R278, Tables 11.11, 11.12) -/

/-- Type code of a command (Table 11.8). -/
def typeCode : CmdBody → Nat
  | .run _ _ _ => 1 | .copy _ => 2 | .fill _ => 3 | .signal => 4 | .wait _ _ => 5 | .publish => 6 | .loadSlot _ => 7
  | .mapExtent _ => 8 | .mapRegion _ => 8 | .mapSeal _ => 8 | .unmap _ => 9 | .query _ _ => 10

/-- The FLTIDX word: the SEQ with which the record entered (R397). -/
def fltWord (f : FltSt) : FltIdx → W32
  | .seq n => seqOf f n | .lost => 0xFFFFFFFE | .none => 0xFFFFFFFF

/-- A count is nonzero (Table 3.9). -/
def anyCount (c : PCounts) : Bool := c != zeroCounts

/-- The completion record (Table 11.11): bytes 0 to 23, then bytes 24 to 31. -/
def completion (f : FltSt) (c : Cmd) (status : Nat) (idx : FltIdx) (b : W64) : List Byte × List Byte :=
  (natLe 8 c.hdr.cmdid.toNat ++ natLe 2 status ++ natLe 1 c.hdr.type
    ++ natLe 1 ((if anyCount c.cnt then 1 else 0) + (if c.taint then 2 else 0)) ++ natLe 4 (fltWord f idx).toNat ++ natLe 8 b.toNat,
   natLe 4 0 ++ natLe 4 c.seq.toNat)

/-- Ring slot of an entry count. -/
def ringSlot (x : QRec) (seq : W32) : Nat := seq.toNat % 2 ^ x.log2size

/-- The COUNT words of a command's listed objects (R278). -/
def countAddrs (c : Cmd) : List W64 :=
  match c.body with
  | .run _ ab _ => (ab.objs.map (fun o => o.count)).filter (fun a => a != 0)
  | _ => []

/-- The last act of a retirement: the command leaves its queue, and with status OK and SIGEN its signal goes out. -/
def popFront (s : State) (q : Nat) (c : Cmd) (status : Nat) : State :=
  let s := modQueue s q (fun x => { x with cmds := x.cmds.tail })
  if status == 0 && c.hdr.sigen then
    { s with host := { s.host with sigs := s.host.sigs ++ [⟨c.hdr.evt, c.hdr.evval⟩] } }
  else s

/-- R278: commands at the front whose records are written and whose FetchAdds are complete leave, in order. -/
def popReady : Nat → State → Nat → State
  | 0, s, _ => s
  | n + 1, s, q => match (queueAt s q).bind (fun x => x.cmds.head?) with
    | some c => match c.stage with
      | .counting k => if k % 65536 == 0 then popReady n (popFront s q c (k / 65536)) q else s
      | _ => s
    | none => s

/-- The first command of a queue whose completion record is not written. -/
def frontCmd (x : QSlot) : Option Cmd := x.cmds.find? (fun c => match c.stage with | .counting _ => false | _ => true)

/-- R278: the completion record of an entry of a queue record, written for function `fn` as two posted writes in order. -/
def putCompletion (s : State) (fn : Nat) (x : QRec) (c : Cmd) (status : Nat) (idx : FltIdx) : State :=
  let base := x.cpl + BitVec.ofNat 64 (32 * ringSlot x c.seq)
  let (b1, b2) := completion s.flt c status idx s.beat.b
  post (post s (.write fn false base b1)) (.write fn false (base + 24) b2)

/-- R278: retire a command with a status: completion record, DONE, FetchAdds of a REFCOUNT context, signal. -/
def retireCmd (s : State) (q : Nat) (c : Cmd) (status : Nat) (idx : FltIdx) : State :=
  match queueAt s q with
  | none => s
  | some x =>
    let s := putCompletion s (fnOf x) x.qr c status idx
    let done := x.qr.done + 1
    let s := modQueue s q (fun y => { y with qr := { y.qr with done := done } })
    let s := pfWrite s (qField s q 40) (natLe 4 done.toNat)
    let as := if c.refc then countAddrs c else []
    let s := as.foldl (fun s a =>
      { post s (.fetchAdd (fnOf x) a 0xFFFFFFFFFFFFFFFF) with
        host := { s.host with atoms := s.host.atoms ++ [⟨s.nextId, q, c.seq, a⟩] }, nextId := s.nextId + 1 }) s
    popReady (x.cmds.length + 1) (modCmd s q c.seq (fun c => { c with stage := .counting (as.length + 65536 * status) })) q

/-- Retire the front command of a queue. -/
def retireFront (s : State) (q : Nat) (status : Nat) (idx : FltIdx) : State :=
  match (queueAt s q).bind frontCmd with
  | some c => retireCmd s q c status idx
  | none => s

/-- R278: a FetchAdd of a command has completed; after the last one the command may leave. -/
def atomDone (s : State) (a : Atom) : State :=
  let s := { s with host := { s.host with atoms := s.host.atoms.filter (fun x => x.id != a.id) } }
  let s := modCmd s a.q a.seq (fun c => match c.stage with
    | .counting n => { c with stage := .counting (n - 1) }
    | _ => c)
  match queueAt s a.q with
  | some x => popReady (x.cmds.length + 1) s a.q
  | none => s

/-- R397: the record of a failed command has left the buffer or was lost. -/
def fltOut (s : State) : FltIdx → Bool
  | .seq n => !s.flt.buf.any (fun r => r.id == n)
  | _ => true

/-- A status that stops its queue (Table 11.12). -/
def stopsQueue (c : Cmd) : Bool :=
  match c.stage with
  | .ended 1 _ => true
  | .ended 5 _ => true
  | .ended 3 idx => idx != .none
  | _ => false

/-- A WAIT command. -/
def isWait (c : Cmd) : Bool := match c.body with | .wait _ _ => true | _ => false

/-- R36, R257: the queue has not stopped at a command before the one given, nor does a WAIT before it stand: it stops at a failed command and starts
no later one, and what follows a WAIT follows its release. A queue that Q_STOP stopped only fetches no more (R273). -/
def mayStart (x : QSlot) (seq : W32) : Bool :=
  let i := x.cmds.findIdx (fun c => c.seq == seq)
  !(x.cmds.take i).any (fun c => stopsQueue c || (isWait c && !isOver c)) && (!x.halted || (x.cmds.drop (i + 1)).any stopsQueue)

/-! ### Aborting work (R184, R280) -/

/-- An empty command of a header and body as fetched by a queue. -/
def mkCmd (s : State) (x : QSlot) (seq : W32) (h : CmdHdr) (body : CmdBody) : Cmd :=
  { seq := seq, hdr := h, body := body, stage := .queued, fetched := s.beat.b, ctx := x.qr.context, refc := (getCtx s x.qr.context).refcount, segIdx := 0, beat0 := none,
    cnt := zeroCounts, taint := false, slottaint := false, linked := false, outs := [], ins := [], cbs := [], ois := [], ans := [],
    jobs := 0, resRoots := none, arch := [], value := none, peer := none, diverged := false, dvIdx := .none, dvNo := 0, sdigs := [] }


/-- Abort the running Segment of a partition with a completion status, unless it is being aborted already. -/
def abortSeg (s : State) (p status : Nat) (idx : FltIdx) : State :=
  modSeg s p (fun g => if g.abort.isSome then g else { g with abort := some ⟨idx, [], s.beat.b⟩, status := status })

/-- A command has not started: it may still be completed without an abort. -/
def notStarted (c : Cmd) : Bool := c.stage == .queued && c.segIdx == 0

/-- A command that has begun and whose record is not written: its Segment, or a boundary between its Segments. -/
def inWork (c : Cmd) : Bool := !isOver c && !notStarted c

/-- R280: every fetched, unretired command of a queue is over with ABORTED, or its running Segment is aborted. -/
def abortQueue (s : State) (q : Nat) : State :=
  match queueAt s q with
  | none => s
  | some x =>
    let run := match (getPart s x.part).seg with
      | some g => if g.q == q then some g.seq else none
      | none => none
    let s := if run.isSome then abortSeg s x.part 2 .none else s
    let s := match x.wait with
      | some w => match getEvt s (evIdx w.evt) with
        | some e => setEvt s (evIdx w.evt) (some { e with waiters := e.waiters.filter (fun y => y.q != q) })
        | none => s
      | none => s
    modQueue s q (fun x => { x with
      wait := none, grpBad := false,
      cmds := x.cmds.map (fun c => if isOver c || run == some c.seq then c else { c with stage := .ended 2 .none }) })

/-- The resident queues of a context. -/
def ctxQueues (s : State) (id : Nat) : List Nat :=
  s.host.slots.filterMap (fun e => match e.2 with | some x => if x.qr.context == id then some x.q else none | none => none)

/-- R268, R278: a queue leaves its slot: HEAD, DONE and the saved wait go back to the record, HEAD as given. -/
def leaveSlot (s : State) (n : Nat) (x : QSlot) (head : W32) : State :=
  let w := x.wait.getD ⟨0, 0, 0⟩
  let s := pfWrite s (qField s x.q 36) (natLe 4 head.toNat ++ natLe 4 x.qr.done.toNat)
  let s := pfWrite s (qField s x.q 48) (natLe 4 w.ticket.toNat ++ natLe 4 w.thresh.toNat ++ natLe 4 w.evt.toNat
    ++ natLe 1 (if x.wait.isSome then 1 else 0))
  setSlot s n none

/-- R283: the slots that a reset has freed are left once their commands have retired. -/
def dropLeaving (s : State) : State :=
  s.host.slots.foldl (fun s e => match e.2 with
    | some x => if x.leaving && x.cmds == [] then leaveSlot s e.1 x x.qr.head else s
    | none => s) s

/-- R280: a queue of a reset context that is not resident, by its record: STOPPED is written, and the WAIT saved with it completes with ABORTED
and is saved no more. -/
def resetFound (s : State) (x : QFound) : State :=
  let y : QSlot := ⟨x.q, (getCtx s x.qr.context).part, x.qr, none, [], false, false, false, false⟩
  let s := postStopped s x.q true
  match x.qr.wait with
  | none => s
  | some w =>
    let s := putCompletion s (fnOf y) x.qr (mkCmd s y x.qr.done x.wh (.wait w.evt w.thresh)) 2 .none
    let s := pfWrite s (qField s x.q 40) (natLe 4 (x.qr.done + 1).toNat)
    pfWrite s (qField s x.q 60) (natLe 1 0)

/-- Queue records found for queues that are not resident and belong to a context. -/
def foundOf (s : State) (id : Nat) (qs : List QFound) : List QFound :=
  qs.filter (fun x => x.qr.context == id && (slotOf s x.q).isNone)

/-- R280, R283: reset a context: its resident queues abort, stop and free their slots; `qs` brings the records of those that are not resident. Its
Events are to be abandoned by (b + 2, 0). -/
def resetCtx (s : State) (id : Nat) (qs : List QFound) : State :=
  let s := (foundOf s id qs).foldl resetFound s
  let s := (ctxQueues s id).foldl (fun s q => modQueue (stopQueue (abortQueue s q) q) q (fun x => { x with leaving := true })) s
  dropLeaving { s with host := { s.host with abandon := s.host.abandon ++ [(id, s.beat.b)] } }

/-- A Segment of a context runs, or a command of it has not retired. -/
def ctxRuns (s : State) (id : Nat) : Bool :=
  s.parts.any (fun p => match p.2.seg with | some g => g.ctx == id | none => false)
    || s.host.slots.any (fun e => match e.2 with | some x => x.cmds.any (fun c => c.ctx == id) | none => false)

/-- STATE codes of a context record. -/
def ctxCode : CtxSt → Nat
  | .free => 0 | .live => 1 | .destroying => 2

/-- The engine writes STATE of a context record (R265). -/
def postCtx (s : State) (id : Nat) (c : CtxSt) : State :=
  pfWrite s (liveReg64 s rHQ_CTX_BASE + BitVec.ofNat 64 (64 * id)) (natLe 1 (ctxCode c))

/-- R273: HEAD and DONE of a reset queue take TAIL, and STOPPED is cleared. -/
def postReset (s : State) (q : Nat) (tail : W32) : State :=
  postStopped (pfWrite (pfWrite s (qField s q 36) (natLe 4 tail.toNat)) (qField s q 40) (natLe 4 tail.toNat)) q false

/-- R273, R280: an operation under way ends when its commands have retired and its Events are abandoned, or its queue has stopped. -/
def finishOp (s : State) : State :=
  let clear (s : State) : State := { s with host := { s.host with op := none, opRes := 0 } }
  let s := dropLeaving s
  match s.host.op with
  | none => s
  | some (.ctx id destroy) =>
    if ctxRuns s id || s.host.abandon.any (fun a => a.1 == id) then s
    else if destroy then clear (postCtx (setCtx s id ⟨.free, 0, false, 0⟩) id .free)
    else clear s
  | some (.qreset q tail) =>
    match queueAt s q with
    | none => clear s
    | some x =>
      if (match (getPart s x.part).seg with | some g => g.q == q | none => false) || x.cmds != [] then s
      else
        clear (postReset (modQueue s q (fun x => { x with halted := false, qr := { x.qr with tail := tail, head := tail, done := tail, stopped := false } })) q tail)
  | some (.qstop q) =>
    match queueAt s q with
    | none => clear s
    | some x => if x.stopReq then s else clear s

/-! ### HQ_OP (R273, R280) -/

/-- R273: an HQ_OP write: ignored from a VF, dropped with OPLOST while BUSY. -/
def hqOp (f : Func) (s : State) (k : State → State) : Host.Outcome State Fault Refusal :=
  if !pfOn s f then .next s
  else if s.host.op.isSome then .next { s with host := { s.host with opLost := true } }
  else .next (k s)

/-- HQ_OPSTAT.RESULT. -/
def opResult (s : State) (r : Nat) : State := { s with host := { s.host with opRes := r } }

/-- CTX_CREATE (R280). -/
def execCtxCreate (f : Func) (id : Nat) (x : CtxRead) (s : State) : Host.Outcome State Fault Refusal :=
  hqOp f s (fun s =>
    if id ≥ 65536 then opResult s 1
    else if (getCtx s id).st != .free then opResult s 2
    else if x.body.rsvNZ then opResult s 3
    else if x.body.refcount && !x.atomicEn then opResult s 4
    else opResult (postCtx (setCtx s id ⟨.live, x.body.part, x.body.refcount, x.body.priority⟩) id .live) 0)

/-- CTX_RESET and CTX_DESTROY; `qs` are the records of the context's queues that are not resident. -/
def ctxOp (f : Func) (id : Nat) (destroy : Bool) (qs : List QFound) (s : State) : Host.Outcome State Fault Refusal :=
  hqOp f s (fun s =>
    if id ≥ 65536 then opResult s 1
    else if (getCtx s id).st != .live then opResult s 2
    else
      let s := resetCtx s id qs
      let s := if destroy then postCtx (setCtx s id { getCtx s id with st := .destroying }) id .destroying else s
      { s with host := { s.host with op := some (.ctx id destroy) } })

/-- CTX_DESTROY (R280). -/
def execCtxDestroy (f : Func) (x : WithQs Nat) (s : State) : Host.Outcome State Fault Refusal := ctxOp f x.on true x.qs s
/-- CTX_RESET (R280). -/
def execCtxReset (f : Func) (x : WithQs Nat) (s : State) : Host.Outcome State Fault Refusal := ctxOp f x.on false x.qs s

/-- A Segment of queue q runs. -/
def queueRuns (s : State) (q : Nat) : Bool := s.parts.any (fun p => match p.2.seg with | some g => g.q == q | none => false)

/-- Q_STOP (R273): at the queue's next Segment boundary, until which BUSY holds. -/
def execQStop (f : Func) (q : Nat) (s : State) : Host.Outcome State Fault Refusal :=
  hqOp f s (fun s =>
    if q ≥ 65536 then opResult s 1
    else match queueAt s q with
      | none => opResult (postStopped s q true) 0
      | some _ =>
        if queueRuns s q then
          opResult { modQueue s q (fun x => { x with stopReq := true }) with host :=
            { (modQueue s q (fun x => { x with stopReq := true })).host with op := some (.qstop q) } } 0
        else opResult (stopQueue s q) 0)

/-- R268, R269, R273: a queue that is restarted or reset is a candidate again, unless it keeps its slot: the scheduler reads and checks its record. -/
def recheck (s : State) (q : Nat) : State :=
  { s with host := { s.host with
    badQ := smSet false s.host.badQ q false,
    cands := if s.host.cands.contains q || (queueAt s q).any (fun x => !x.leaving) then s.host.cands else s.host.cands ++ [q] } }

/-- Q_RESTART (R269, R273). -/
def execQRestart (f : Func) (q : Nat) (s : State) : Host.Outcome State Fault Refusal :=
  hqOp f s (fun s =>
    if q ≥ 65536 then opResult s 1
    else
      opResult (postStopped (modQueue (recheck s q) q (fun x => { x with qr := { x.qr with stopped := false }, stopReq := false, halted := false }))
        q false) 0)

/-- Q_RESET (R273): fetched entries complete ABORTED, and HEAD and DONE take the TAIL that was read. `x` is the record of a queue that is not
resident. -/
def execQReset (f : Func) (x : QFound) (tail : W32) (s : State) : Host.Outcome State Fault Refusal :=
  hqOp f s (fun s =>
    if x.q ≥ 65536 then opResult s 1
    else
      let s := recheck s x.q
      match queueAt s x.q with
      | none => opResult (postReset (resetFound s x) x.q tail) 0
      | some _ => finishOp (opResult { abortQueue s x.q with host := { (abortQueue s x.q).host with op := some (.qreset x.q tail) } } 0))

/-- R273: a Q_RESET of the queue is under way: until HEAD and DONE take TAIL nothing is fetched. -/
def resetting (s : State) (q : Nat) : Bool := match s.host.op with | some (.qreset q' _) => q' == q | _ => false

/-- EVT_FREE (R273). -/
def execEvtFree (f : Func) (idx : Nat) (rec : EvtRec) (s : State) : Host.Outcome State Fault Refusal :=
  hqOp f s (fun s =>
    if idx ≥ 2 ^ 20 then opResult s 1
    else
      let e := match getEvt s idx with | some x => x.er | none => rec
      let s := match getEvt s idx with
        | some x => x.waiters.foldl (freeWaiter 5) (setEvt s idx (some { x with waiters := [] }))
        | none => s
      let e' := { e with st := .free, gen := e.gen + 1 }
      let s := writeBack (setEvt s idx none) idx e'
      opResult (pfWrite s (evField s idx 24) (natLe 2 e'.gen.toNat)) 0)

/-- The engine is a primary with a twin. -/
def primarySide (s : State) : Bool := (s.twin.st == 2 || s.twin.st == 3) && s.twin.primary

/-! ### Doorbells and residency (R266 to R272) -/

/-- The partition of a VF. -/
def vfPart : Func → Option Nat
  | .vf n => some (n - 1)
  | _ => none

/-- R270: the tail a doorbell forms: t[15:0] given and 0 ≤ t − DONE < 2^16. -/
def dbTail (done : W32) (tail : BitVec 16) : W32 := done + (tail - done.truncate 16).zeroExtend 32

/-- R268, R270, R272: the engine marks a queue: its overflow bit by 64-bit CAS, or the on-chip pending set. -/
def markQueue (s : State) (q : Nat) : State :=
  if s.host.atomicEn then post s (.setBit (liveReg64 s rHQ_OVF_BASE + BitVec.ofNat 64 (q / 8)) (q % 8) true)
  else { s with host := { s.host with pendSet := smSet false s.host.pendSet q true } }

/-- R271, R272: the scheduler takes a queue in: its bit is cleared. -/
def unmarkQueue (s : State) (q : Nat) (hostBit : Bool) : State :=
  let s := { s with host := { s.host with pendSet := smSet false s.host.pendSet q false } }
  if s.host.atomicEn && hostBit then post s (.setBit (liveReg64 s rHQ_OVF_BASE + BitVec.ofNat 64 (q / 8)) (q % 8) false) else s

/-- R270: a doorbell that finds its queue in no slot is handled as though the driver had set the queue's bit. -/
def missDb (s : State) (q : Nat) : State :=
  { markQueue s q with host := { (markQueue s q).host with dbMiss := true, scanReq := true } }

/-- R270: the partition that a doorbell's queue belongs to: its slot's, or that of its context by its record; none where that context is FREE, so that
the queue belongs to no other partition than the VF's and its doorbell is one that misses (DEDUCED, log 15). -/
def dbPart (s : State) (q ctx : Nat) : Option Nat :=
  match queueAt s q with
  | some x => some x.part
  | none => if (getCtx s ctx).st == .free then none else some (getCtx s ctx).part

/-- HQ_DB (R270): DB_REJECT names the function and the queue. -/
def execHqDb (f : Func) (n : Nat) (d : DbQueue) (tail : BitVec 16) (s : State) : Host.Outcome State Fault Refusal :=
  let foreign : Bool := match vfPart f, dbPart s d.q d.ctx with | some v, some p => v != p | _, _ => false
  if !fnOn s f || d.be != 0xF then .next s
  else if foreign then .next (note s ⟨.dbReject, reasonDetail 0 (match f with | .vf v => v | _ => 0) d.q, s.now⟩ (vfPart f))
  else match getSlot s n with
    | some x =>
      if x.q == d.q then .next (modQueue s d.q (fun x => { x with qr := { x.qr with tail := dbTail x.qr.done tail } }))
      else .next (missDb s d.q)
    | none => .next (missDb s d.q)

/-- HQ_OVF_KICK (R271). -/
def execHqOvfKick (f : Func) (s : State) : Host.Outcome State Fault Refusal :=
  if fnOn s f then .next { s with host := { s.host with scanReq := true } } else .next s

/-- R271: a scan is due: a kick asked for it, or 256 Beats have passed since the last one. -/
def scanDue (s : State) : Bool := s.host.scanReq || decide ((s.beat.b - s.host.scanBeat).toNat ≥ 256)

/-- R271: a resident queue whose bit is found set: the bit is cleared, and TAIL is what is then read. -/
def rescan (bits : List Nat) (s : State) (t : Nat × BitVec 32) : State :=
  if (slotOf s t.1).isSome && (bits.contains t.1 || smGet false s.host.pendSet t.1) then
    modQueue (unmarkQueue s t.1 (bits.contains t.1)) t.1 (fun x => { x with qr := { x.qr with tail := t.2 } })
  else s

/-- OVF_SCAN (R271, R272): `bits` the queues whose host bit is set, `tails` the TAILs read of resident queues after their bits were cleared. The
marked queues that are not resident are candidates. -/
def execOvfScan (bits : List Nat) (atomicEn : Bool) (tails : List (Nat × BitVec 32)) (s : State) :
    Host.Outcome State Fault Refusal :=
  if !scanDue s then .next s
  else
    let s := { s with host := { s.host with atomicEn := atomicEn, scanReq := false, scanBeat := s.beat.b } }
    let marked := (bits ++ (s.host.pendSet.filter Prod.snd).map Prod.fst).eraseDups
    let fresh := marked.filter (fun q => (slotOf s q).isNone && !s.host.cands.contains q)
    .next (tails.foldl (rescan bits) { s with host := { s.host with cands := s.host.cands ++ fresh } })

/-- R269: the reason a queue record is not made resident; 0 for none. -/
def qFormReason (r : QRec) : Nat :=
  if r.log2size < 6 || r.log2size > 15 then 1
  else if r.ring.toNat % 4096 != 0 || r.cpl.toNat % 4096 != 0 || r.rpl.toNat % 4096 != 0 then 2
  else if r.rsvNZ then 3 else 0

/-- Serial difference TAIL − HEAD is positive: there are unfetched entries (R177, R267). -/
def unfetched (r : QRec) : Bool := r.tail != r.head && reached r.tail r.head

/-- Resident queues of a partition; a slot that a reset has freed does not count (R283). -/
def queueUse (s : State) (p : Nat) : Nat :=
  (s.host.slots.filter (fun e => match e.2 with | some x => x.part == p && !x.leaving | none => false)).length

/-- Contexts resident with a queue of a partition (R268). -/
def ctxUse (s : State) (p : Nat) : List Nat :=
  (s.host.slots.filterMap (fun e => match e.2 with
    | some x => if x.part == p && !x.leaving then some x.qr.context else none
    | none => none)).eraseDups

/-- R268: a queue record is eligible in partition p. -/
def eligible (s : State) (p : Nat) (r : QRec) : Bool :=
  r.enabled && r.validated && (getCtx s r.context).st == .live && (getCtx s r.context).part == p && (unfetched r || r.wait.isSome)

/-- R268: candidate `y` goes before `x`: eligible, and of higher PRIORITY or of the same and waiting longer. -/
def goesBefore (s : State) (p : Nat) (x y : QFound) : Bool :=
  let at_ (q : Nat) : Nat := s.host.cands.findIdx (· == q)
  y.q != x.q && eligible s p y.qr && qFormReason y.qr == 0 && !smGet false s.host.badQ y.q &&
    (x.qr.priority < y.qr.priority || (x.qr.priority == y.qr.priority && at_ y.q < at_ x.q))

/-- R268: `x` is the candidate of partition p to be made resident next, `others` holding the records of all other candidates. -/
def isNext (s : State) (p : Nat) (x : QFound) (others : List QFound) : Bool :=
  s.host.cands.contains x.q && !smGet false s.host.badQ x.q && (slotOf s x.q).isNone &&
    s.host.cands.all (fun q => q == x.q || others.any (fun y => y.q == q)) &&
    !others.any (fun y => s.host.cands.contains y.q && goesBefore s p x y)

/-- R268, R282: the partition's slot quotas leave room for a queue of a context. -/
def quotaRoom (s : State) (p ctx : Nat) : Bool :=
  let (qctx, qque, _) := quotaSlots s p
  decide (queueUse s p < qque) && ((ctxUse s p).contains ctx || decide ((ctxUse s p).length < qctx))

/-- R271, R272: the scheduler takes a candidate in: its bit is cleared before its record is read. -/
def takeIn (s : State) (q : Nat) : State :=
  let s := unmarkQueue s q true
  { s with host := { s.host with cands := s.host.cands.filter (· != q) } }

/-- R268, R269, R260: load the next candidate into a free slot. A record that fails its check, or is not eligible, is not made resident. -/
def loadQueue (s : State) (p n : Nat) (x : QFound) (ev : EvtRec) (others : List QFound) : State :=
  let rec_ := x.qr
  if n ≥ 48 || (getSlot s n).isSome || !isNext s p x others || (getCtx s rec_.context).part != p then s
  else if qFormReason rec_ != 0 then
    note (postStopped { takeIn s x.q with host := { (takeIn s x.q).host with badQ := smSet false s.host.badQ x.q true } } x.q true)
      ⟨.queueForm, reasonDetail (qFormReason rec_) 0 x.q, s.now⟩ (some p)
  else if !eligible s p rec_ then takeIn s x.q
  else if !quotaRoom s p rec_.context then s
  else
    let y : QSlot := ⟨x.q, p, { rec_ with wait := none }, none, [], false, false, false, false⟩
    let s1 := setSlot (takeIn s x.q) n (some y)
    match rec_.wait with
    | none => s1
    | some w =>
      let i := evIdx w.evt
      let s2 := modQueue s1 x.q (fun y => { y with cmds := [{ mkCmd s1 y rec_.done x.wh (.wait w.evt w.thresh) with stage := .running }] })
      let e := match getEvt s i with | some z => z.er | none => ev
      if !evtMatch w.evt e then freeWaiter 5 s2 ⟨x.q, w.thresh, w.ticket⟩
      else match makeResident s2 i ev with
        | none => s
        | some s3 => registerWait s3 x.q i w false

/-- A fetched command that an eviction may give back to the ring: nothing of it has begun (log 55). -/
def canUnfetch (c : Cmd) : Bool := notStarted c || (isPublish c && !isOver c)

/-- R268: a queue that may lose its slot: no Segment of it runs and no command of it is in work but a registered WAIT. -/
def canLeave (s : State) (x : QSlot) : Bool :=
  !queueRuns s x.q && !x.grpBad && !x.leaving && ((if x.wait.isSome then x.cmds.tail else x.cmds).all canUnfetch)
    && (!(primarySide s || twinSide s) || x.cmds.length ≤ (if x.wait.isSome then 1 else 0))

/-- R268: an idle queue: it waits on an Event or has nothing to fetch, and no fetched command. -/
def idleQueue (x : QSlot) : Bool := x.cmds.length ≤ (if x.wait.isSome then 1 else 0) && (x.wait.isSome || !unfetched x.qr)

/-- R268, R260: evict a slot: its wait is withdrawn and saved, commands that have not begun go back to the ring, and where TAIL as then read
differs from HEAD the queue's bit is set. A queue with a saved wait stays a candidate. -/
def evictSlot (s : State) (n : Nat) (x : QSlot) (tail : W32) : State :=
  let head := x.qr.done + (if x.wait.isSome then 1 else 0)
  let s := match x.wait with
    | some w => match getEvt s (evIdx w.evt) with
      | some e => setEvt s (evIdx w.evt) (some { e with waiters := e.waiters.filter (fun y => y.q != x.q) })
      | none => s
    | none => s
  let s := leaveSlot { s with host := { s.host with jobs := s.host.jobs.filter (fun j => j.q != x.q) } } n x head
  let s := if x.wait.isSome then { s with host := { s.host with cands := s.host.cands ++ [x.q] } } else s
  if tail != head then markQueue s x.q else s

/-- R268: slot n, of queue x, may be taken for candidate y of partition p: no free slot serves, and x is idle or of lower PRIORITY. -/
def mayTake (s : State) (p : Nat) (x : QSlot) (y : QFound) (others : List QFound) : Bool :=
  let py := (getCtx s y.qr.context).part
  isNext s py y others && eligible s py y.qr && canLeave s x && (idleQueue x || x.qr.priority < y.qr.priority) &&
    (if quotaRoom s py y.qr.context then (List.range 48).all (fun k => (getSlot s k).isSome) else py == p)

/-- QUEUE_RESIDENCY (R268): at a Segment boundary of partition p, when none of its Segments runs. -/
def execQueueResidency (p : Nat) (act : ResAct) (s : State) : Host.Outcome State Fault Refusal :=
  if (getPart s p).seg.isSome then .next s
  else match act with
    | .load n x ev others => .next (loadQueue s p n x ev others)
    | .evict n tail y others => match getSlot s n with
      | some x => if x.part == p && mayTake s p x y others then .next (evictSlot s n x tail) else .next s
      | none => .next s

/-! ### Quotas (R282, R283) -/

/-- PART_QUOTAn words 0, 1 and GRACE. -/
def stkLimit (s : State) (p : Nat) : Nat := (liveReg s (rPART p 0x10)).toNat
/-- The row limit. -/
def rowLimit (s : State) (p : Nat) : Nat := (liveReg s (rPART p 0x14)).toNat
/-- GRACE in units of 2^16 Beats. -/
def grace (s : State) (p : Nat) : Nat := (liveReg s (rPART p 0x1C)).toNat % 65536
/-- Rows in regions of a partition. -/
def rowUse (x : Part) : Nat := (x.regions.map Region.rows).sum

/-- OVER_QUOTA (R282): a usage exceeds its limit. -/
def overQuota (s : State) (p : Nat) : Bool :=
  let x := getPart s p
  let (qc, qq, qe) := quotaSlots s p
  x.stkUse > stkLimit s p || rowUse x > rowLimit s p || (ctxUse s p).length > qc || queueUse s p > qq || evtUse s p > qe

/-- R283, R423: the Beat since which OVER_QUOTA holds, brought up to date; the grace period begins with it. -/
def noteOver (s : State) : State :=
  (List.range 16).foldl (fun s p =>
    if overQuota s p then
      if (getPart s p).overB.isNone then modPart s p (fun x => { x with overB := some s.beat.b, graceB := some s.beat.b }) else s
    else if (getPart s p).overB.isSome then modPart s p (fun x => { x with overB := none, graceB := none }) else s) s

/-- The LIVE context of a partition with the lowest PRIORITY, the highest identifier among equals (R283). -/
def quotaVictim (s : State) (p : Nat) : Option Nat :=
  (s.host.ctxs.foldl (fun (m : Option (Nat × Nat)) e =>
    if e.2.st == .live && e.2.part == p then
      match m with
      | some y => if e.2.priority ≤ y.2 then some (e.1, e.2.priority) else some y
      | none => some (e.1, e.2.priority)
    else m) none).map Prod.fst

/-- QUOTA_RESET (R283) of a partition. A further period then begins; OVER_QUOTA has not risen anew (R423). -/
def execQuotaReset (x : WithQs Nat) (s : State) : Host.Outcome State Fault Refusal :=
  match (getPart s x.on).graceB with
  | none => .next s
  | some b =>
    if grace s x.on == 0 || (s.beat.b - b).toNat < grace s x.on * 65536 || !overQuota s x.on then .next s
    else match quotaVictim s x.on with
      | none => .next s
      | some id =>
        let s := note (resetCtx s id x.qs) ⟨.quotaReset, reasonDetail 0 0 id, s.now⟩ (some x.on)
        .next (modPart s x.on (fun x => { x with graceB := some s.beat.b }))

end Sys2Proof.Machine
end

