-- ==== Sys2Proof/Machine/Units.lean ====
section
/-!
DEFINITION. Units.lean: accessors of Braid ports, slots, stack ports, mailboxes, measurements; the twin's side and its journal; what
stops launches.
-/

namespace Sys2Proof.Machine

/-- A Braid port after reset (Tables 13.10, 13.11). -/
def emptyPort : Port :=
  { en := false, part := 0, st := 0, width := 0, lr := false, reason := 0, minor := 0, unexp := false, tagerr := false, lanes := [],
    peer := none, delay := 0, lost := 0, auth := 0, offer := none, keyOps := 0, tabs := [], half := false, on := false,
    start := 0, sent := [], used := [], out := [], outW := 0, rx := [], rxB := 0, unexpB := none, tagB := none, train := none }
/-- Braid port p; ports 16 and 17 are groups A and B of the twin port. -/
def getPort (s : State) (p : Nat) : Port := smGet emptyPort s.ports p
/-- Replace port p. -/
def setPort (s : State) (p : Nat) (v : Port) : State := { s with ports := smSet emptyPort s.ports p v }
/-- Change port p. -/
def modPort (s : State) (p : Nat) (f : Port → Port) : State := setPort s p (f (getPort s p))

/-- The active table memory of a port that a Segment uses (R321). -/
def Port.tab (x : Port) : Option TabMem := if x.on then smGet none x.tabs (if x.half then 1 else 0) else none

/-- A slot after reset (Tables 14.8, 14.9). -/
def emptySlt : SlotSt :=
  { en := false, part := 0, core := 0, st := 0, iso := false, reason := 0, ident := none, dig := 0, spur := 0,
    srst := false, rstTo := 0, inTo := 0 }
/-- Slot n. -/
def getSlt (s : State) (n : Nat) : SlotSt := smGet emptySlt s.slots n
/-- Replace slot n. -/
def setSlt (s : State) (n : Nat) (v : SlotSt) : State := { s with slots := smSet emptySlt s.slots n v }
/-- Change slot n. -/
def modSlt (s : State) (n : Nat) (f : SlotSt → SlotSt) : State := setSlt s n (f (getSlt s n))

/-- A stack port after reset (Table 12.8). -/
def emptyStk : StkPort := ⟨false, false, false, 0, [], []⟩
/-- Stack port p. -/
def getStk (s : State) (p : Nat) : StkPort := smGet emptyStk s.stk.ports p
/-- Replace stack port p. -/
def setStk (s : State) (p : Nat) (v : StkPort) : State := { s with stk := { s.stk with ports := smSet emptyStk s.stk.ports p v } }

/-- A mailbox after reset (Tables 11.15, 11.16). -/
def emptyMbx : Mbx := ⟨0, [], [], [], false, false, false⟩
/-- Mailbox n. -/
def getMbx (s : State) (n : Nat) : Mbx := smGet emptyMbx s.mbx n
/-- Replace mailbox n. -/
def setMbx (s : State) (n : Nat) (v : Mbx) : State := { s with mbx := smSet emptyMbx s.mbx n v }

/-- A measurement index after reset (Table 15.13). -/
def emptyMeas : Meas := ⟨0, 0, false, false⟩
/-- Measurement index i. -/
def getMeas (s : State) (i : Nat) : Meas := smGet emptyMeas s.meas i
/-- Replace measurement index i. -/
def setMeas (s : State) (i : Nat) (m : Meas) : State := { s with meas := smSet emptyMeas s.meas i m }

/-! ### The twin's side (R334, R336) -/

/-- R336 to R338: a TWIN_DIVERGE names the queue. -/
def noteDiverge (s : State) (p q : Nat) : State := note s ⟨.twinDiverge, reasonDetail 0 0 q, s.now⟩ (some p)
/-- The first element that meets a test, and the list without it. -/
def takeEntryIf (f : JEntry → Bool) : List JEntry → Option JEntry × List JEntry
  | [] => (none, [])
  | x :: xs => if f x then (some x, xs) else ((takeEntryIf f xs).1, x :: (takeEntryIf f xs).2)
/-- A journal entry that carries bytes. -/
def isBytes : JEntry → Bool
  | .hostBytes _ => true
  | _ => false
/-- A journal entry that carries a command. -/
def isCmdEntry : JEntry → Bool
  | .cmd _ _ _ _ _ => true
  | _ => false
/-- R336: handles of one queue's MAPs meet in the twin's journal, the primary's and its own; a difference is TWIN_DIVERGE. -/
def matchHandle (s : State) (q : Nat) (h : W32) : State :=
  match takeEntryIf (fun e => match e with | .mapHandle q' _ => q' == q | _ => false) s.twin.journal with
  | (some (.mapHandle _ h'), rest) =>
    let s := { s with twin := { s.twin with journal := rest } }
    if h == h' then s
    else noteDiverge s (match queueAt s q with | some x => x.part | none => 16) q
  | _ => { s with twin := { s.twin with journal := s.twin.journal ++ [.mapHandle q h] } }
/-- R336: the primary forwards what comes in from outside; the twin takes it from its journal. -/
def journal (s : State) (e : JEntry) : State :=
  if primarySide s then
    post { s with twin := { s.twin with given := s.twin.given + (if isCmdEntry e then 1 else 0) } } (.journal e)
  else if !twinSide s then s
  else match e with
    | .hostBytes _ => { s with twin := { s.twin with journal := (takeEntryIf isBytes s.twin.journal).2 } }
    | .cmd _ _ _ _ _ => { s with twin := { s.twin with journal := (takeEntryIf isCmdEntry s.twin.journal).2 } }
    | .mapHandle q h => matchHandle s q h
    | .owner _ _ => s
    | .resolve _ _ => s
/-- R336: the bytes of a read of host memory: what the host delivers, or the journal's next bytes on the twin, which waits for them. -/
def hostIn (s : State) (data : List Byte) : Option (List Byte) :=
  if !twinSide s then some data
  else match (takeEntryIf isBytes s.twin.journal).1 with
    | some (.hostBytes bs) => some bs
    | _ => none

/-- R338: a STANDBY twin runs a journaled command only after the primary has published it; `done` holds one more than the last entry
count published, by queue. -/
def twinHolds (s : State) (q : Nat) (seq : W32) : Bool :=
  (s.twin.st == 3 || s.twin.st == 4) && !s.twin.primary &&
    !(s.twin.done.any (fun e => e.1 == q && reached e.2 (seq + 1)))

/-! ### Key operations of a port (R327, R329) -/

/-- The installed link key is offered on a port, if the port is UP. -/
def offerKey (s : State) (port : Nat) : State :=
  let x := getPort s port
  match (getPart s x.part).link with
  | some k => if x.st == 2 then post s (.offer port k.key k.ep k.marked) else s
  | none => s

/-- Table 13.7: 0 NEW, 1 OFFER, 2 ACCEPT of a port in service. The holder map of an accepted key gains the engine's own identifier; an
identifier already marked refuses the key (KEY_DUPID). An offer taken up is gone: a key is never used again with a Beat count that it has sealed (R328). -/
def keyOp (s : State) (port k : Nat) : State :=
  let x := getPort s port
  let p := x.part
  if !x.en then s
  else match k with
    | 0 =>
      let ep := !(match (getPart s p).link with | some l => l.ep | none => false)
      offerKey { modPart s p (fun y => { y with link := some ⟨Config.drawnKey s.nextKey 2, ep, [engId s]⟩ }) with nextKey := s.nextKey + 1 } port
    | 1 => offerKey s port
    | _ => match x.offer with
      | none => s
      | some o =>
        let s := modPort s port (fun x => { x with offer := none })
        if o.marked.contains (engId s) then note s ⟨.keyDupid, port % 16, s.now⟩ (some p)
        else modPart s p (fun y => { y with link := some { o with marked := o.marked ++ [engId s] } })

/-- R327, R410: the running MC carries out the key operations of the ports whose partition runs no Segment. -/
def keyWork (s : State) : State :=
  if !mcUp s then s
  else (List.range s.build.nbraid).foldl (fun s port =>
    let x := getPort s port
    if x.keyOps == 0 || (getPart s x.part).seg.isSome then s
    else
      let s := modPort s port (fun x => { x with keyOps := 0 })
      ((List.range 3).filter (fun k => x.keyOps.getLsbD k)).foldl (fun s k => keyOp s port k) s) s

/-! ### What stops every launch (R245, R246, R408, R335 step 5) -/

/-- No partition launches: LOST, ACQUIRING, thermal stop, or a state sync of the twin. -/
def launchStopped (s : State) : Bool :=
  s.beat.st == .lost || (match s.beat.acq with | some q => q.stop | none => false) || s.therm.stop.isSome || s.therm.resume || (s.twin.st == 1 && s.twin.primary)

/-- The launch delay D of a partition in Beats (R33, Table 18.7). -/
def launchDelay (s : State) (p : Nat) : Nat :=
  let v := (liveReg s (rPART p 8)).toNat
  max (bitsOf v 16 8) (bitsOf v 24 8)

/-- SEGLIM of a partition (R32). -/
def segLimit (s : State) (p : Nat) : Nat := bitsOf (liveReg s (rPART p 8)).toNat 1 13

/-- R33: a Segment of partition p may start at (b, 0) by the launch delay. -/
def delayOver (s : State) (p : Nat) (b : W64) : Bool :=
  match (getPart s p).prevEnd with
  | some e => e.toNat + 1 + launchDelay s p ≤ b.toNat
  | none => true

/-- Stores of a partition that have not landed: row reads owed and Granule writes on their way (R308, Table 1.5). -/
def storesOut (s : State) (p : Nat) : Bool :=
  s.stores.any (fun r => tagPart r.part == p) ||
    s.stk.greqs.any (fun r => match r.wr with | some (t, _) => tagPart t == p | none => false)

/-- Functions that fetch nothing (R264): key fn says that function fn is in D3hot, key 32 + 16 fn + p that partition p has met a Segment
boundary since. -/
def fetchOff (s : State) (fn p : Nat) : Bool := smGet false s.host.d3 (32 + 16 * fn + p)

end Sys2Proof.Machine
end

