-- ==== Sys2Proof/Machine/Cells.lean ====
section
/-!
DEFINITION. Cells.lean: cell numbers and send points of a Braid port, which cells a slot table entry covers (R317, R322), MVB (R323), the
frames of a Beat and their seal (R317, R319, R326), and the Beat blocks and pin symbols (R238, R239, R318).
-/

namespace Sys2Proof.Machine

/-! ### Cell numbers (R317, R322) -/

/-- R317: the send point of cell j at a width. -/
def sendPoint (w j : Nat) : Nat := 18 * j / w

/-- R322: the entry covers cell j in Beat offset o. -/
def covers (e : STEnt) (o j : Nat) : Bool :=
  e.first ≤ j && j < e.first + e.count && e.phase ≤ o && o ≤ e.last && (o - e.phase) % e.period == 0

/-- The Beat offset of Beat b in the Segment whose tables a port has (R322). -/
def beatOff (x : Port) (b : W64) : Nat := (b - x.start).toNat

/-- R251: L of a port as last trained. -/
def portL (b : Build) (x : Port) : Nat := if x.lr then transit b 0x0051 else transit b 0x0050

/-- The cells that the send entries of a table assign in Beat offset o, to one core index or to any, ascending. -/
def sendCells (t : TabMem) (o : Nat) (idx : Option Nat) : List Nat :=
  (List.range (224 * t.width)).filter (fun j =>
    t.ents.any (fun e => !e.recv && covers e o j && (match idx with | some k => e.core == k | none => true)))

/-- The width under which a port numbers its cells (R322, R333): its table's, that of the cells formed in this Beat, else its own. -/
def cellWidth (x : Port) : Nat :=
  match x.tab with
  | some t => t.width
  | none => if x.outW != 0 then x.outW else max 1 x.width

/-! ### MVB (R323) -/

/-- R323: the cells that an MVB of core index `k` issued in cycle t may use: from i + 3 on, after the last one used before. -/
def mvbCells (s : State) (x : Port) (tb : TabMem) (k t : Nat) : List Nat :=
  (sendCells tb (beatOff x s.beat.b) (some k)).filter (fun j => cyc s t + 3 ≤ sendPoint tb.width j && smGet 0 x.used k ≤ j)

/-- The claims of the two row reads of each cell (R132, R323), in order. -/
def mvbClaims (i : Iss) (w : Nat) : List SentCell → State → State × Option Flt
  | [], s => (s, none)
  | x :: xs, s =>
    let t := s.beat.start + sendPoint w x.cidx - 2
    let c1 := mkClaim s i.core i.strm x.local_ t false
    let c2 := mkClaim s i.core i.strm (x.local_ + 128) t false
    if claimClash s c1 || claimClash s c2 then (s, some ⟨.segOverrun, 0, t⟩)
    else mvbClaims i w xs { s with claims := c1 :: c2 :: s.claims }

/-- MVB (R320, R323, R305): the cells are filled at issue, and are those of its placement, or a hold has moved it onto others (R31); their rows are read at
c_j − 2 (flushPort). -/
def goMvb (i : Iss) (aSrc port cells : Nat) (x : Ext) (s : State) : Host.Outcome State Fault Refusal :=
  issue i (.mvb i aSrc port cells x) none (fun t s =>
    let a := aReg s i aSrc
    let p := partOf s i.core
    let k := coreIdx s p i.core
    let y := getPort s port
    let oop : Flt := ⟨.outOfPartition, scratchDetail i.core (a % 2 ^ 23) 0 0 3, t⟩
    check s (formFault i .move (extBad x false false true) t) fun _ =>
    check s (if port ≥ s.build.nbraid || y.part != p then some oop else none) fun _ =>
    check s (if (getPart s p).link.isNone then some ⟨.linkNokey, port % 16, t⟩ else none) fun _ =>
    check s (localFault s i a (256 * cells) 128 t) fun _ =>
    match y.tab with
    | none => if cells == 0 then .ok s t else .bad s ⟨.segOverrun, 0, t⟩
    | some tb =>
      let js := (mvbCells s y tb k t).take cells
      if js.length < cells || js != (mvbCells s y tb k (s.beat.start + i.at_)).take cells then .bad s ⟨.segOverrun, 0, t⟩
      else
        let l := locOf s i
        let xs := js.zipIdx.map (fun (j, n) => (⟨j, i.core, a + 256 * n, expTag x 0, l⟩ : SentCell))
        thenR (mvbClaims i tb.width xs s) fun s =>
          let last := match js.getLast? with | some j => j | none => 0
          let s := if js == [] then s
            else modPort s port (fun y => { y with sent := y.sent ++ xs, used := smSet 0 y.used k (last + 1) })
          .ok s (if js == [] then t else s.beat.start + sendPoint tb.width last)) s

/-! ### The cells of a Beat -/

/-- R323, R436: the rows of a filled cell as read at c_j − 2: its payload, or nothing where the read faults. -/
def readCell (w : Nat) (s : State) (x : SentCell) : State × Option (List Byte) :=
  let t := s.beat.start + sendPoint w x.cidx - 2
  match doReads x.core .move x.exp (spanReads x.local_ 256 t) s with
  | (s1, some f) => (raiseLoc s1 x.loc f, none)
  | (s1, none) => (s1, some (readSpan s1 x.core x.local_ 256 t))

/-- Every filled cell of a port, read. -/
def readCells (w : Nat) : List SentCell → State → State × List (Nat × List Byte)
  | [], s => (s, [])
  | x :: xs, s =>
    let (s1, d) := readCell w s x
    let (s2, ds) := readCells w xs s1
    (s2, match d with | some d => (x.cidx, d) :: ds | none => ds)

/-- R317, R323: the cells that a table assigns in Beat b: those whose payloads were read, and every other covered send cell with VALID 0. -/
def beatCells (x : Port) (t : TabMem) (b : W64) (ds : List (Nat × List Byte)) : List Cell :=
  let tag := BitVec.ofNat 16 x.start.toNat
  (sendCells t (beatOff x b) none).map (fun j => match ds.find? (fun d => d.1 == j) with
    | some d => ⟨tag, j, true, d.2⟩
    | none => ⟨tag, j, false, List.replicate 256 0⟩)

/-- The cells that the active table of a port assigns in this Beat are formed (R323): the rows are read as they stood in their own cycles, so this
follows every command of those cycles. -/
def flushPort (s : State) (p : Nat) : State :=
  let x := getPort s p
  match x.tab with
  | none => s
  | some t =>
    let (s, ds) := readCells t.width x.sent s
    modPort s p (fun x => { x with out := beatCells x t s.beat.b ds, outW := t.width, sent := [], used := [] })

/-- Every port of a partition (none: of any) forms the cells of this Beat. -/
def flushPorts (s : State) (part : Option Nat) : State :=
  (List.range s.build.nbraid).foldl (fun s p => match part with
    | some q => if (getPort s p).part == q then flushPort s p else s
    | none => flushPort s p) s

/-! ### Frames (R317, R319, R326) -/

/-- Table 13.3: the header of frame k. -/
def frameHdr (k : Nat) (ep : Bool) (eng port : Nat) : List Byte :=
  natLe 8 (k % 32 + (if ep then 2 ^ 5 else 0) + eng % 2 ^ 14 * 2 ^ 6 + port % 16 * 2 ^ 20)

/-- Table 13.3: the header of a cell. -/
def cellHdr (c : Cell) : List Byte := natLe 4 (c.segtag.toNat + c.cidx % 1024 * 2 ^ 16 + (if c.valid then 2 ^ 26 else 0))

/-- R326: the initialisation vector of frame k of the sender's Beat b. -/
def frameIv (b : W64) (eng port k : Nat) : Nat := b.toNat * 2 ^ 32 + eng % 2 ^ 14 * 2 ^ 18 + port % 16 * 2 ^ 14 + k % 32 * 2 ^ 9

/-- R319, R326: frame k of Beat b with its 32 cells, sealed: header, cells, tag. -/
def sealFrame (key : BitVec 256) (ep : Bool) (b : W64) (eng port k : Nat) (cs : List Cell) : List Byte :=
  let h := frameHdr k ep eng port
  let sealed := gcmSeal (roundKeys (keyBytes key)) (frameIv b eng port k) (h ++ (cs.map cellHdr).flatten) (cs.map Cell.payload).flatten
  h ++ (List.zipWith (fun c x => cellHdr c ++ x) cs (pieces 256 cs.length sealed.1)).flatten ++ sealed.2

/-- Table 13.3: a cell from its header and payload. -/
def parseCell (h payload : List Byte) : Cell :=
  let v := leNat h
  ⟨BitVec.ofNat 16 v, bitsOf v 16 10, bitsOf v 26 1 == 1, payload⟩

/-- Table 13.3: FIDX, KEYEP, SENG and SPORT of a frame. -/
def frameFields (bytes : List Byte) : Nat × Bool × Nat × Nat :=
  let v := leNat (bytes.take 8)
  (bitsOf v 0 5, bitsOf v 5 1 == 1, bitsOf v 6 14, bitsOf v 20 4)

/-- R319, R326: the cells of a received frame of the sender's Beat b, where its tag is right. -/
def openFrame (key : BitVec 256) (b : W64) (bytes : List Byte) : Option (List Cell) :=
  let (k, _, eng, port) := frameFields bytes
  let body := pieces 260 32 ((bytes.drop 8).take 8320)
  let heads := body.map (List.take 4)
  (gcmOpen (roundKeys (keyBytes key)) (frameIv b eng port k) (bytes.take 8 ++ heads.flatten) (body.map (List.drop 4)).flatten (bytes.drop 8328)).map
    (fun pt => List.zipWith parseCell heads (pieces 256 32 pt))

/-- R317, R319: cell j of a port's Beat: the one its table assigns, else one that carries no data. -/
def cellAt (s : State) (p : Nat) (x : Port) (j : Nat) : Cell :=
  (x.out.find? (fun c => c.cidx == j)).getD
    ⟨if x.on then BitVec.ofNat 16 x.start.toNat else Config.idleTag p s.beat.b.toNat, j, false, List.replicate 256 0⟩

/-- R317: the 7w frames of a port's Beat under its partition's link key. -/
def beatFrames (s : State) (p : Nat) (x : Port) (k : LinkKey) : List (List Byte) :=
  (List.range (7 * cellWidth x)).map (fun f =>
    sealFrame k.key k.ep s.beat.b (engId s) p f ((List.range 32).map (fun i => cellAt s p x (32 * f + i))))

/-- What a port has sent when its Beat is over. A port that is not UP, is narrower than the table in use, or has no key, sends no frame (R326, R333), and from the Beat after thermal
stop began ports carry idle code only (R408). -/
def sendFrames (s : State) (p : Nat) : State :=
  let x := getPort s p
  let stopped := match s.therm.stop with | some (_, b) => b != s.beat.b | none => false
  let s := match (getPart s x.part).link with
    | some k => if x.st == 2 && cellWidth x ≤ max 1 x.width && !stopped then post s (.frames p (beatFrames s p x k)) else s
    | none => s
  if x.out == [] && x.outW == 0 then s else modPort s p (fun x => { x with out := [], outW := 0 })

/-- Cell j of a group of the twin port: its header, but for the cell number, and its payload are free (R334, log 33). -/
def twinCell (b : W64) (g j : Nat) : Cell :=
  let byte (i : Nat) : Byte := Config.twinByte g b.toNat j i
  { parseCell ((List.range 4).map (fun i => byte (256 + i))) ((List.range 256).map byte) with cidx := j }

/-- R334: a group of the twin port sends its 28 frames, sealed with the twin key, while it is UP. -/
def twinFrames (s : State) (g : Nat) : State :=
  let stopped := match s.therm.stop with | some (_, b) => b != s.beat.b | none => false
  match s.twin.key with
  | some k =>
    if !s.twin.linkup || (getPort s (16 + g)).st != 2 || stopped then s
    else post s (.frames (16 + g) ((List.range 28).map (fun f =>
      sealFrame k false s.beat.b (engId s) (16 + g) f ((List.range 32).map (fun i => twinCell s.beat.b g (32 * f + i))))))
  | none => s

/-- Every port sends the frames of the Beat that ends. -/
def sendAll (s : State) : State := [0, 1].foldl twinFrames ((List.range s.build.nbraid).foldl sendFrames s)

/-! ### Beat blocks and pin symbols -/

/-- The applied BEAT_SRC as a number. -/
def beatSrc (s : State) : Nat := (liveReg s rBEAT_SRC).toNat

/-- R239: the hop count that the engine's own markers carry: 0 where it forwards none. -/
def hopsOut (s : State) : Nat :=
  if s.beat.st == .acquiring then 0
  else if s.beat.active == .marker then (if s.beat.hops ≥ 15 then 0 else s.beat.hops + 1) else 1

/-- Table 13.2: the Beat block of a port at (b, 0). The bytes of its management channel are free (log 28). -/
def beatBlockBytes (s : State) (p : Nat) : List Byte :=
  let h := if bitsOf (beatSrc s) (16 + p) 1 == 1 then hopsOut s else 0
  let b := s.beat.b.toNat
  let long := b % 128 == 0
  let body := natLe 1 ((if h != 0 then 1 else 0) + (if long then 2 else 0)) ++ natLe 1 h ++ natLe 2 (b % 65536)
    ++ natLe 6 (if long then b / 65536 else 0) ++ natLe 2 0
    ++ (List.range 48).map (Config.mgmtByte p b)
  body ++ natLe 4 (crc32c body).toNat

/-- The 64 count bits of a pin frame in the order sent (Table 10.2). -/
def countBits (b : Nat) : List Bool := (List.range 64).map (fun i => (b / 2 ^ i) % 2 == 1)

/-- Table 10.2: the symbol of Beat b. -/
def pinSymbol (b : Nat) : PinSym :=
  let k := b % 128
  let b0 := (b - k) % 2 ^ 64
  let bit (v : Bool) : PinSym := if v then .one else .zero
  if k == 0 then .marker
  else if k ≤ 64 then bit ((countBits b0).getD (k - 1) false)
  else if k ≤ 80 then bit ((crc16 (countBits b0) / 2 ^ (80 - k)) % 2 == 1)
  else .zero

/-- R238: the symbol whose high time, a quarter, a half or three quarters of a Beat, is nearest to the one measured in cycles (log 7). -/
def symbolOf (high : Nat) : PinSym := if high < 1536 then .zero else if high ≤ 2560 then .marker else .one

/-- The number that bits spell, the first the most significant. -/
def bitsNat (bs : List Bool) : Nat := bs.foldl (fun a b => 2 * a + (if b then 1 else 0)) 0

/-- R238: the count that a received frame of 128 symbols carries, if it is good: its CRC matches and each symbol is of the kind of its place
(Table 10.2). -/
def frameCount (syms : List PinSym) : Option Nat :=
  let data := syms.drop 1
  let bits := (data.take 64).map (· == .one)
  let kinds := syms.take 1 == [.marker] && (data.take 80).all (· != .marker) && data.drop 80 == List.replicate 47 .zero
  if kinds && crc16 bits == bitsNat (((data.drop 64).take 16).map (· == .one)) then some (bitsNat bits.reverse) else none

end Sys2Proof.Machine
end

