-- ==== Sys2Proof/Machine/Commands.lean ====
section
/-!
DEFINITION. Commands.lean: the fetch of command entries and the commands RUN, COPY, FILL, SIGNAL, WAIT, PUBLISH, LOAD_SLOT, MAP, UNMAP,
QUERY (R222, R230, R267, R274 to R282, R296, R297, R302, R385 to R387, R422, R423).
-/

namespace Sys2Proof.Machine

/-! ### Fetch (R267) -/

/-- A command entry's own bytes: without what a COPY's source reads. -/
def entBytes : EntBody → EntBody
  | .copy b => .copy { b with hostSrc := .ok [] }
  | b => b

/-- R267: the queue may fetch its next entry, with the body given. The twin fetches from its journal alone (R336). A queue that is being reset fetches
nothing (R273). -/
def mayFetch (s : State) (q : Nat) (h : CmdHdr) (ent : EntBody) : Option QSlot :=
  match queueAt s q with
  | none => none
  | some x =>
    let c := getCtx s x.qr.context
    let src := if twinSide s then
        (match s.twin.journal.find? isCmdEntry with
         | some (.cmd q' _ h' e' _) => q' == q && { h' with evtRec := h.evtRec } == h && e' == entBytes ent
         | _ => false)
      else (liveReg s rHQ_CTL).getLsbD 0 && unfetched x.qr && !fetchOff s (fnOf x) x.part
    if src && x.qr.enabled && x.qr.validated && !x.qr.stopped && !resetting s q && x.wait.isNone && c.st == .live && c.part == x.part
        && decide ((x.qr.head - x.qr.done).toNat < 2 ^ x.qr.log2size) then some x
    else none

/-- The entry is taken: HEAD advances and the command joins its queue, GROUP_ABORT at once in a group that has failed (R279). -/
def takeEntry (s : State) (q : Nat) (x : QSlot) (h : CmdHdr) (ent : EntBody) (ab : Option ArgBlk) (body : CmdBody) : State × Cmd :=
  let c := mkCmd s x x.qr.head h body
  let bad := x.grpBad && (isHold c || isPublish c)
  let c := if bad then { c with stage := .ended 6 .none } else c
  let s := journal s (.cmd q c.seq h (entBytes ent) ab)
  (modQueue s q (fun y => { y with
    qr := { y.qr with head := y.qr.head + 1 }, cmds := y.cmds ++ [c], grpBad := y.grpBad && !isPublish c }), c)

/-- R254, R263: an Event as a command finds it at fetch: resident, or by its record as read; none where that read failed. -/
def evtSeen (s : State) (h : W32) (er : Option EvtRec) : Option EvtRec :=
  match getEvt s (evIdx h) with
  | some e => some e.er
  | none => er

/-- A fault at fetch; its DETAIL carries no value that Table 17.4 does not name. -/
def fetchFlt (s : State) (c : FCode) (reason : Nat) : Flt := ⟨c, reasonDetail reason 0 0, s.now⟩

/-- R263: HOST_ABORT of a request at a bus address. -/
def hostAbort (s : State) (addr : Nat) : Flt := ⟨.hostAbort, addr, s.now⟩

/-- R254, R263: the fault of an Event handle at fetch: its record could not be read, or it does not agree with it. -/
def evtFault (s : State) (h : W32) (er : Option EvtRec) : Option Flt :=
  match evtSeen s h er with
  | none => some (hostAbort s (evField s (evIdx h) 0).toNat)
  | some e => if evtMatch h e then none else some (fetchFlt s .evtHandle 0)

/-- R36, R274: fetch a command entry of TYPE `ty`; `form` says that a field of its body is bad, `go` what follows the checks of every command. An
entry of another or a reserved TYPE fails. -/
def fetch (q ty : Nat) (h : CmdHdr) (ent : EntBody) (ab : Option ArgBlk) (body : CmdBody) (form : QSlot → Bool) (go : State → QSlot → Cmd → State)
    (s : State) : Host.Outcome State Fault Refusal :=
  match mayFetch s q h ent with
  | none => .next s
  | some x =>
    let (s1, c) := takeEntry s q x h ent ab body
    if isOver c then .next s1
    else if h.type != ty || h.rsvNZ || form x then .next (failCmd s1 q c.seq (fetchFlt s .cmdForm 0))
    else match (if h.sigen then evtFault s1 h.evt h.evtRec else none) with
      | some f => .next (failCmd s1 q c.seq f)
      | none => .next (go s1 x c)

/-- R36, R257: a command that needs no Segment is carried out at its fetch, or by mcWork once what it follows in its queue lets it start. -/
def inTurn (q : Nat) (go : State → QSlot → Cmd → State) (s : State) (x : QSlot) (c : Cmd) : State :=
  match queueAt s q with
  | some y => if mayStart y c.seq then go s x c else s
  | none => s

/-- TFLAGS bits that a type does not define are reserved (R274). -/
def flagsBad (h : CmdHdr) (used : BitVec 7) : Bool := (h.tflags &&& ~~~used) != 0

/-! ### SIGNAL, WAIT, PUBLISH -/

/-- SIGNAL (R274): it retires when every earlier command of the queue has, at COMMAND_RETIRE. -/
def execSignal (q : Nat) (h : CmdHdr) (s : State) : Host.Outcome State Fault Refusal :=
  fetch q 4 h .signal none .signal (fun _ => flagsBad h 0) (fun s _ _ => s) s

/-- PUBLISH (R279): closes the group of the HOLDPUB commands before it. Its own part is met at once. -/
def execPublish (q : Nat) (h : CmdHdr) (s : State) : Host.Outcome State Fault Refusal :=
  fetch q 6 h .publish none .publish (fun _ => flagsBad h 0)
    (fun s _ c => modCmd s q c.seq (fun c => { c with stage := .met s.beat.b })) s

/-- R257: a WAIT at the head of its queue registers; it waits while no Event slot can be had (R255). One whose Event has been freed since its
fetch is released at once with ABANDONED. -/
def tryWait (s : State) (q : Nat) (c : Cmd) (evt thresh : W32) (er : Option EvtRec) : State :=
  let i := evIdx evt
  let run (s : State) : State := modCmd s q c.seq (fun c => { c with stage := .running })
  match evtSeen s evt er with
  | none => failCmd s q c.seq (hostAbort s (evField s i 0).toNat)
  | some e =>
    if !evtMatch evt e then freeWaiter 5 (run s) ⟨q, thresh, 0⟩
    else match makeResident s i e with
      | none => s
      | some s => registerWait (run s) q i ⟨evt, thresh, 0⟩ true

/-- The WAIT at the head of a queue that is fetched and not registered. -/
def headWait (s : State) (q : Nat) (h : CmdHdr) (evt thresh : W32) : Option Cmd :=
  match (queueAt s q).bind (fun x => x.cmds.head?) with
  | some c => if c.body == .wait evt thresh && c.stage == .queued && c.hdr == { h with evtRec := c.hdr.evtRec } then some c else none
  | none => none

/-- WAIT (R254, R257): fetched, its handle checked, and registered where it stands at the head of its queue. One that does not is registered by the
same row again once it does (log 63). `er` is the Event's record as read when the Event is not resident, none where the read failed (R263). -/
def execWait (q : Nat) (h : CmdHdr) (evt thresh : W32) (er : Option EvtRec) (s : State) : Host.Outcome State Fault Refusal :=
  match headWait s q h evt thresh with
  | some c => .next (tryWait s q c evt thresh er)
  | none =>
    fetch q 5 h (.wait evt thresh) none (.wait evt thresh) (fun _ => flagsBad h 0) (fun s x c =>
      match evtFault s evt er with
      | some f => failCmd s q c.seq f
      | none => if x.cmds == [] && !x.halted then tryWait s q c evt thresh er else s) s

/-! ### COPY and FILL (R274, R295) -/

/-- The command needs a Segment of its partition. -/
def launches (c : Cmd) : Bool :=
  match c.body with
  | .run _ _ _ => true
  | .copy _ => true
  | .fill _ => true
  | _ => false

/-- The first command of a queue whose Segment is still to start: a later one does not pass it. -/
def nextLaunch (x : QSlot) : Option Cmd := x.cmds.find? (fun c => launches c && c.stage == .queued)

/-- A place of COPY or FILL: an Extent range after its lookup, or a host bus address (handle 0). -/
def placeOf (s : State) (p : Nat) (h : W32) (off : W64) (len : Nat) (write : Bool) : Lk × Place :=
  if h == 0 then (.ok emptyExt, .host off.toNat)
  else match lookup s h p s.ext.epoch off.toNat len write with
    | .ok e => (.ok e, .stack (e.addr + off.toNat) (partKey s p))
    | .bad c => (.bad c, .host 0)

/-- R301: the corrected table Granule of a place is recorded. -/
def placeCe (s : State) (h : W32) : State := if h == 0 then s else lookupCe s h s.now

/-- R336, R263: the bytes of a read of host memory, or none where it failed: as it completes, or on the twin from its journal. -/
def hostGot (s : State) (r : HostCpl) : Option (List Byte) :=
  match r with
  | .ok bs => hostIn s bs
  | _ => if twinSide s then hostIn s [] else none

/-- The pattern of a FILL over n bytes. -/
def fillBytes (v : W32) (n : Nat) : List Byte := (List.replicate (n / 4) (natLe 4 v.toNat)).flatten

/-- A built-in Segment declares nothing. -/
def bulkDecl : SegDecl := ⟨none, [], [], [], [], [], 0, [], []⟩

/-- The Segment of a command as it starts at (b, 0) (R29, R23): its program, its declaration, its objects, and the bytes of a built-in one. -/
def newSeg (s : State) (p q : Nat) (c : Cmd) (progid : W64) (prec : Nat) (d : SegDecl) (objs : List ObjEnt) (bulk : Option Bulk) : Seg :=
  { q := q, seq := c.seq, idx := c.segIdx, beat := s.beat.b, start := s.beat.start, ctx := c.ctx, progid := progid, prec := prec,
    limit := segLimit s p, epoch := s.ext.epoch, decl := d, objs := objs, taint := false, linked := false, cnt := zeroCounts, later := [], ends := [],
    roots := [], bulk := bulk, abort := none, status := 1 }

/-- R295, R290: the built-in Segment of a COPY or FILL starts: it asks for the `need` Granules of its source at `src`, and writes once it has them
all. -/
def startBulk (s : State) (p q : Nat) (c : Cmd) (bulk : Bulk) (src : Option (Nat × Nat)) : State :=
  let s := modPart s p (fun x => { x with seg := some (newSeg s p q c 0 0 bulkDecl [] (some bulk)) })
  let s := modCmd { s with nextId := s.nextId + 1 } q c.seq (fun c => { c with stage := .running, beat0 := some s.beat.b })
  let s := match src with
    | some (a, key) => { s with stk := { s.stk with greqs := s.stk.greqs ++ readReqs (bulkCore s p) key a bulk.id false bulk.need } }
    | none => s
  bulkWrite s p

/-- COPY and FILL at their Segment's start (R295): the lookups, and a host source as its reads complete (R263); one that fails ends the command. -/
def runBuiltin (s : State) (p q : Nat) (c : Cmd) : State :=
  match c.body with
  | .copy y =>
    let n := y.length.toNat
    let (r1, p1) := placeOf s p y.srch y.srcoff n false
    let (r2, p2) := placeOf s p y.dsth y.dstoff n true
    let s := placeCe (placeCe s y.srch) y.dsth
    match r1, r2 with
    | .bad f, _ => failCmd s q c.seq ⟨f, extDetail y.srch y.srcoff.toNat, s.now⟩
    | _, .bad f => failCmd s q c.seq ⟨f, extDetail y.dsth y.dstoff.toNat, s.now⟩
    | _, _ => match p1 with
      | .stack a k => startBulk s p q c ⟨s.nextId, true, n / 32, List.replicate n 0, p2, false⟩ (some (a, k))
      | .host a => match hostGot s y.hostSrc with
        | some bs => startBulk (journal s (.hostBytes bs)) p q c ⟨s.nextId, true, 0, bs, p2, false⟩ none
        | none => failCmd s q c.seq (hostAbort s a)
  | .fill y =>
    let n := y.length.toNat
    match placeOf s p y.dsth y.dstoff n true with
    | (.bad f, _) => failCmd (placeCe s y.dsth) q c.seq ⟨f, extDetail y.dsth y.dstoff.toNat, s.now⟩
    | (.ok _, pl) => startBulk (placeCe s y.dsth) p q c ⟨s.nextId, false, 0, fillBytes y.pattern n, pl, false⟩ none
  | _ => s

/-- A byte offset in an Extent that is no multiple of 32 (R130); with handle 0 the offset is a bus address. -/
def offBad (h : W32) (off : W64) : Bool := h != 0 && off.toNat % 32 != 0
/-- A bus address that is no multiple of 32 (R274). -/
def busBad (h : W32) (off : W64) : Bool := h == 0 && off.toNat % 32 != 0

/-- What follows the checks of a COPY or FILL at its acceptance: ALIGN (R130) where an offset is `bad`, NO_CORES (R5); else it waits for its Segment's
start. -/
def startBuiltin (q : Nat) (bad : Bool) (s : State) (x : QSlot) (c : Cmd) : State :=
  if bad then failCmd s q c.seq ⟨.align, 0, s.now⟩
  else if (getPart s x.part).cores == [] then failCmd s q c.seq ⟨.noCores, 0, s.now⟩ else s

/-- The read of a host source brings as many bytes as were asked for. -/
def cplSize (r : HostCpl) (n : Nat) : Bool := match r with | .ok bs => bs.length == n | _ => true

/-- COPY. -/
def execCopy (q : Nat) (h : CmdHdr) (b : CopyBody) (s : State) : Host.Outcome State Fault Refusal :=
  if b.srch == 0 && !cplSize b.hostSrc b.length.toNat then .next s
  else fetch q 2 h (.copy b) none (.copy b)
    (fun _ => flagsBad h 0x10 || b.length.toNat % 32 != 0 || busBad b.srch b.srcoff || busBad b.dsth b.dstoff)
    (startBuiltin q (offBad b.srch b.srcoff || offBad b.dsth b.dstoff)) s

/-- FILL. -/
def execFill (q : Nat) (h : CmdHdr) (b : FillBody) (s : State) : Host.Outcome State Fault Refusal :=
  fetch q 3 h (.fill b) none (.fill b) (fun _ => flagsBad h 0x10 || b.length.toNat % 32 != 0 || busBad b.dsth b.dstoff)
    (startBuiltin q (offBad b.dsth b.dstoff)) s

/-! ### RUN: the checks at fetch (R276, R277, R230, R385) -/

/-- Bytes [k, k + n) of a record as a little-endian number. -/
def leAt (bs : List Byte) (k n : Nat) : Nat := leNat ((bs.drop k).take n)
/-- A byte of [k, k + n) is nonzero. -/
def nzAt (bs : List Byte) (k n : Nat) : Bool := ((bs.drop k).take n).any (· != 0)

/-- Table 11.10: a listed entry at byte k of the argument block. -/
def parseObj (bs : List Byte) (k : Nat) : ObjEnt :=
  { kind := leAt bs k 1, handle := BitVec.ofNat 32 (leAt bs (k + 4) 4), base := BitVec.ofNat 64 (leAt bs (k + 8) 8),
    length := BitVec.ofNat 64 (leAt bs (k + 16) 8), count := BitVec.ofNat 64 (leAt bs (k + 24) 8), rsvNZ := nzAt bs (k + 1) 3 }

/-- The objects that the bytes of an argument block list: NOBJ, of which at most 32 are read. -/
def argCount (bs : List Byte) : Nat := min 32 (leAt bs 64 4)

/-- Table 11.10: an argument block from its bytes. -/
def parseArgs (bs : List Byte) : ArgBlk :=
  { s := (List.range 16).map (fun i => BitVec.ofNat 32 (leAt bs (4 * i) 4)), nobj := leAt bs 64 4, rsvNZ := nzAt bs 68 60,
    objs := (List.range (argCount bs)).map (fun i => parseObj bs (128 + 32 * i)) }

/-- The read of an argument block brings its 128 bytes and its listed entries. -/
def argSize (r : HostCpl) : Bool := match r with | .ok bs => bs.length == 128 + 32 * argCount bs | _ => true

/-- R277, R336: the argument block as read, or on the twin as the journal brings it; none where the read failed. -/
def argBlk (s : State) (r : HostCpl) : Option ArgBlk :=
  if twinSide s then (match s.twin.journal.find? isCmdEntry with | some (.cmd _ _ _ _ ab) => ab | _ => none)
  else match r with | .ok bs => some (parseArgs bs) | _ => none

/-- R277: a listed entry breaks Table 11.10. -/
def objBad (o : ObjEnt) : Bool :=
  o.rsvNZ || o.kind > 1 || o.base.toNat % 32 != 0 || o.count.toNat % 8 != 0
    || (if o.kind == 0 then o.base != 0 || o.length != 0 else o.handle != 0)

/-- R277: the argument block breaks Table 11.10. -/
def argBad (ab : ArgBlk) : Bool := ab.rsvNZ || ab.nobj > 32 || ab.objs.length != ab.nobj || ab.objs.any objBad

/-- Table 9.4: a Baked Program header from its 256 bytes. -/
def parseHdr (bs : List Byte) : BakedHdr :=
  let le (k n : Nat) : Nat := leAt bs k n
  { magic := le 0 4, fmtMin := le 4 1, fmtMaj := le 5 1, stepping := le 6 1, dvisMin := le 8 1, dvisMaj := le 9 1, spv := le 10 4,
    progid := BitVec.ofNat 64 (le 16 8), pdigest := BitVec.ofNat 256 (beNat ((bs.drop 24).take 32)), ncb := le 56 1 % 128,
    rectw := le 57 1 % 16, recth1 := le 57 1 / 16, ntorte := le 58 1 % 16, spad := le 58 1 / 16 % 4, nslot := le 59 1 % 16, tlen := le 60 2,
    tfull := (bs.drop 64).take 64, tsolo := (bs.drop 128).take 64, suse := BitVec.ofNat 64 (le 192 8), nseg := le 200 4,
    taint := le 204 1 % 2 == 1, segtab := le 208 8, locmap := le 216 8, slotid := le 224 8, length := le 232 8,
    rsvNZ := nzAt bs 7 1 || nzAt bs 14 2 || le 56 1 ≥ 128 || le 58 1 ≥ 64 || le 59 1 ≥ 16 || nzAt bs 62 2 || le 204 1 ≥ 2 || nzAt bs 205 3
      || nzAt bs 240 16 }

/-- R276: the Extent handle of a Baked Program, where PSRC is 0. -/
def progHandle (b : RunBody) : W32 := b.prog.truncate 32

/-- Bytes of a Baked Program (R228, R276): of the image read from host memory, or of its Extent. -/
def progBytes (s : State) (p : Nat) (host : Bool) (img : List Byte) (b : RunBody) (off len : Nat) : List Byte :=
  if host then (img.drop off).take len else stkBytes s (partKey s p) ((extAt s (hIdx (progHandle b))).addr + off) len

/-- The length of a listed object: an Extent's stored bytes, or LENGTH. -/
def objLen (s : State) (o : ObjEnt) : Nat := if o.kind == 0 then (extAt s (hIdx o.handle)).size else o.length.toNat

/-- The role of a list index (Table 16.1): IN or STATE. -/
def takesRoot (bp : Baked) (i : Nat) : Bool := bp.roles.getD i 0 == 1 || bp.roles.getD i 0 == 3

/-- R385: a declared range that fails. -/
def rangeBad (s : State) (ab : ArgBlk) (bp : Baked) (r : DRange) : Bool :=
  match ab.objs[r.obj]? with
  | none => true
  | some o => !takesRoot bp r.obj || r.off + r.len > objLen s o

/-- A section's digest does not match its bytes (Table 9.5, reason 0x07). -/
def secBad (bytes : Nat → Nat → List Byte) (c : CodeSec) : Bool := sha256 (bytes c.off c.len) != c.digest

/-- R222, Table 18.7: rectangle of a partition as a header gives it: width, height less one. -/
def partRect (x : Part) : Nat × Nat := (x.width, if x.width == 0 then 0 else x.cores.length / x.width - 1)

/-- Reason 0x05: the header does not match the cores held. -/
def rectBad (s : State) (p : Nat) (h : BakedHdr) : Bool :=
  let x := getPart s p
  h.ncb != x.cores.length || h.rectw != (partRect x).1 || h.recth1 != (partRect x).2

/-- Reason 0x06: a core lacks what the header says it uses. -/
def unitsBad (s : State) (p : Nat) (h : BakedHdr) : Bool :=
  (getPart s p).cores.zipIdx.any (fun (c, i) =>
    let k := getCore s c
    (List.range 8).any (fun t =>
      let st := if t ≥ s.build.ntorte then 3 else smGet 0 k.tstat t
      ((h.tfull.getD i 0).getLsbD t && st != 0) || ((h.tsolo.getD i 0).getLsbD t && st > 1))
    || (h.suse.getLsbD i && k.sout))

/-- Table 9.5: the reason a RUN is refused at fetch; 0 for none. `bytes` reads the memory object of `len` bytes. -/
def bakedReason (s : State) (p len : Nat) (bytes : Nat → Nat → List Byte) (h : BakedHdr) (bp : Baked) : Nat :=
  if h.magic != 0x4B41424D || h.fmtMaj != 1 || h.rsvNZ then 1
  else if h.dvisMaj != 1 then 2
  else if h.stepping != glbStepping s.build then 3
  else if h.ntorte != s.build.ntorte || h.spad != spadCode s.build || h.nslot != s.build.nslot then 4
  else if rectBad s p h then 5
  else if unitsBad s p h then 6
  else if h.length > len || bp.segs.any (fun d => d.secs.any (secBad bytes)) then 7
  else 0

/-- The Extent handles that an argument block lists. -/
def listedExts (ab : ArgBlk) : List W32 := (ab.objs.filter (fun o => o.kind == 0)).map ObjEnt.handle

/-- R281: a listed Extent has an accepted UNMAP. -/
def goneAtFetch (s : State) (ab : ArgBlk) : Bool :=
  (listedExts ab).any (fun h => (smGet none s.ext.unmap (hIdx h)).isSome && (extAt s (hIdx h)).gen == hGen h)

/-! ### Residency (R387) -/

/-- The stored root of a listed sealed Extent that its handle names, of the command's partition. -/
def sealedRoot (s : State) (p : Nat) (ab : ArgBlk) (i : Nat) : Option (BitVec 256) :=
  match ab.objs[i]? with
  | some o =>
    let e := extAt s (hIdx o.handle)
    if o.kind == 0 && e.valid && e.gen == hGen o.handle && e.part == p && e.oepoch == (getPart s p).oepoch && e.dgv then
      smGet none s.ext.roots (hIdx o.handle)
    else none
  | none => none

/-- RESROOT and RESLAY of declared ranges; none where a bound Extent is not sealed. -/
def resDigests (s : State) (p : Nat) (ab : ArgBlk) (rs : List ResRange) : Option (BitVec 256 × BitVec 256) :=
  if rs.any (fun r => (sealedRoot s p ab r.obj).isNone) then none
  else
    let root (i : Nat) : List Byte := digBytes ((sealedRoot s p ab i).getD 0)
    let used := (List.range ab.objs.length).filter (fun i => rs.any (fun r => r.obj == i))
    let r1 := sha256 (used.flatMap (fun i => natLe 1 i ++ root i))
    let r2 := sha256 (rs.flatMap (fun r => natLe 1 r.core ++ natLe 4 r.base ++ natLe 4 r.rows ++ root r.obj ++ natLe 8 r.off
      ++ [0, 0, 0]))
    some (r1, r2)

/-- R387: a program that uses a residency finds it as declared. -/
def residencyOk (s : State) (p : Nat) (ab : ArgBlk) (u : ResUse) : Bool :=
  match u with
  | .use rs => match resDigests s p ab rs, (getPart s p).res with
    | some (a, b), some r => r.ok && r.root == a && r.lay == b
    | _, _ => false
  | _ => true

/-! ### Digest jobs (R384, R386) -/

/-- Queue a digest job for a command. -/
def addJob (s : State) (q : Nat) (seq : W32) (kind obj : Nat) (host : Bool) (addr key len : Nat) : State :=
  let s := { s with nextId := s.nextId + 1, host := { s.host with
    jobs := s.host.jobs ++ [⟨s.nextId, q, seq, kind, obj, host, addr, key, len, []⟩] } }
  modCmd s q seq (fun c => { c with jobs := c.jobs + 1 })

/-- R301: the corrected table Granules of the input lookups are recorded. -/
def inputCe (s : State) (ab : ArgBlk) (bp : Baked) : State :=
  ab.objs.zipIdx.foldl (fun s (o, i) => if o.kind == 0 && takesRoot bp i then lookupCe s o.handle s.now else s) s

/-- R386: the input lookups of a command; the first that fails. -/
def inputFault (s : State) (p : Nat) (ab : ArgBlk) (bp : Baked) : Option Flt :=
  (ab.objs.zipIdx.filterMap (fun (o, i) =>
    if o.kind == 0 && takesRoot bp i then
      match lookup s o.handle p s.ext.epoch 0 (extAt s (hIdx o.handle)).size false with
      | .bad c => some (⟨c, extDetail o.handle 0, s.now⟩ : Flt)
      | .ok _ => none
    else none)).head?

/-- R386: the roots of IN and STATE objects: stored, or hashed. -/
def inputJobs (q : Nat) (seq : W32) (p : Nat) (bp : Baked) (s : State) (oi : ObjEnt × Nat) : State :=
  let (o, i) := oi
  if !takesRoot bp i then s
  else if o.kind == 1 then addJob s q seq 0 i true o.base.toNat 0 o.length.toNat
  else
    let e := extAt s (hIdx o.handle)
    match (if e.dgv then smGet none s.ext.roots (hIdx o.handle) else none) with
    | some r => modCmd s q seq (fun c => { c with ins := smSet 0 c.ins i r })
    | none => addJob s q seq 0 i false e.addr (partKey s p) e.size

/-- R389: the roots of the declared ranges of one class (1 codebook, 2 outlier, 3 anchor), taken at command start. -/
def rangeJobs (q : Nat) (seq : W32) (p : Nat) (ab : ArgBlk) (kind : Nat) (rs : List DRange) (s : State) : State :=
  rs.zipIdx.foldl (fun s (r, i) => match ab.objs[r.obj]? with
    | none => s
    | some o =>
      if o.kind == 1 then addJob s q seq kind i true (o.base.toNat + r.off) 0 r.len
      else addJob s q seq kind i false ((extAt s (hIdx o.handle)).addr + r.off) (partKey s p) r.len) s

/-- R94, R276, R277: a field of the RUN, or of its argument block where that has been read, is bad. -/
def runForm (h : CmdHdr) (b : RunBody) (ab : Option ArgBlk) : Bool :=
  flagsBad h 0x3F || h.tflags.toNat % 4 == 3 || b.args.toNat % 128 != 0 || (h.tflags.getLsbD 2 && b.prog.toNat % 4096 != 0)
    || (match ab with | some a => argBad a | none => false)

/-- The digest jobs of a RUN (R386, R389). -/
def runJobs (s : State) (p q : Nat) (seq : W32) (ab : ArgBlk) (bp : Baked) : State :=
  let s := ab.objs.zipIdx.foldl (inputJobs q seq p bp) s
  let s := rangeJobs q seq p ab 1 bp.codebooks s
  let s := rangeJobs q seq p ab 2 bp.outliers s
  rangeJobs q seq p ab 3 bp.anchors s

/-- R386: the roots of a RUN that waits are taken anew, since a Segment that now starts may change what it reads. -/
def rehashCmd (p q : Nat) (s : State) (c : Cmd) : State :=
  match c.body with
  | .run _ ab pr =>
    if notStarted c then
      let s := { s with host := { s.host with jobs := s.host.jobs.filter (fun j => !(j.q == q && j.seq == c.seq)) } }
      runJobs (modCmd s q c.seq (fun c => { c with jobs := 0, cbs := [], ois := [], ans := [] })) p q c.seq ab pr.tabs
    else s
  | _ => s

/-- R386: the same for every RUN of the partition that waits for its first Segment. -/
def rehash (s : State) (p : Nat) : State :=
  s.host.slots.foldl (fun s e => match e.2 with
    | some x => if x.part == p then x.cmds.foldl (rehashCmd p x.q) s else s
    | none => s) s

/-- R387: the Extents that a residency in use binds and that the program does not read itself: their roots enter the input digest, as they stand at the
comparison. -/
def resRootsOf (s : State) (p : Nat) (ab : ArgBlk) (bp : Baked) : List (Nat × BitVec 256) :=
  match bp.res with
  | .use rs => ((List.range ab.objs.length).filter (fun i => rs.any (fun r => r.obj == i) && !takesRoot bp i)).map
      (fun i => (i, (sealedRoot s p ab i).getD 0))
  | _ => []

/-- The slots of a program, ascending. -/
def slotList (bp : Baked) : List Nat := (List.range 8).filter (fun k => bp.slots.any (fun u => u.slot == k))

/-- R355, R389: the load digests of the slots that a program uses, as they stand. -/
def slotDigs (s : State) (bp : Baked) : List (BitVec 256) := (slotList bp).map (fun k => (getSlt s k).dig)

/-- What follows the checks at the fetch of a RUN: its digest jobs are queued, and its Segments are ready to start. -/
def readyRun (q : Nat) (ab : ArgBlk) (pr : Prog) (arch : List Byte) (s : State) (p : Nat) (c : Cmd) : State :=
  let bp := pr.tabs
  let s := runJobs s p q c.seq ab bp
  let used := resRootsOf s p ab bp
  modCmd s q c.seq (fun c => { c with
    arch := arch, sdigs := slotDigs s bp,
    ins := used.foldl (fun m r => smSet 0 m r.1 r.2) c.ins,
    stage := if bp.segs == [] then .drain else c.stage,
    resRoots := match bp.res with
      | .none => none
      | .use rs => resDigests s p ab rs
      | .establish rs => resDigests s p ab rs })

/-- R391, R263: the archived record of a RUN with REPLAY as its read at fetch completes; none where that failed. -/
def readArch (s : State) (h : CmdHdr) (arch : HostCpl) : State × Option (List Byte) :=
  if !h.tflags.getLsbD 5 then (s, some [])
  else match hostGot s arch with
    | some bs => (journal s (.hostBytes bs), some bs)
    | none => (s, none)

/-- The bus address of a command's Replay slot (R278). -/
def replaySlot (s : State) (q : Nat) (seq : W32) : Nat :=
  match queueAt s q with | some x => (x.qr.rpl + BitVec.ofNat 64 (512 * ringSlot x.qr seq)).toNat | none => 0

/-- The checks of a RUN whose Baked Program can be read (R230, R385 to R387, R391): the archived record, BAKED_REFUSED, the declared ranges,
RESIDENCY_LOST, the input lookups. -/
def checkRun (q : Nat) (h : CmdHdr) (b : RunBody) (ab : ArgBlk) (pr : Prog) (len : Nat) (arch : HostCpl) (s : State) (p : Nat) (c : Cmd) :
    State :=
  match readArch s h arch with
  | (s, none) => failCmd s q c.seq (hostAbort s (replaySlot s q c.seq))
  | (s, some arch) =>
  let bp := pr.tabs
  let r := bakedReason s p len (progBytes s p (h.tflags.getLsbD 2) pr.img b) pr.hdr bp
  if r != 0 then failCmd s q c.seq (fetchFlt s .bakedRefused r)
  else if (bp.codebooks ++ bp.outliers ++ bp.anchors).any (rangeBad s ab bp) then failCmd s q c.seq (fetchFlt s .cmdForm 0)
  else if !residencyOk s p ab bp.res then failCmd s q c.seq ⟨.residencyLost, 0, s.now⟩
  else
    let s1 := inputCe s ab bp
    match inputFault s p ab bp with
    | some f => failCmd s1 q c.seq f
    | none => readyRun q ab pr arch s1 p c

/-- What follows the checks of form of a RUN: NO_CORES, HOST_ABORT of its argument block, OBJECT_GONE, then its Baked Program is looked up and
read. -/
def startRun (q : Nat) (h : CmdHdr) (b : RunBody) (ab : Option ArgBlk) (host : Option (List Byte)) (pr : Prog) (arch : HostCpl) (s : State)
    (x : QSlot) (c : Cmd) : State :=
  let p := x.part
  let ph := progHandle b
  if (getPart s p).cores == [] then failCmd s q c.seq ⟨.noCores, 0, s.now⟩
  else match ab with
    | none => failCmd s q c.seq (hostAbort s b.args.toNat)
    | some ab =>
      if goneAtFetch s ab then endCmd s q c.seq 3 .none false
      else if h.tflags.getLsbD 2 then match host with
        | none => failCmd s q c.seq (hostAbort s b.prog.toNat)
        | some img => checkRun q h b ab pr img.length arch (journal s (.hostBytes img)) p c
      else
        let s := lookupCe s ph s.now
        match lookup s ph p s.ext.epoch 0 256 false with
        | .bad f => failCmd s q c.seq ⟨f, extDetail ph 0, s.now⟩
        | .ok e => match stkCheck (fun s f => enterRec (cmdRec s q f) s) e.addr (min e.size pr.hdr.length) s.now s with
          | (s, some f) => failCmd s q c.seq f
          | (s, none) => checkRun q h b ab pr e.size arch s p c

/-- The Baked Program of a RUN (R228): its header parsed from its bytes, the tables that stand behind it, its image where it lies in host
memory. -/
def progOf (s : State) (p : Nat) (h : CmdHdr) (b : RunBody) (host : Option (List Byte)) (bp : Baked) : Prog :=
  ⟨parseHdr (progBytes s p (h.tflags.getLsbD 2) (host.getD []) b 0 256), bp, if h.tflags.getLsbD 2 then host.getD [] else []⟩

/-- The tables that a RUN brings are those that a good header counts (R228). -/
def tabsFit (h : BakedHdr) (bp : Baked) : Bool := h.magic != 0x4B41424D || h.fmtMaj != 1 || h.nseg == bp.segs.length

/-- RUN (R276): the entry, its argument block, its Baked Program and, with REPLAY, the archived record of its Replay slot are read. -/
def execRun (q : Nat) (h : CmdHdr) (b : RunBody) (rd : RunReads) (bp : Baked) (arch : HostCpl) (s : State) :
    Host.Outcome State Fault Refusal :=
  let ab := argBlk s rd.args
  let host := hostGot s rd.prog
  let p := match queueAt s q with | some x => x.part | none => 16
  let pr := progOf s p h b host bp
  if !argSize rd.args || !tabsFit pr.hdr bp || !cplSize arch 512 then .next s
  else fetch q 1 h (.run b) ab (.run b (ab.getD ⟨[], 0, false, []⟩) pr) (fun _ => runForm h b ab) (startRun q h b ab host pr arch) s

/-! ### LOAD_SLOT (R275, R350) -/

/-- A load that has not begun. -/
def newLoad (cmd : Option (Nat × BitVec 32)) (src : LoadSrc) (mask : List Nat) : Load :=
  { cmd := cmd, src := src, mask := mask, stage := 0, since := 0, sid := 0, nfrm := 0, skey := 0, next := 0, tries := 0, zero := none, ids := [], bytes := [] }

/-- The load of a LOAD_SLOT joins the loader's list, which it works through in order (R350); frames follow by SLOT_FRAME. -/
def loadSlotWork (s : State) (p q : Nat) (c : Cmd) (b : LoadSlotBody) : State :=
  let mask := (List.range 8).filter (fun k => b.mask.getLsbD k)
  let src := if b.src == 1 then LoadSrc.host b.addr b.length.toNat else .extent b.handle p b.addr.toNat b.length.toNat
  modCmd { s with loads := s.loads ++ [newLoad (some (q, c.seq)) src mask] } q c.seq (fun c => { c with stage := .running })

/-- LOAD_SLOT (R275, R350). -/
def execLoadSlot (q : Nat) (h : CmdHdr) (b : LoadSlotBody) (s : State) : Host.Outcome State Fault Refusal :=
  let mask := (List.range 8).filter (fun k => b.mask.getLsbD k)
  let priv := match queueAt s q with | some x => !x.qr.pfq | none => false
  fetch q 7 h (.loadSlot b) none (.loadSlot b)
    (fun _ => !priv && (flagsBad h 0 || b.mask == 0 || mask.any (fun k => k ≥ s.build.nslot) || b.src > 1
      || (b.src == 1 && b.handle != 0) || b.addr.toNat % 32 != 0))
    (fun s x c =>
      if priv then failCmd s q c.seq ⟨.cmdPriv, 0, s.now⟩ else inTurn q (fun s x c => loadSlotWork s x.part q c b) s x c) s

/-! ### MAP, UNMAP (R281, R282, R296, R297, R302) -/

/-- The Owner key of a partition is LIVE. -/
def keyLive (s : State) (p : Nat) : Bool := (getPart s p).keySt == .live

/-- R296: the lowest free index whose invalid entry's GEN is below 0x1FFF. -/
def freeIdx (s : State) : Nat → Nat → Option Nat
  | 0, _ => none
  | fuel + 1, i =>
    let e := extAt s i
    if i ≥ 524288 then none
    else if !e.valid && e.gen.toNat < 0x1FFF && !(s.ext.stg.any (fun x => match x.2 with | some g => g.idx == i | none => false)) then
      some i
    else freeIdx s fuel (i + 1)

/-- Ranges of 64 KiB units that Extents hold, active, staged or retained. -/
def usedUnits (s : State) : List (Nat × Nat) :=
  (s.ext.tab.filterMap (fun x => if x.2.valid then some (x.2.base.toNat, x.2.len.toNat + 1) else none))
    ++ (s.ext.stg.filterMap (fun x => match x.2 with
      | some g => if g.ent.valid then some (g.ent.base.toNat, g.ent.len.toNat + 1) else none
      | none => none))

/-- R296: the lowest place where `n` units lie free and contiguous. -/
def freeBase (s : State) (n : Nat) : Option Nat :=
  let us := usedUnits s
  let total := if s.stk.out then 0 else stackGrans s.build / 2048
  let fits (a : Nat) : Bool := a + n ≤ total && us.all (fun u => a + n ≤ u.1 || u.1 + u.2 ≤ a)
  firstFrom 0 fits (0 :: us.map (fun u => u.1 + u.2))

/-- Stage an entry and request the flip. -/
def stageFlip (s : State) (idx : Nat) (e : ExtEnt) : Option State :=
  (stageEnt s idx e).map (fun s => { s with ext := { s.ext with flip := true } })

/-- A MAP of KIND 0 by the MC (R282, R296): quota, index and place, staged entry. It stays queued while the key is not LIVE (R307), the
MC is stopped (R410) or no staging slot is free (R298). -/
def mapExtentWork (s : State) (p q : Nat) (c : Cmd) (b : MapBody) : State :=
  let n := b.length.toNat / 65536
  if !mcUp s || !keyLive s p then s
  else if (getPart s p).stkUse + n > stkLimit s p then endCmd s q c.seq 4 .none false
  else match freeIdx s (s.ext.tab.length + s.ext.stg.length + 2) 1, freeBase s n with
    | some i, some a =>
      let e : ExtEnt := { extAt s i with
        valid := true, part := p, oepoch := (getPart s p).oepoch, base := BitVec.ofNat 24 a,
        len := BitVec.ofNat 20 (n - 1), packed := b.attr.getLsbD 0, ro := false, dgv := false, keyslot := p, resv := false }
      (match stageFlip s i e with
       | none => s
       | some s =>
         let s := modPart s p (fun x => { x with stkUse := x.stkUse + n })
         let s := { s with ext := { s.ext with jobs := s.ext.jobs ++ [⟨q, c.seq, i, 6⟩] } }
         modCmd s q c.seq (fun c => { c with stage := .running }))
    | _, _ => failCmd s q c.seq ⟨.extNospace, 0, s.now⟩

/-- A MAP of KIND 1 (R274, R282): rows charged, handle written, done. -/
def mapRegionWork (s : State) (p q : Nat) (c : Cmd) (b : MapBody) : State :=
  let rows := b.length.toNat * b.ncore
  if !mcUp s || !keyLive s p then s
  else if rowUse (getPart s p) + rows > rowLimit s p then endCmd s q c.seq 4 .none false
  else
    let h := Config.regionHandle s.host.regionNo
    let s := { s with host := { s.host with regionNo := s.host.regionNo + 1 } }
    let s := modPart s p (fun x => { x with regions := x.regions ++ [⟨h, rows⟩] })
    let s := journal s (.mapHandle q h)
    endCmd (queueWrite s q b.result (natLe 4 h.toNat)) q c.seq 0 .none false

/-- A MAP of KIND 2 (R302), step 1: the entry is staged with RO set. -/
def mapSealWork (s : State) (p q : Nat) (c : Cmd) (b : MapBody) : State :=
  let h : W32 := b.length.truncate 32
  let e := extAt s (hIdx h)
  if !mcUp s || !keyLive s p then s
  else if hIdx h == 0 || !e.valid || e.gen != hGen h || e.part != p || e.oepoch != (getPart s p).oepoch || e.ro then
    failCmd s q c.seq (fetchFlt s .cmdForm 0)
  else match stageFlip s (hIdx h) { e with ro := true, rheld := false, rslot := 0, vepoch := 0 } with
    | none => s
    | some s =>
      let s := { s with ext := { s.ext with jobs := s.ext.jobs ++ [⟨q, c.seq, hIdx h, 1⟩] } }
      modCmd s q c.seq (fun c => { c with stage := .running })

/-- A fetched, unretired RUN that lists an Extent (R281). -/
def lists (h : W32) (c : Cmd) : Bool :=
  match c.body with
  | .run _ ab _ => (listedExts ab).contains h
  | _ => false

/-- R281, ABORT mode: the commands of one queue that list an Extent: those not started are OBJECT_GONE, one that has started is aborted with
OBJECT_FREED, between two of its Segments at once. -/
def freeListed (h : W32) (s : State) (q : Nat) : State :=
  match queueAt s q with
  | none => s
  | some x =>
    x.cmds.foldl (fun s c =>
      if c.refc || !lists h c || isOver c then s
      else if notStarted c then endCmd s q c.seq 3 .none false
      else match (getPart s x.part).seg with
        | some g =>
          if g.q == q && g.seq == c.seq then
            if g.abort.isSome then s
            else
              let s' := enterRec (segRec s x.part g ⟨.objectFreed, extDetail h 0, s.now⟩ none) s
              abortSeg s' x.part 3 (idxOf s s')
          else between h q s c
        | none => between h q s c) s
where
  /-- A RUN that stands between two Segments starts no further one. -/
  between (h : W32) (q : Nat) (s : State) (c : Cmd) : State :=
    if c.stage == .queued then
      let s' := enterRec (cmdRec s q ⟨.objectFreed, extDetail h 0, s.now⟩) s
      endCmd s' q c.seq 3 (idxOf s s') true
    else s

/-- Every resident queue. -/
def allQueues (s : State) : List Nat := s.host.slots.filterMap (fun e => e.2.map QSlot.q)

/-- An UNMAP (R281, R297): a region is given back at once; an Extent's UNMAP is accepted or fails. -/
def unmapWork (s : State) (p q : Nat) (c : Cmd) (h : W32) : State :=
  let e := extAt s (hIdx h)
  let fail (f : FCode) : State := failCmd s q c.seq ⟨f, extDetail h 0, s.now⟩
  if !mcUp s then s
  else if (getPart s p).regions.any (fun r => r.handle == h) then
    endCmd (modPart s p (fun x => { x with regions := (takeFirst (fun r => r.handle == h) x.regions).2 })) q c.seq 0 .none false
  else if hIdx h == 0 || !e.valid || e.gen != hGen h || (smGet none s.ext.unmap (hIdx h)).isSome then fail .extStale
  else if e.part != p || e.oepoch != (getPart s p).oepoch then fail .extPart
  else
    let s := { s with ext := { s.ext with
      unmap := smSet none s.ext.unmap (hIdx h) (some (q, c.seq)), jobs := s.ext.jobs ++ [⟨q, c.seq, hIdx h, 5⟩] } }
    modCmd ((allQueues s).foldl (freeListed h) s) q c.seq (fun c => { c with stage := .running })

/-- R281: the users of an Extent that hold up its invalidation: running Segments of ABORT contexts, unretired commands of REFCOUNT
ones. -/
def unmapBusy (s : State) (h : W32) : Bool :=
  s.host.slots.any (fun y => match y.2 with
    | some x => x.cmds.any (fun c => lists h c &&
        (c.refc || s.parts.any (fun p => match p.2.seg with
          | some g => g.q == x.q && g.seq == c.seq
          | none => false)))
    | none => false)

/-- Replace the step of an MC job, or end it with `none`. -/
def setJob (s : State) (j : ExtJob) (st : Option Nat) : State :=
  { s with ext := { s.ext with jobs := match st with
    | some k => s.ext.jobs.map (fun x => if x == j then { x with step := k } else x)
    | none => s.ext.jobs.filter (fun x => x != j) } }

/-- The partition of a queue's context. -/
def queuePart (s : State) (q : Nat) : Nat := match queueAt s q with | some x => x.part | none => 16

/-- A job whose command is over or gone, aborted by a reset, before its entry was staged: the MC drops it (R280). -/
def jobDead (s : State) (j : ExtJob) : Bool :=
  (match cmdAt s j.q j.seq with | some c => isOver c | none => true) && (j.step == 5 || j.step == 2 || j.step == 3 || j.step == 7)

/-- R308: the MC drops a dead job, an accepted UNMAP with its mark. -/
def dropJob (s : State) (j : ExtJob) : State :=
  let s := { s with host := { s.host with jobs := s.host.jobs.filter (fun x => !(x.kind == 4 && x.q == j.q && x.seq == j.seq)) } }
  let s := if j.step == 5 then { s with ext := { s.ext with unmap := smSet none s.ext.unmap j.idx none } } else s
  setJob s j none

/-- One step of the MC on a job, where it can take it: 5 the invalidation is staged, 2 the digest begins, 7 the sealed entry is staged (R281,
R302). -/
def jobStep (s : State) (j : ExtJob) : State :=
  let e := extAt s j.idx
  if jobDead s j then dropJob s j
  else match j.step with
  | 5 =>
    if unmapBusy s (mkHandle j.idx e.gen) then s
    else (match stageFlip s j.idx { e with valid := false, gen := e.gen + 1, rheld := false, rslot := 0, vepoch := 0 } with
      | some s => setJob s j (some 6)
      | none => s)
  | 2 =>
    if e.rheld || storesOut s e.part then s
    else addJob (setJob s j (some 3)) j.q j.seq 4 j.idx false e.addr (partKey s e.part) e.size
  | 7 =>
    (match stageFlip s j.idx { e with dgv := true, rheld := false, rslot := 0, vepoch := 0 } with
      | some s => setJob s j (some 4)
      | none => s)
  | _ => s

/-! ### QUERY (R274, R376, R422, R423) -/

/-- The capability block (Table 18.12). -/
def capability (s : State) : List Byte :=
  natLe 4 0x50414341 ++ natLe 1 0 ++ natLe 1 1 ++ natLe 2 40 ++ natLe 8 (glbBuild s.build).toNat ++ natLe 1 (glbStepping s.build)
    ++ natLe 3 0 ++ glbCaps.flatMap (fun v => natLe 4 v.toNat) ++ natLe 4 s.boot.books.length ++ List.replicate 24 0
    ++ transitIds.flatMap (fun i => natLe 2 i ++ natLe 2 (transit s.build i)) ++ s.boot.books.flatten

/-- One inventory entry, 128 bytes (R376). -/
def invEntry (e : InvEnt) : List Byte :=
  natLe 1 e.type ++ natLe 1 e.index ++ natLe 1 e.state ++ ([0] : List Byte) ++ e.body.take 124 ++ List.replicate (124 - e.body.length) 0

/-- The inventory record (R376). -/
def inventoryRec (s : State) : List Byte :=
  natLe 4 0x56544E49 ++ ([0, 1] : List Byte) ++ natLe 2 s.mc.inv.length ++ natLe 2 (engId s)
    ++ natLe 1 (match s.boot.fuses with | some f => f.cfgpos | none => 0) ++ natLe 1 (glbStepping s.build)
    ++ natLe 8 (glbBuild s.build).toNat ++ List.replicate 44 0 ++ s.mc.inv.flatMap invEntry

/-- The quota report of a partition (Table 18.13). -/
def quotaReport (s : State) (p : Nat) : List Byte :=
  let x := getPart s p
  let (qc, qq, qe) := quotaSlots s p
  natLe 4 (stkLimit s p) ++ natLe 4 x.stkUse ++ natLe 4 (rowLimit s p) ++ natLe 4 (rowUse x)
    ++ natLe 1 qc ++ natLe 1 (ctxUse s p).length ++ natLe 1 qq ++ natLe 1 (queueUse s p) ++ natLe 2 qe ++ natLe 2 (evtUse s p)
    ++ natLe 2 (grace s p) ++ natLe 1 (if overQuota s p then 1 else 0) ++ ([0] : List Byte)
    ++ natLe 4 (match x.overB with
      | some b => if overQuota s p then min 0xFFFFFFFF (s.beat.b - b).toNat else 0
      | none => 0)
    ++ List.replicate 32 0

/-- R274: DEST receives at most LENGTH bytes, and the command is done. -/
def answerQuery (q : Nat) (b : QueryBody) (bytes : List Byte) (s : State) (c : Cmd) : State :=
  endCmd (queueWrite s q b.dest (bytes.take b.length.toNat)) q c.seq 0 .none false

/-- A QUERY by its SEL: 0 the capability block, 1 the inventory record, which the MC returns, and 2 the quota report. While the MC is stopped the
command stays queued (R410). -/
def queryWork (s : State) (p q : Nat) (c : Cmd) (sel : Nat) (b : QueryBody) : State :=
  match sel with
  | 0 => answerQuery q b (capability s) s c
  | 1 => if mcUp s then answerQuery q b (inventoryRec s) s c else s
  | _ => answerQuery q b (quotaReport s p) s c

/-- A queued command that needs no Segment is tried again. -/
def retryMc (s : State) (qc : Nat × Cmd) : State :=
  let (q, c) := qc
  let p := queuePart s q
  match queueAt s q with
  | none => s
  | some x =>
    if c.stage != .queued || !mayStart x c.seq then s
    else match c.body with
      | .mapExtent b => mapExtentWork s p q c b
      | .mapRegion b => mapRegionWork s p q c b
      | .mapSeal b => mapSealWork s p q c b
      | .unmap h => unmapWork s p q c h
      | .loadSlot b => loadSlotWork s p q c b
      | .query sel b => queryWork s p q c sel b
      | _ => s

/-- The MC goes on with its key operations and its table work as far as it can, and queued commands that need no Segment are carried out. -/
def mcWork (s : State) : State :=
  let s := if mcUp s then s.ext.jobs.foldl jobStep (placeWaiting (keyWork s)) else s
  ((s.host.slots.flatMap (fun e => match e.2 with | some x => x.cmds.map (fun c => (x.q, c)) | none => []))).foldl retryMc s

/-- A seal whose digest is complete (R302, step 4). -/
def sealed (s : State) (q : Nat) (seq : W32) (root : BitVec 256) : State :=
  match s.ext.jobs.find? (fun j => j.q == q && j.seq == seq && j.step == 3), cmdAt s q seq with
  | some j, some c =>
    let res := match c.body with | .mapSeal b => b.result | _ => 0
    let s := { s with ext := { s.ext with roots := smSet none s.ext.roots j.idx (some root) } }
    setJob (queueWrite s q res (digBytes root)) j (some 7)
  | _, _ => s

/-- A command of the MC is done, unless it is over already. -/
def doneCmd (s : State) (q : Nat) (seq : W32) : State :=
  match cmdAt s q seq with
  | some c => if isOver c then s else endCmd s q seq 0 .none false
  | none => s

/-- What a flip ends: a job whose staged entry has moved in (R296, R297, R302). A MAP that a reset has aborted meanwhile leaves its Extent valid and charged
(log 55). -/
def flipJob (s : State) (j : ExtJob) : State :=
  let moved := !(s.ext.stg.any (fun x => match x.2 with | some g => g.idx == j.idx && !g.retained | none => false))
  let e := extAt s j.idx
  if !moved then s
  else match j.step, ((cmdAt s j.q j.seq).filter (fun c => !isOver c)).map Cmd.body with
    | 1, _ => setJob s j (some 2)
    | 4, _ => doneCmd (setJob s j none) j.q j.seq
    | 6, some (.mapExtent b) =>
      let h := mkHandle j.idx e.gen
      let s := journal (queueWrite s j.q b.result (natLe 4 h.toNat)) (.mapHandle j.q h)
      doneCmd (setJob s j none) j.q j.seq
    | 6, _ =>
      let p := e.part
      if e.valid then setJob s j none
      else
      let s := modPart s p (fun x => { x with stkUse := x.stkUse - (e.len.toNat + 1) })
      let s := { s with ext := { s.ext with
        unmap := smSet none s.ext.unmap j.idx none, roots := smSet none s.ext.roots j.idx none } }
      doneCmd (setJob s j none) j.q j.seq
    | _, _ => s

/-- EXT_FLIP_EFFECT (R24, R299, R410): at the boundary after the running MC's request the epoch rises and staged entries move in; MAP, UNMAP and seals whose
entry moved retire, and the MC goes on. -/
def execExtFlipEffect (s : State) : Host.Outcome State Fault Refusal :=
  if !s.beat.flipDue || !atEdge s || !mcUp s then .next s
  else
    let s := flipTable { s with beat := { s.beat with flipDue := false } }
    .next (mcWork (s.ext.jobs.foldl flipJob s))

/-- RETAINED_RELEASE (R300, R302): at a boundary, retained versions no running Segment can see are released. -/
def execRetainedRelease (s : State) : Host.Outcome State Fault Refusal :=
  if !atEdge s then .next s else .next (mcWork ((keysOf s.ext.tab).foldl releaseAt s))

/-- The command's Segment runs: what has ended the command already retires after it (R279). -/
def cmdRuns (s : State) (p q : Nat) (seq : W32) : Bool :=
  match (getPart s p).seg with | some g => g.q == q && g.seq == seq | none => false

/-- COMMAND_RETIRE (R278, R397): the front command of a queue, if it is over, or a SIGNAL whose earlier commands have retired. A
command that publishes retires at PUBLICATION. In a stopped queue only what led to the stop retires (R36). -/
def execCommandRetire (q : Nat) (s : State) : Host.Outcome State Fault Refusal :=
  match queueAt s q with
  | none => .next s
  | some x => match frontCmd x with
    | none => .next s
    | some c => match c.stage with
      | .ended status idx =>
        if fltOut s idx && !cmdRuns s x.part q c.seq && (!x.halted || status == 2 || x.cmds.any stopsQueue) then
          .next (mcWork (finishOp (retireFront s q status idx)))
        else .next s
      | .queued => match c.body with
        | .signal => if mayStart x c.seq then .next (mcWork (finishOp (retireFront s q 0 .none))) else .next s
        | _ => .next s
      | _ => .next s

/-- MAP of KIND 0 (R296). -/
def execMapExtent (q : Nat) (h : CmdHdr) (b : MapBody) (s : State) : Host.Outcome State Fault Refusal :=
  let n := b.length.toNat
  fetch q 8 h (.map b) none (.mapExtent b) (fun _ => flagsBad h 0 || b.kind != 0 || b.attr.toNat > 1 || n % 65536 != 0 || n < 65536 || n > 2 ^ 36)
    (inTurn q (fun s x c => mapExtentWork s x.part q c b)) s

/-- MAP of KIND 1 (R274): the cores named lie in the partition. -/
def execMapRegion (q : Nat) (h : CmdHdr) (b : MapBody) (s : State) : Host.Outcome State Fault Refusal :=
  fetch q 8 h (.map b) none (.mapRegion b) (fun x => flagsBad h 0 || b.kind != 1 || b.first + b.ncore > (getPart s x.part).cores.length)
    (inTurn q (fun s x c => mapRegionWork s x.part q c b)) s

/-- MAP of KIND 2 (R302). -/
def execMapSeal (q : Nat) (h : CmdHdr) (b : MapBody) (s : State) : Host.Outcome State Fault Refusal :=
  fetch q 8 h (.map b) none (.mapSeal b) (fun _ => flagsBad h 0 || b.kind != 2) (inTurn q (fun s x c => mapSealWork s x.part q c b)) s

/-- UNMAP (R281, R297). -/
def execUnmap (q : Nat) (h : CmdHdr) (handle : W32) (s : State) : Host.Outcome State Fault Refusal :=
  fetch q 9 h (.unmap handle) none (.unmap handle) (fun _ => flagsBad h 0) (inTurn q (fun s x c => mcWork (unmapWork s x.part q c handle))) s

/-! ### The rows QUERY -/

/-- QUERY SEL 0. -/
def execQueryCapability (q : Nat) (h : CmdHdr) (b : QueryBody) (s : State) : Host.Outcome State Fault Refusal :=
  fetch q 10 h (.query b) none (.query 0 b) (fun _ => flagsBad h 0 || b.sel != 0) (inTurn q (fun s x c => queryWork s x.part q c 0 b)) s

/-- QUERY SEL 1. -/
def execQueryInventory (q : Nat) (h : CmdHdr) (b : QueryBody) (s : State) : Host.Outcome State Fault Refusal :=
  fetch q 10 h (.query b) none (.query 1 b) (fun _ => flagsBad h 0 || b.sel != 1) (inTurn q (fun s x c => queryWork s x.part q c 1 b)) s

/-- QUERY SEL 2. -/
def execQueryQuota (q : Nat) (h : CmdHdr) (b : QueryBody) (s : State) : Host.Outcome State Fault Refusal :=
  fetch q 10 h (.query b) none (.query 2 b) (fun _ => flagsBad h 0 || b.sel != 2) (inTurn q (fun s x c => queryWork s x.part q c 2 b)) s

/-! ### Digest units and host reads (R263, R278, R384, R386) -/

/-- A job is complete: its root goes where it is wanted. -/
def jobDone (s : State) (j : Job) : State :=
  let r := rootOf j.leaves j.len
  let s := { s with host := { s.host with jobs := s.host.jobs.filter (fun x => x.id != j.id) } }
  let s := modCmd s j.q j.seq (fun c =>
    let c := { c with jobs := c.jobs - 1 }
    match j.kind with
    | 0 => { c with ins := smSet 0 c.ins j.obj r }
    | 1 => { c with cbs := c.cbs ++ [r] }
    | 2 => { c with ois := c.ois ++ [r] }
    | 3 => { c with ans := c.ans ++ [r] }
    | _ => c)
  if j.kind == 4 then sealed s j.q j.seq r else s

/-- The stack bytes of leaf `k` of a job: first byte and length. -/
def leafSpan (j : Job) (k : Nat) : Nat × Nat := (j.addr + 4096 * k, min 4096 (j.len - 4096 * k))

/-- R22, R290: the reads of a leaf in the stacks find a management slot for each Granule. -/
def leafSlots (s : State) (j : Job) (k : Nat) : Bool := (stkSpan (leafSpan j k).1 (leafSpan j k).2).all (mgmtSlot s)

/-- When a leaf may be hashed: the digest reads of a seal while the MC runs (R22, R20); an input's once the launch comes to its command and nothing of the
partition can change what it reads (R386). -/
def mayHash (s : State) (j : Job) : Bool :=
  if j.kind == 4 then mcUp s
  else match queueAt s j.q with
    | some x => (getPart s x.part).seg.isNone && !storesOut s x.part && (nextLaunch x).map Cmd.seq == some j.seq
    | none => false

/-- A digest job is given up: its command fails, or the seal of its Extent does (R291). -/
def failJob (s : State) (j : Job) (f : Flt) : State :=
  let s := { s with host := { s.host with jobs := s.host.jobs.filter (fun x => !(x.q == j.q && x.seq == j.seq)) } }
  failCmd s j.q j.seq f

/-- DIGEST_LEAF_DONE (R383, R384): a unit has hashed the next leaf of a job; `data` are its bytes where they lie in host memory. A job
of an empty object has no leaf and completes here. Roots are kept in order of completion within a class, which is the order of
declaration, since jobs of one command are served in order. -/
def execDigestLeafDone (job : Nat) (data : List (BitVec 8)) (s : State) : Host.Outcome State Fault Refusal :=
  match s.host.jobs.find? (fun j => j.id == job) with
  | none => .next s
  | some j =>
    let k := j.leaves.length
    let first := s.host.jobs.find? (fun x => x.q == j.q && x.seq == j.seq)
    let want := min 4096 (j.len - 4096 * k)
    let got := if j.host then hostIn s data
      else if s.stk.out || !leafSlots s j k then none else some (stkBytes s j.key (leafSpan j k).1 (leafSpan j k).2)
    match (if (first.map Job.id) == some job && mayHash s j then got else none) with
    | none => .next s
    | some bs =>
      if bs.length != want then .next s
      else
        let (s, bad) := if j.host then (journal s (.hostBytes bs), none)
          else stkCheck (fun s f => enterRec (cmdRec s j.q f) s) (leafSpan j k).1 (leafSpan j k).2 s.now s
        match bad with
        | some f => .next (failJob s j f)
        | none =>
          let j' := if j.len == 0 then j else { j with leaves := j.leaves ++ [leafDigest bs] }
          if j'.leaves.length * 4096 ≥ j.len then .next (mcWork (jobDone s j'))
          else .next { s with host := { s.host with jobs := s.host.jobs.map (fun x => if x.id == job then j' else x) } }

/-- HOST_READ_COMPLETION (R134, R263, R278): the completion of a read that the Load engine made for a landing, of a digest job's read, of
a FetchAdd, or (identifier 2^32 + q) the failed read of queue q's next entry. -/
def execHostReadCompletion (id : Nat) (r : HostCpl) (s : State) : Host.Outcome State Fault Refusal :=
  match s.lands.find? (fun l => l.id == id && l.host.isSome && l.need != 0) with
  | some l => match r with
    | .ok given =>
      let data := (hostIn s given).getD []
      if data.length != l.data.length then .next s
      else .next (journal { s with lands := s.lands.map (fun x => if x.id == id then { x with data := data, need := 0 } else x) }
        (.hostBytes data))
    | _ =>
      .next (dropLands (raiseLand s l.loc l.part l.blk (hostAbort s (l.host.getD 0))) s.now (fun x => x.id == id))
  | none => match s.host.atoms.find? (fun a => a.id == id) with
    | some a => match r with
      | .ok _ => .next (finishOp (atomDone s a))
      | _ => .next (finishOp (atomDone (enterRec (cmdRec s a.q (hostAbort s a.addr.toNat)) s) a))
    | none => match s.host.jobs.find? (fun j => j.id == id && j.host) with
      | some j => match r with
        | .ok _ => .next s
        | _ => .next (failJob s j (hostAbort s (j.addr + 4096 * j.leaves.length)))
      | none => match queueAt s (id - 2 ^ 32), r with
        | _, .ok _ => .next s
        | none, _ => .next s
        | some x, _ =>
          if id < 2 ^ 32 then .next s
          else
            let h : CmdHdr := ⟨0, 0, false, false, none, 0, 0, 0⟩
            match mayFetch s x.q h .unread with
            | none => .next s
            | some x =>
              let (s1, c) := takeEntry s x.q x h .unread none .signal
              .next (failCmd s1 x.q c.seq (hostAbort s (x.qr.ring.toNat + 64 * ringSlot x.qr x.qr.head)))

end Sys2Proof.Machine
end

