-- ==== Sys2Proof/Machine/Mesh.lean ====
section
/-!
DEFINITION. Mesh.lean: routes, slots and flits of the core mesh (R142 to R144).
-/

namespace Sys2Proof.Machine

/-- Routers from core a toward core b: along the row first, then along the column (R142). `w` is the mesh width. -/
def routeStep (w a b : Nat) : Option (Nat × Nat) :=
  if a % w < b % w then some (a + 1, 2)
  else if a % w > b % w then some (a - 1, 3)
  else if a / w < b / w then some (a + w, 4)
  else if a / w > b / w then some (a - w, 5)
  else none

/-- The links of a route, in order. -/
def routeLinks (w : Nat) : Nat → Nat → Nat → List Nat
  | 0, _, _ => []
  | n + 1, a, b => match routeStep w a b with
    | none => []
    | some (a', d) => (8 * a + d) :: routeLinks w n a' b

/-- The links between two cores of the build. -/
def meshRoute (b : Build) (src dst : Nat) : List Nat := routeLinks (meshW b) 128 src dst

/-- R142: the write point of a flit injected at cycle t. -/
def flitArrive (b : Build) (src dst t : Nat) : Nat :=
  t + transit b 0x31 + (meshRoute b src dst).length * transit b 0x32 + transit b 0x33

/-- R142, R144: the slots a flit takes: injection, each hop, ejection. -/
def flitSlots (b : Build) (src dst t : Nat) (e : FlitEnd) : List MeshSlot :=
  ⟨8 * src, t, (t, src), e⟩ ::
    ((meshRoute b src dst).zipIdx.map (fun (l, j) => ⟨l, t + transit b 0x31 + transit b 0x32 * j, (t, src), e⟩)
      ++ [⟨8 * dst + 1, flitArrive b src dst t, (t, src), e⟩])

/-- Remove the first write of a row at a cycle: its flit was dropped (R144). -/
def dropUse (t : Nat) : List (Nat × RowUse) → List (Nat × RowUse)
  | [] => []
  | u :: us => if u.1 == t && isWrite u.2 then us else u :: dropUse t us

/-- Remove the first addition of a counter at a cycle. -/
def dropAdd (t : Nat) : List (Nat × BitVec 32) → List (Nat × BitVec 32)
  | [] => []
  | a :: as => if a.1 == t then as else a :: dropAdd t as

/-- R387: the residency of the row's partition stands, or only flits of this Beat have cleared it. -/
def resStood (s : State) (g : Nat) : Bool :=
  match (getPart s (partOf s (g / 65536))).res with
  | some r => inRes r g && (r.ok || s.mesh.any (fun m => match m.dst with | .row h _ st => st && inRes r h | _ => false))
  | none => false

/-- R144, R387: the residency that a dropped flit's write would have ended stands again, unless another write of the Beat ends it. -/
def backRes (s : State) (g : Nat) : State :=
  let p := partOf s (g / 65536)
  match (getPart s p).res with
  | some r =>
    if s.rows.any (fun e => inRes r e.1 && e.2.uses.any (fun u => isWrite u.2)) then s
    else modPart s p (fun y => { y with res := some { r with ok := true } })
  | none => s

/-- R144: undo what a dropped flit would have done. -/
def dropFlit (s : State) : FlitEnd → State
  | .row g t stood =>
    let s1 := { s with rows := smMod emptyRow s.rows g (fun r => { r with uses := dropUse t r.uses }) }
    if stood then backRes s1 g else s1
  | .ctr core sc t =>
    modCore s core (fun c => { c with sc := smMod zeroCtr c.sc sc (fun x => { x with adds := dropAdd t x.adds }) })

/-- R144: a flit takes its slots; the first slot another flit has taken makes both drop there, with MESH_COLLIDE: neither takes a later slot. -/
def sendFlit (s : State) (src dst t : Nat) (e : FlitEnd) : State × Option Flt :=
  let sl := flitSlots s.build src dst t e
  match sl.find? (fun x => s.mesh.any (fun y => y.link == x.link && y.at_ == x.at_)) with
  | some x =>
    let others := s.mesh.filter (fun y => y.link == x.link && y.at_ == x.at_)
    let s1 := others.foldl (fun s y => dropFlit s y.dst) s
    let kept := s1.mesh.filter (fun y => y.at_ ≤ x.at_ || !others.any (fun o => o.src == y.src))
    ({ s1 with mesh := sl.filter (fun y => y.at_ ≤ x.at_) ++ kept }, some ⟨.meshCollide, scratchDetail src 0 0 0 7, x.at_⟩)
  | none => ({ s with mesh := sl ++ s.mesh }, none)

/-- R143: a signal flit injected at cycle t adds to a counter at its write point. -/
def sendSignal (s : State) (src dst t : Nat) (g : Sig) : State × Option Flt :=
  let w := flitArrive s.build src dst t
  let r := sendFlit s src dst t (.ctr dst g.sc w)
  match r.2 with
  | some f => (r.1, some f)
  | none => (addCtr r.1 dst g.sc w g.amt, none)

end Sys2Proof.Machine
end

