-- ==== Sys2Proof/Machine/Control.lean ====
section
/-!
DEFINITION. Control.lean: the common and control instructions but MBXSEND: SET ADD SUB LOOP ENDLOOP WAITSC SIGNALSC REALIGN LAUNCH
CMP SKIPIF SEGEND BEATREAD HALT (R155 to R183, R192 to R196).
-/

namespace Sys2Proof.Machine

/-! ### Registers (R163, R164, R168, R191, R195) -/

/-- R188, R191: the stream has the register. -/
def regLegal (k : Strm) : Reg → Bool
  | .s n => k == .control && n < 16
  | .l n => k == .control && n < 8
  | .sd n => k == .control && n < 4
  | .an n => k == .control && n < 8
  | .a n => k != .control && n < 16
  | .d n l => k != .control && n < 16 && l < 4
  | .p n => k != .control && n < 4

/-- Width of a register (Tables 7.4, 7.6). -/
def regWidth : Reg → Nat
  | .sd _ => 64
  | .an _ => 16
  | .a _ => 48
  | _ => 32

/-- The value of a register as a number. -/
def regVal (s : State) (i : Iss) : Reg → Nat
  | .s n => (smGet 0 (getCore s i.core).s n).toNat
  | .l n => (smGet 0 (getCore s i.core).l n).toNat
  | .sd n => (smGet 0 (getCore s i.core).sd n).toNat
  | .an n => (smGet 0 (getCore s i.core).an n).toNat
  | .a n => (smGet 0 (getStrm s i.core i.strm).a n).toNat
  | .d n l => (smGet 0 (getStrm s i.core i.strm).d (4 * n + l)).toNat
  | .p n => (smGet 0 (getStrm s i.core i.strm).p n).toNat

/-- A source: its width and value. -/
def srcVal (s : State) (i : Iss) : Src → Nat × Nat
  | .reg r => (regWidth r, regVal s i r)
  | .imm32 v => (32, v.toNat)
  | .imm48 v => (48, v.toNat)

/-- R195: the source may stand here; a 48-bit immediate only in a SET of an A register. -/
def srcLegal (k : Strm) (isSet : Bool) (dst : Reg) : Src → Bool
  | .reg r => regLegal k r
  | .imm32 _ => true
  | .imm48 _ => isSet && (match dst with | .a _ => true | _ => false)

/-- R164: write a value, modulo the register's width, in cycle t. -/
def putReg (s : State) (i : Iss) (t : Nat) (r : Reg) (v : Nat) : State :=
  match r with
  | .s n => modCore s i.core (fun c => { c with s := smSet 0 c.s n (BitVec.ofNat 32 v) })
  | .l n => modCore s i.core (fun c => { c with l := smSet 0 c.l n (BitVec.ofNat 32 v) })
  | .sd n => modCore s i.core (fun c =>
      { c with sd := smSet 0 c.sd n (BitVec.ofNat 64 v), sdOld := smSet [] c.sdOld n ((t, smGet 0 c.sd n) :: smGet [] c.sdOld n) })
  | .an n => modCore s i.core (fun c =>
      { c with an := smSet 0 c.an n (BitVec.ofNat 16 v), anOld := smSet [] c.anOld n ((t, smGet 0 c.an n) :: smGet [] c.anOld n) })
  | .a n => modStrm s i.core i.strm (fun x => { x with a := smSet 0 x.a n (BitVec.ofNat 48 v) })
  | .d n l => modStrm s i.core i.strm (fun x => { x with d := smSet 0 x.d (4 * n + l) (BitVec.ofNat 32 v) })
  | .p n => modStrm s i.core i.strm (fun x => { x with p := smSet 0 x.p n (BitVec.ofNat 32 v) })

/-- R195: the value SET writes: an SD register keeps the half that HI does not name. A narrower REGISTER source is zero-extended (DESIGN CHOICE,
log 67). -/
def setVal (s : State) (i : Iss) (dst : Reg) (hi : Bool) (v : Nat) : Nat :=
  match dst with
  | .sd _ =>
    let old := regVal s i dst
    if hi then old % 2 ^ 32 + (v % 2 ^ 32) * 2 ^ 32 else old / 2 ^ 32 * 2 ^ 32 + v % 2 ^ 32
  | _ => v

/-- The sum or difference modulo the destination's width of a register and a sign-extended source: R195 extends 32-bit immediates so; that a narrower
REGISTER source is extended so too is the model's choice (log 67). -/
def addVal (s : State) (i : Iss) (dst : Reg) (src : Src) (sub : Bool) : Nat :=
  let (w, v) := srcVal s i src
  let x : Int := signed w v
  unsign (regWidth dst) ((regVal s i dst : Int) + (if sub then -x else x))

/-- R188, Table 8.6: HI stands only with an SD destination. -/
def hiBad (dst : Reg) (hi : Bool) : Bool := hi && (match dst with | .sd _ => false | _ => true)

/-- SET (R195). -/
def goSet (i : Iss) (dst : Reg) (src : Src) (hi : Bool) (s : State) : Host.Outcome State Fault Refusal :=
  issue i (.set i dst src hi) none (fun t s =>
    if !regLegal i.strm dst || !srcLegal i.strm true dst src || hiBad dst hi then .bad s ⟨.illegalOp, 0, t⟩
    else .ok (putReg s i t dst (setVal s i dst hi (srcVal s i src).2)) t) s

/-- The body of ADD and SUB (R195): no SD destination. -/
def addBody (i : Iss) (dst : Reg) (src : Src) (sub : Bool) (t : Nat) (s : State) : Res :=
  let sdDst := match dst with | .sd _ => true | _ => false
  if !regLegal i.strm dst || !srcLegal i.strm false dst src || sdDst then .bad s ⟨.illegalOp, 0, t⟩
  else .ok (putReg s i t dst (addVal s i dst src sub)) t

/-- ADD (R195). -/
def goAdd (i : Iss) (dst : Reg) (src : Src) (s : State) : Host.Outcome State Fault Refusal :=
  issue i (.add i dst src) none (addBody i dst src false) s

/-- SUB (R195). -/
def goSub (i : Iss) (dst : Reg) (src : Src) (s : State) : Host.Outcome State Fault Refusal :=
  issue i (.sub i dst src) none (addBody i dst src true) s

/-! ### Loops (R170 to R174) -/

/-- R170: the register a LOOP of the stream may count from. -/
def loopReg (k : Strm) : Reg → Bool
  | .s n => k == .control && n < 16
  | .l n => k == .control && n < 8
  | .p n => k != .control && n < 4
  | _ => false

/-- LOOP (R170 to R173). A LOOP inside a zero-count loop only nests. One that would stand at the fifth level faults whatever its count (DESIGN CHOICE, log 21). -/
def goLoop (i : Iss) (cnt : Reg) (reserve : W32) (s : State) : Host.Outcome State Fault Refusal :=
  issueGen i (.loop i cnt reserve) none i.fin
    (fun s => modStrm s i.core i.strm (fun x => { x with skip := x.skip + 1 }))
    (fun t s =>
      let st := getStrm s i.core i.strm
      let n := regVal s i cnt
      if !loopReg i.strm cnt then .bad s ⟨.illegalOp, 0, t⟩
      else if st.loops.length ≥ 4 then .bad s ⟨.loopDepth, 0, t⟩
      else if isTimed i.strm && decide (n > reserve.toNat) then .bad s ⟨.loopRange, 0, t⟩
      else if n == 0 then .ok (setStrm s i.core i.strm { st with skip := 1 }) t
      else .ok (setStrm s i.core i.strm { st with loops := st.loops ++ [⟨n, 0⟩] }) t) s

/-- R174: add the strides of level `l` to every address register, modulo 2^48. -/
def addStrides (st : StrmSt) (l : Nat) : StrmSt :=
  { st with a := (List.range 16).foldl (fun a n =>
      smSet 0 a n (smGet 0 a n + (smGet 0 st.d (4 * n + l)).signExtend 48)) st.a }

/-- R174: the innermost loop repeats. -/
def repeats (st : StrmSt) : Bool :=
  match st.loops.getLast? with
  | some l => l.done + 1 < l.count
  | none => false

/-- ENDLOOP (R172, R174). Its mark acts at the exiting execution (R155); inside a zero-count loop it un-nests, and the one that
closes that loop acts on its mark (log 21). -/
def goEndloop (i : Iss) (s : State) : Host.Outcome State Fault Refusal :=
  let st := getStrm s i.core i.strm
  issueGen i (.endloop i) none (i.fin && !repeats st)
    (fun s =>
      let s1 := modStrm s i.core i.strm (fun x => { x with skip := x.skip - 1 })
      if st.skip == 1 && i.fin then finishInstr s1 i false true (issueCycle s i) else s1)
    (fun t s =>
      let st := getStrm s i.core i.strm
      match st.loops.getLast? with
      | none => .bad s ⟨.loopDepth, 0, t⟩
      | some l =>
        if l.done + 1 < l.count then
          .ok (setStrm s i.core i.strm
            { addStrides st (st.loops.length - 1) with loops := st.loops.dropLast ++ [⟨l.count, l.done + 1⟩] }) t
        else .ok (setStrm s i.core i.strm { st with loops := st.loops.dropLast }) t) s

/-! ### Counters and waits -/

/-- R194: in the control stream WAITSC names no hold group. -/
def waitBad (i : Iss) (c : Cond) : Bool := i.strm == .control && c.hg != 0

/-- R155: the mark of the last instruction of an engine's block. -/
def endsBlock (i : Iss) : Bool := i.fin && i.strm != .control

/-- R178: where an open-mode WAITSC may stand: before REALIGN; in the control stream also before SEGEND; in an engine stream also at the marked
end of a block, outside every loop. -/
def openPlace (i : Iss) (w : WaitNext) (loops : List Loop) : Bool :=
  match w with
  | .realign => !(endsBlock i) || loops == []
  | .segend => i.strm == .control
  | .other => endsBlock i && loops == []

/-- WAITSC (R178). Placed mode (`w` none) is an instruction with a landing condition that does nothing more; open mode waits with no bound but
the Segment length limit, over the guard window and Beat edges. `w` says what follows an open-mode one, as the physical code shows it. -/
def goWaitsc (i : Iss) (w : Option WaitNext) (c : Cond) (s : State) : Host.Outcome State Fault Refusal :=
  match w with
  | some n =>
    issue i (.waitsc i w c) none (fun t s =>
      if waitBad i c then .bad s ⟨.illegalOp, 0, t⟩
      else if !openPlace i n (getStrm s i.core i.strm).loops then .bad s ⟨.waitPlace, 0, t⟩
      else match waitCycle (getCtr s i.core c.sc) c.v t with
        | none => .wait
        | some t' => .ok (modStrm s i.core i.strm (fun x => { x with lastIss := t' })) t') s
  | none => issue i (.waitsc i w c) (if waitBad i c then none else some c)
    (fun t s => if waitBad i c then .bad s ⟨.illegalOp, 0, t⟩ else .ok s t) s

/-- SIGNALSC (R175, R143, R192). -/
def goSignalsc (i : Iss) (remote : Option Nat) (g : Sig) (s : State) : Host.Outcome State Fault Refusal :=
  issue i (.signalsc i remote g) none (fun t s =>
    match remote with
    | none => .ok (addCtr s i.core g.sc t g.amt) t
    | some idx => match coreAt s (partOf s i.core) idx with
      | none => .bad s ⟨.outOfPartition, scratchDetail i.core 0 0 0 (strmCode i.strm), t⟩
      | some dst =>
        if (getStrm s i.core i.strm).shift != 0 then .bad s ⟨.segOverrun, 0, t⟩
        else
          let t0 := t + transit s.build 0x30 + 1
          let w := flitArrive s.build i.core dst t0
          check s (orFlt (lateFault s i.strm t0) (lateFault s i.strm w)) fun _ => resOf (sendSignal s i.core dst t0 g) w) s

/-! ### Realign (R179, R180) -/

/-- R179: the Beat after this one is a realign point of the group. -/
def beforePoint (g : RGroup) (seg : Seg) (b : W64) : Bool :=
  let n := if g.period == 0 then 256 else g.period
  let d := (b + 1 - seg.beat).toNat
  d % n == 0 && 1 ≤ d / n && d / n ≤ g.count

/-- DETAIL of format COUNTER (Table 17.5). -/
def counterDetail (n : Nat) (missing : Bool) (expected found : Nat) : Nat :=
  n + (if missing then 64 else 0) + expected * 2 ^ 7 + found * 2 ^ 39

/-- R162, R180: the last landing or read of a Load or Store stream's running block. -/
def asyncLast (s : State) (i : Iss) : Nat := if isTimed i.strm then 0 else ((getStrm s i.core i.strm).blk.map Block.last).getD 0

/-- REALIGN (R180, R181): a Load or Store stream completes it when nothing it asked for is outstanding, in the cycle of the last landing or read at the
earliest. -/
def goRealign (i : Iss) (group : Nat) (s : State) : Host.Outcome State Fault Refusal :=
  issue i (.realign i group) none (fun t s =>
    let p := partOf s i.core
    let bad : Res := .bad s ⟨.drift, counterDetail (strmCode i.strm) true 0 0, t⟩
    match runningSeg s p with
    | none => bad
    | some seg => match seg.decl.groups[group]? with
      | none => bad
      | some g =>
        if !g.members.contains (coreIdx s p i.core, i.strm) || !beforePoint g seg s.beat.b then bad
        else if !drained s i.core i.strm then .wait
        else
          let done := max t (asyncLast s i)
          .ok (modStrm s i.core i.strm (fun x => { x with realign := some (group, done) })) done) s

/-! ### LAUNCH (R158, R159, R196) -/

/-- The block table length of an engine in the code store of its core (R155, R229). -/
def blockCount (s : State) (core : Nat) (k : Strm) : Nat :=
  match codeOf s core k with
  | some x => x.blocks
  | none => 0

/-- LAUNCH: forms a descriptor and pushes it; a full queue stalls it to the cycle after the pop that frees an entry. -/
def goLaunch (i : Iss) (eng : Strm) (block boff cyc : Nat) (ps : List (Option Nat)) (sig : Option Sig) (s : State) :
    Host.Outcome State Fault Refusal :=
  issue i (.launch i eng block boff cyc ps sig) none (fun t s =>
    let q := getStrm s i.core eng
    if i.strm != .control || eng == .control then .bad s ⟨.illegalOp, 0, t⟩
    else if block ≥ blockCount s i.core eng then .bad s ⟨.blockRange, 0, t⟩
    else if q.queue.length ≥ 16 then .wait
    else
      let t' := max t q.freeAt
      let d : Desc :=
        { block := block, boff := boff, cyc := cyc,
          p := (List.range 4).map (fun n => match (ps.getD n none) with
            | some r => smGet 0 (getCore s i.core).s r
            | none => 0),
          sig := sig.map (fun g => ⟨g.sc, BitVec.ofNat 32 (g.amt.toNat % 65536)⟩), arrive := t' }
      let s1 := setStrm s i.core eng { q with queue := q.queue ++ [d] }
      .ok (modStrm s1 i.core .control (fun x => { x with lastIss := t' })) t') s

/-! ### CMP, SKIPIF, BEATREAD, HALT -/

/-- Table 7.5: the outcome of a comparison; none for the reserved code. -/
def cmpOutcome (code : Nat) (x y : W32) : Option Bool :=
  match code with
  | 0 => some (x == y)
  | 1 => some (x != y)
  | 2 => some (x.ult y)
  | 3 => some (!x.ult y)
  | 4 => some (x.slt y)
  | 5 => some (!x.slt y)
  | 6 => some (reached x y)
  | _ => none

/-- The second operand of CMP as read in cycle t (R165). -/
def cmpVal (s : State) (i : Iss) (t : Nat) : CmpSrc → W32
  | .s n => smGet 0 (getCore s i.core).s n
  | .imm v => v
  | .sc n => seenAt (getCtr s i.core n) t

/-- CMP (R165). -/
def goCmp (i : Iss) (flag cond x : Nat) (y : CmpSrc) (s : State) : Host.Outcome State Fault Refusal :=
  issue i (.cmp i flag cond x y) none (fun t s =>
    match (if i.strm == .control then cmpOutcome cond (smGet 0 (getCore s i.core).s x) (cmpVal s i t y) else none) with
    | none => .bad s ⟨.illegalOp, 0, t⟩
    | some b => .ok (modCore s i.core (fun c => { c with f := smSet false c.f flag b })) t) s

/-- SKIPIF (R166). `nextBad`: LOOP, ENDLOOP, REALIGN, SEGEND or SKIPIF follows. -/
def goSkipif (i : Iss) (sense : Bool) (flag : Nat) (nextBad : Bool) (s : State) : Host.Outcome State Fault Refusal :=
  issue i (.skipif i sense flag nextBad) none (fun t s =>
    if i.strm != .control then .bad s ⟨.illegalOp, 0, t⟩
    else if nextBad then .bad s ⟨.skipTarget, 0, t⟩
    else if smGet false (getCore s i.core).f flag == sense then
      .ok (modStrm s i.core i.strm (fun x => { x with skipNext := true })) t
    else .ok s t) s

/-- BEATREAD (R167): the point to two S registers, and the command is timing-tainted. -/
def goBeatread (i : Iss) (sb sc : Nat) (s : State) : Host.Outcome State Fault Refusal :=
  issue i (.beatread i sb sc) none (fun t s =>
    if i.strm != .control then .bad s ⟨.illegalOp, 0, t⟩
    else
      let (b, c) := pointOf s t
      let s1 := putReg (putReg s i t (.s sb) b.toNat) i t (.s sc) c
      .ok (modSeg s1 (partOf s i.core) (fun g => { g with taint := true })) t) s

/-- HALT (R167): HALTED with its code. -/
def goHalt (i : Iss) (code : W32) (s : State) : Host.Outcome State Fault Refusal :=
  issue i (.halt i code) none (fun t s =>
    if i.strm != .control then .bad s ⟨.illegalOp, 0, t⟩
    else .bad s ⟨.halted, code.toNat * 2 ^ 16, t⟩) s

/-! ### SEGEND (R182) -/

/-- The six core engines. -/
def engines : List Strm := [.load, .store, .move, .matrix, .strudel, .glaze]

/-- R31: a shift of this Beat has moved the end of a timed stream's block past cycle `p`. -/
def shiftedPast (p : Nat) (x : StrmSt) : Bool := x.shift != 0 && decide (p < x.prevEnd) && decide (x.prevEnd ≤ p + x.shift)

/-- SEGEND: a queued descriptor is an overrun, and so is a block end that a shift has moved past the placement of SEGEND (R31); it completes when
every block and open wait of the core has ended and every output that its XOPs expect has been written (R32), no digest stream is bound (R199), and the active count is zero in the cycle of its completion, with every
change up to that cycle in order (R116; that this is the cycle of SEGEND is the model's reading, log 61). -/
def goSegend (i : Iss) (s : State) : Host.Outcome State Fault Refusal :=
  issue i (.segend i) none (fun t s =>
    let s := catchUp s i.core (s.beat.start + 4127)
    let sts := engines.map (getStrm s i.core)
    if i.strm != .control then .bad s ⟨.illegalOp, 0, t⟩
    else if sts.any (fun x => !x.queue.isEmpty) then .bad s ⟨.segOverrun, 0, t⟩
    else if sts.any (fun x => x.blk.isSome) || s.xouts.any (fun x => x.loc.iss.core == i.core) then .wait
    else if sts.any (shiftedPast (s.beat.start + i.at_)) then .bad s ⟨.segOverrun, 0, t⟩
    else if (getCore s i.core).dig.any (fun e => e.2.isSome) then .bad s ⟨.digestOrder, 0, t⟩
    else
      let e := sts.foldl (fun m x => max m x.prevEnd) t
      let s1 := rampGuard s i.core (e + 1)
      if activeCount (getCore s1 i.core).acts e != 0 then .bad s1 ⟨.rampStep, 0, e⟩
      else .ok (modStrm (modCore s1 i.core (fun c => { c with segend := true })) i.core .control
        (fun x => { x with prevEnd := e, lastIss := e })) e) s

end Sys2Proof.Machine
end

