-- ==== Sys2Proof/Machine/Segment.lean ====
section
/-!
DEFINITION. Segment.lean: the life of a Segment: its start and the checks at launch, the pops of launch descriptors, guard holds, the
realign check, the length limit, its end and the end of an abort (R29 to R33, R117, R160 to R163, R179 to R184, R225, R229, R230,
R253, R321, R347).
-/

namespace Sys2Proof.Machine

/-! ### Descriptors (R160, R161) -/

/-- The absolute cycle of a descriptor's start point, where its Beat has come: 0 when the Beat is past (R160). -/
def startPoint (s : State) (g : Seg) (d : Desc) (shift : Nat) : Option Nat :=
  let b := g.beat.toNat + d.boff
  if b == s.beat.b.toNat then some (s.beat.start + d.cyc + shift) else if b < s.beat.b.toNat then some 0 else none

/-- R160, R161: the engine takes the head descriptor and begins its block in cycle t. The queue entry is free from the next cycle. -/
def beginBlock (s : State) (core : Nat) (k : Strm) (d : Desc) (t : Nat) : State :=
  touch (modStrm s core k (fun x => { x with
    queue := x.queue.tail, freeAt := if x.queue.length ≥ 16 then t + 1 else x.freeAt, loops := [], skip := 0,
    p := (List.range 4).foldl (fun m n => smSet 0 m n (d.p.getD n 0)) x.p,
    blk := some ⟨t, d.sig, t, false⟩ })) t

/-- R160: a start point that finds no descriptor, a late one, or a block still running. -/
def popFault (st : StrmSt) (d : Desc) (at_ t : Nat) : Bool :=
  at_ < t || d.arrive > t || st.blk.isSome || st.prevEnd > t

/-- A pop, which a built-in Segment has none of: the start point of an engine's next block, in cycle c. A timed engine whose hold group holds pops when it goes on; a
Load or Store engine pops when the start point has come and its previous block has ended. -/
def popNext (core : Nat) (strm : Strm) (c : Nat) (s : State) : Host.Outcome State Fault Refusal :=
  let p := partOf s core
  let st := getStrm s core strm
  let t := s.beat.start + c + st.shift
  if c > 4127 then .fault .noSuchPoint
  else match runningSeg s p with
    | none => .next s
    | some g =>
      if (getCore s core).holder.isNone || strm == .control || g.bulk.isSome then .next s
      else if isTimed strm then
        if blocked s core strm then .next (park s ⟨core, strm, c, 0, false⟩ (.descriptorPop core strm c) [strm])
        else match st.queue with
          | [] => .next (raiseUnit (touch s t) p ⟨.segOverrun, 0, t⟩ core strm)
          | d :: _ => match startPoint s g d st.shift with
            | none => .next s
            | some a =>
              if a > t then .next s
              else if popFault st d a t || late s strm t then .next (raiseUnit (touch s t) p ⟨.segOverrun, 0, t⟩ core strm)
              else .next (beginBlock s core strm d t)
      else match st.queue with
        | [] => .next s
        | d :: _ => match startPoint s g d 0 with
          | none => .next s
          | some a =>
            if a > t || d.arrive > t || st.blk.isSome || st.prevEnd > t then .next s
            else .next (beginBlock s core strm d t)

/-! ### Guard hold (R117) -/

/-- The density that the Segment of a core gives for guard holds. -/
def holdDens (s : State) (core : Nat) : Nat := match runningSeg s (partOf s core) with | some g => g.decl.mdens | none => 0

/-- The hold of one Torte of a core, if its cells received a broadcast at (b, 4031): its LFSR drives the wires at the header's MDENS. -/
def holdTorte (s : State) (core torte : Nat) : State :=
  let t0 := s.beat.start + 4032
  match (getCore s core).acts.find? (fun a => a.torte == torte && a.start < t0 && t0 ≤ a.stop) with
  | some a => modCore s core (fun c => { c with acts := ⟨torte, t0, t0 + 96, 3, a.solo, 0, holdDens s core, a.loc, false⟩ :: c.acts })
  | none => s

/-- The cores of running Segments. -/
def busyCores (s : State) : List Nat :=
  (List.range 16).flatMap (fun p => if (runningSeg s p).isSome then (getPart s p).cores else [])

/-- What a core has done when its work window is over, with the ramp check of its changes before cycle t (R104, R116). -/
def endWork (t : Nat) (s : State) (core : Nat) : State := rampGuard (catchUp s core (s.beat.start + 4127)) core t

/-- R117: every active Torte of a core begins its hold. -/
def holdCore (s : State) (core : Nat) : State :=
  (List.range 8).foldl (fun s q => holdTorte s core q) (endWork (s.beat.start + 4032) s core)

/-! ### Realign check (R181) -/

/-- The DRIFT of a group at cycle t, with its core and stream: its first member that does not stand at the group's barrier by then, or its first counter that does not match. -/
def driftAt (s : State) (p : Nat) (g : RGroup) (n t : Nat) : Option (Flt × Nat × Strm) :=
  let core (idx : Nat) : Nat := (coreAt s p idx).getD 0
  let stands (x : Option (Nat × Nat)) : Bool := match x with | some (k, c) => k == n && decide (c ≤ t) | none => false
  match g.members.find? (fun m => !stands (getStrm s (core m.1) m.2).realign) with
  | some m => some (⟨.drift, counterDetail (strmCode m.2) true 0 0, t⟩, core m.1, m.2)
  | none => match g.ctrs.find? (fun x => seenAt (getCtr s (core x.1) x.2.1) t != x.2.2) with
    | some x =>
      some (⟨.drift, counterDetail x.2.1 false x.2.2.toNat (seenAt (getCtr s (core x.1) x.2.1) t).toNat, t⟩, core x.1, .control)
    | none => none

/-! ### Launch (R29, R33, R230, R253, Table 1.5) -/

/-- R253: the start Beat of a command's next Segment, where it has one. -/
def fixedStart (c : Cmd) : Option Nat :=
  match c.body with
  | .run b _ pr =>
    if !c.hdr.tflags.getLsbD 3 then none
    else if c.segIdx == 0 then some b.start.toNat
    else (match pr.tabs.segs[c.segIdx]? with | some d => d.boff.map (fun o => b.start.toNat + o) | none => none)
  | _ => none

/-- A RUN, for which the Owner key must be LIVE (R307). -/
def isRun (c : Cmd) : Bool := match c.body with | .run _ _ _ => true | _ => false

/-- R352: the loader waits to isolate a slot bound to the partition: isolation precedes a launch. -/
def isolating (s : State) (p : Nat) : Bool :=
  s.loads.any (fun l => l.stage == 1 && l.since < s.beat.start && l.mask.any (fun k =>
    (getSlt s k).en && (getSlt s k).part == p && !((getSlt s k).iso && (getSlt s k).st == 1)))

/-- R147: a row of a core of the partition is being copied to its spare in this Beat, which defers a launch. -/
def copying (s : State) (x : Part) : Bool :=
  s.mc.repair.any (fun r => x.cores.contains r.1)

/-- The conditions of stage 3 that concern the partition: at a boundary with every flip and apply taken in, nothing running, the launch
delay over, no core about to leave (R153, R419). -/
def partReady (s : State) (p : Nat) : Bool :=
  let x := getPart s p
  atEdge s && !s.beat.flipDue && !s.beat.applyDue && x.seg.isNone && !launchStopped s && delayOver s p s.beat.b
    && !(x.cores.any (fun c => !x.want.contains c && !s.lands.any (fun l => l.core == c))) && !x.release && !x.grant && !isolating s p && !copying s x

/-- The conditions that concern the command: fetched before this Beat, its inputs hashed, its key LIVE. The Load and Store engines take up a COPY or FILL
after the stores before it (R290). -/
def cmdReady (s : State) (p : Nat) (c : Cmd) : Bool :=
  c.jobs == 0 && c.fetched != s.beat.b && (if isRun c then keyLive s p else !storesOut s p)

/-- The resident queues of a partition with their next launch, where it may start. -/
def launchList (s : State) (p : Nat) : List (Nat × Cmd) :=
  s.host.slots.filterMap (fun e => match e.2 with
    | some x => if x.part != p then none else (match nextLaunch x with
        | some c => if mayStart x c.seq && !twinHolds s x.q c.seq then some (x.q, c) else none
        | none => none)
    | none => none)

/-- Which of two launches goes first (log 18): one whose start Beat this is, then the context's PRIORITY, then the lower slot. -/
def launchRank (s : State) (c : Cmd) : Nat := (if fixedStart c == some s.beat.b.toNat then 8 else 0) + (getCtx s c.ctx).priority

/-- The launch to make at this boundary. -/
def pickLaunch (s : State) (p : Nat) : Option (Nat × Cmd) :=
  if !partReady s p then none
  else
    let due (c : Cmd) : Bool := match fixedStart c with | some b => b == s.beat.b.toNat | none => true
    ((launchList s p).filter (fun x => due x.2 && cmdReady s p x.2)).foldl (fun m x => match m with
      | none => some x
      | some y => if launchRank s x.2 > launchRank s y.2 then some x else some y) none

/-- R253: the commands of a partition whose start Beat has come. -/
def missedAt (s : State) (p : Nat) : List (Nat × BitVec 32) :=
  s.host.slots.flatMap (fun e => match e.2 with
    | some x => if x.part != p then [] else (x.cmds.filter (fun c => c.stage == .queued && mayStart x c.seq &&
        (match fixedStart c with | some b => b ≤ s.beat.b.toNat | none => false))).map (fun c => (x.q, c.seq))
    | none => [])

/-! ### The checks at a Segment start -/

/-- R225, R344, R352: a listed slot that differs from its identity, is out of service, or is not READY. One that another partition holds is found at its
XOP (SLOT_ISOLATED). -/
def slotBad (s : State) (u : SlotUse) : Bool :=
  let x := getSlt s u.slot
  !(x.en && x.st == 2) ||
    (match x.ident with
     | some d => d.funcid != u.funcid || d.version != u.version || d.latency != u.latency || d.ratio != u.ratio
     | none => true)

/-- R321, R333: the reason a port fails its check at Segment start; 0 for none. -/
def portReason (s : State) (p : Nat) (t : STab) : Nat :=
  let x := getPort s t.port
  if t.port ≥ s.build.nbraid || x.part != p then 1
  else if !x.en || x.st != 2 then 2
  else if x.width < t.width then 3
  else if x.peer != some (t.peer, t.pport) then 4
  else if (getPart s p).link.isNone then 5 else 0

/-- DETAIL of format LINK (Table 17.5). -/
def linkDetail (port cell beat cyc reason : Nat) : Nat :=
  port % 16 + cell % 1024 * 2 ^ 4 + beat % 2 ^ 32 * 2 ^ 14 + cyc % 8192 * 2 ^ 46 + reason % 16 * 2 ^ 63

/-- The fault of a RUN's Segment at its launch (R230, R225, R321), in that order (log 18). -/
def launchFault (s : State) (p : Nat) (pr : Prog) (d : SegDecl) : Option Flt :=
  if (getPart s p).cores == [] then some ⟨.noCores, 0, s.now⟩
  else if rectBad s p pr.hdr then some ⟨.bakedRefused, reasonDetail 5 0 0, s.now⟩
  else if unitsBad s p pr.hdr then some ⟨.bakedRefused, reasonDetail 6 0 0, s.now⟩
  else match pr.tabs.slots.find? (slotBad s) with
    | some u => some ⟨.slotIdent, reasonDetail 0 u.slot 0, s.now⟩
    | none => match d.tables.find? (fun t => portReason s p t != 0) with
      | some t => some ⟨.linkPort, linkDetail t.port 0 0 0 (portReason s p t), s.now⟩
      | none => none

/-! ### The start itself -/

/-- R231: an entry of a location map from its 12 bytes. -/
def parseLoc (bs : List Byte) : LocEnt :=
  ⟨BitVec.ofNat 32 (leAt bs 0 4), BitVec.ofNat 32 (leAt bs 4 4), leAt bs 8 1, leAt bs 9 1 % 2 == 1⟩

/-- R229, R231: a code section as it is copied from the memory object, with its list of the location map. -/
def loadSec (bytes : Nat → Nat → List Byte) (locmap : Nat) (x : CodeSec) : CodeSt :=
  ⟨strmCode x.strm, x.blocks, bytes x.off x.len, x.digest,
   (List.range x.locs).map (fun n => parseLoc (bytes (locmap + x.locOff + 12 * n) 12))⟩

/-- R229: the code sections of a core of a Segment. The copy is skipped where the store holds the sections of the same digests. -/
def loadCode (bytes : Nat → Nat → List Byte) (locmap idx : Nat) (d : SegDecl) (old : List CodeSt) : List CodeSt :=
  let secs := d.secs.filter (fun x => x.core == idx)
  if secs.map (fun x => (strmCode x.strm, x.digest)) == old.map (fun x => (x.strm, x.digest)) then
    secs.zipWith (fun x o => { loadSec bytes locmap x with bytes := o.bytes }) old
  else secs.map (loadSec bytes locmap)

/-- A map of the values of a list by place. -/
def mapOf {α : Type} [DecidableEq α] (d : α) (xs : List α) : SMap α := xs.zipIdx.foldl (fun m (v, i) => smSet d m i v) []

/-- A core with everything of a Segment discarded (Table 7.13). -/
def clearCore (c : Core) : Core :=
  { c with s := [], l := [], f := [], sd := [], an := [], sdOld := [], anOld := [], sc := [], strm := [], waf := [], lanes := [],
           ent := [], mmas := [], ws := [], dig := [], acts := [], rampAt := 0, rampLast := none, svLast := none, segend := false, guards := [],
           lfsr := [] }

/-- R163, R88, R168, R175, R138, R108, R115, R229: a core of the Segment as it starts; `code` are its sections. -/
def startCore (seed : W64) (ab : ArgBlk) (d : SegDecl) (code : List CodeSt) (start idx : Nat) (c : Core) : Core :=
  { clearCore c with
    s := mapOf 0 (ab.s.take 16), l := mapOf 0 d.l, an := mapOf 0 d.an, sd := mapOf 0 [seed, seedN seed 1, seedN seed 2, seedN seed 3],
    sc := (d.sc.filter (fun x => x.1 == idx)).foldl (fun m x => smSet zeroCtr m x.2.1 ⟨x.2.2, []⟩) [],
    guards := (d.guards.filter (fun x => x.1 == idx)).map (fun x => (x.2.1 / 128, x.2.2)),
    rampAt := start, code := code,
    codeErr := if code.map (fun x => (x.strm, x.digest)) == c.code.map (fun x => (x.strm, x.digest)) then c.codeErr else [] }

/-- Table 13.4: a slot table entry from its 32 bytes. The low 8 bits of BASE are zero. -/
def parseSTEnt (bs : List Byte) : STEnt :=
  let f (off lo n : Nat) : Nat := bitsOf (leAt bs off 4) lo n
  { first := f 0 0 10, count := f 2 0 11, recv := f 4 0 1 == 1, sigen := f 4 1 1 == 1, core := f 5 0 6, period := f 6 0 13, phase := f 8 0 12,
    last := f 10 0 12, base := f 12 8 15 * 256, ringlen := f 16 0 16, sc := f 18 0 6 }

/-- R321: the memory that a slot table makes, of at most 1,024 entries. -/
def loadTab (bytes : Nat → Nat → List Byte) (t : STab) : TabMem :=
  ⟨t.width, (List.range (min 1024 t.count)).map (fun n => parseSTEnt (bytes (t.off + 32 * n) 32))⟩

/-- R321: a table of a Segment is copied into the idle memory of its port, which becomes active. -/
def startPort (bytes : Nat → Nat → List Byte) (b : W64) (s : State) (t : STab) : State :=
  modPort s t.port (fun x => { x with
    tabs := smSet none x.tabs (if x.half then 0 else 1) (some (loadTab bytes t)), half := !x.half, on := true, start := b, used := [] })

/-- R347: SLs_SRST_N of a slot of the partition is low for slot cycles 0 to 15 of the first Beat. -/
def startSlot (p start : Nat) (s : State) (u : SlotUse) : State :=
  modSlt s u.slot (fun x => if x.part == p then { x with rstTo := start + 16 * u.ratio, inTo := 0 } else x)

/-- R29, R23: the Segment of a RUN starts at (b, 0). -/
def startSeg (s : State) (p q : Nat) (c : Cmd) (b : RunBody) (ab : ArgBlk) (pr : Prog) (d : SegDecl) : State :=
  let st := s.beat.start
  let bp := pr.tabs
  let bytes := progBytes s p (c.hdr.tflags.getLsbD 2) pr.img b
  let g := newSeg s p q c pr.hdr.progid (c.hdr.tflags.toNat % 4) d ab.objs none
  let s := (getPart s p).cores.zipIdx.foldl (fun s x =>
    modCore s x.1 (fun k => startCore b.seed ab d (loadCode bytes pr.hdr.locmap x.2 d k.code) st x.2 k)) s
  let s := d.tables.foldl (startPort bytes s.beat.b) s
  let s := bp.slots.foldl (startSlot p st) s
  let s := modPart s p (fun x => { x with seg := some g })
  modCmd s q c.seq (fun c => { c with
    stage := .running, beat0 := some (c.beat0.getD s.beat.b), sdigs := slotDigs s bp,
    slottaint := c.slottaint || bp.slots.any (fun u => match (getSlt s u.slot).ident with | some i => !i.det | none => false) })

/-- R229, R277, R291, R301: the look at the Extent that holds a Baked Program, before a Segment's sections are copied from it: its fault, with the
corrected Granules recorded. -/
def progSeen (s : State) (p q : Nat) (c : Cmd) (b : RunBody) (pr : Prog) : State × Option Flt :=
  if c.hdr.tflags.getLsbD 2 then (s, none)
  else
    let h := progHandle b
    let s := lookupCe s h s.now
    match lookup s h p s.ext.epoch 0 256 false with
    | .bad f => (s, some ⟨f, extDetail h 0, s.now⟩)
    | .ok e => stkCheck (fun s f => enterRec (cmdRec s q f) s) e.addr (min e.size pr.hdr.length) s.now s

/-- Start the next Segment of a command: its checks, then the Segment, or the built-in one of a COPY or FILL. -/
def startCmd (s : State) (p q : Nat) (c : Cmd) : State :=
  match c.body with
  | .run b ab pr => match pr.tabs.segs[c.segIdx]? with
    | none => s
    | some d => match launchFault s p pr d with
      | some f => failCmd s q c.seq f
      | none => match progSeen s p q c b pr with
        | (s, some f) => failCmd s q c.seq f
        | (s, none) => startSeg s p q c b ab pr d
  | _ =>
    if (getPart s p).cores == [] then failCmd s q c.seq ⟨.noCores, 0, s.now⟩ else runBuiltin s p q c

/-- R265: PRIORITY of a context as its record holds it at a Segment start. -/
def setPriority (s : State) (x : Nat × Nat) : State :=
  if (getCtx s x.1).st == .live then setCtx s x.1 { getCtx s x.1 with priority := x.2 % 8 } else s

/-- SEGMENT_START: the launch of partition p at (b, 0), and the failure of the commands that had to start there and do not. The contexts it
brings take the PRIORITY that the engine reads in their records (R265). -/
def execSegmentStart (x : StartAt) (s : State) : Host.Outcome State Fault Refusal :=
  if !atEdge s then .next s
  else
    let s := x.prios.foldl setPriority s
    let pick := pickLaunch s x.p
    let late := (missedAt s x.p).filter (fun x => match pick with | some (q, c) => x != (q, c.seq) | none => true)
    let s := match pick with
      | some (q, c) => rehash (startCmd s x.p q c) x.p
      | none => s
    .next (late.foldl (fun s x => failCmd s x.1 x.2 ⟨.startMissed, 0, s.now⟩) s)

/-! ### The end (R182, R183, R32, R184) -/

/-- Every core of the partition has completed SEGEND. -/
def allEnded (s : State) (p : Nat) : Bool := (getPart s p).cores.all (fun c => (getCore s c).segend)

/-- Nothing of the Segment is left to do: SEGEND everywhere, or a built-in one's bytes all handed on. -/
def segOver (s : State) (p : Nat) (g : Seg) : Bool :=
  match g.bulk with
  | some x => x.done
  | none => allEnded s p

/-- The Beat of an absolute cycle of this Beat or the one before. -/
def beatOf (s : State) (t : Nat) : W64 := if t < s.beat.start then s.beat.b - 1 else s.beat.b

/-- Table 7.13: what the Segment held on chip is discarded; what waited on its streams is gone, its ports and slots have no user. -/
def dropSegment (s : State) (p : Nat) (b : W64) : State :=
  let cs := (getPart s p).cores
  let s := cs.foldl (fun s c => modCore s c clearCore) s
  let s := { s with held := s.held.filter (fun h => !cs.contains h.core), xouts := s.xouts.filter (fun o => !cs.contains o.loc.iss.core),
                    ports := smMap emptyPort s.ports (fun _ x => if x.part == p then { x with on := false } else x) }
  modPart s p (fun x => { x with seg := none, prevEnd := some b })

/-- R264: a function in D3hot fetches no more for a partition that has met a Segment boundary. -/
def latchD3 (s : State) (p : Nat) : State :=
  (List.range 17).foldl (fun s f =>
    if smGet false s.host.d3 f then { s with host := { s.host with d3 := smSet false s.host.d3 (32 + 16 * f + p) true } } else s) s

/-- What a Segment boundary of a partition settles: Q_STOP requests, functions in D3hot, operations that waited, the MC's work. -/
def boundary (s : State) (p : Nat) : State :=
  let stops := s.host.slots.filterMap (fun e => match e.2 with
    | some x => if x.part == p && x.stopReq then some x.q else none
    | none => none)
  mcWork (finishOp (latchD3 (stops.foldl stopQueue s) p))

/-- The command whose Segment has ended: counts, taints and roots are gathered, and its next Segment or its drain follows, unless the failure of its group
has ended it (R279). -/
def segDone (g : Seg) (c : Cmd) : Cmd :=
  let n := match c.body with | .run _ _ pr => pr.tabs.segs.length | _ => 0
  { c with cnt := addCounts c.cnt (countsAll g), taint := c.taint || g.taint, linked := c.linked || g.linked,
           outs := c.outs ++ g.roots.map (fun r => (g.idx, r.1, r.2)), segIdx := g.idx + 1,
           ins := (match g.bulk with | some x => if x.src then smSet 0 c.ins 0 (treeRoot x.data) else c.ins | none => c.ins),
           stage := if isOver c then c.stage else if g.idx + 1 < n then .queued else .drain }

/-- R182: a Segment ends: nothing of it is left to do, and the rows of its cells raised no fault. -/
def endSegment (p : Nat) (s : State) : Host.Outcome State Fault Refusal :=
  if !(match runningSeg s p with | some g => segOver s p g | none => false) then .next s
  else
    let s := flushPorts s (some p)
    match runningSeg s p with
    | none => .next s
    | some g =>
      let e := (getPart s p).cores.foldl (fun m c => max m (getStrm s c .control).prevEnd) 0
      let s := dropSegment (modCmd s g.q g.seq (segDone g)) p (if g.bulk.isSome then s.beat.b else beatOf s e)
      .next (boundary s p)

/-- SEG_LIMIT (R32): the Segment has run for its limit of Beats without reaching SEGEND everywhere. -/
def execSegLimit (p : Nat) (s : State) : Host.Outcome State Fault Refusal :=
  match runningSeg s p with
  | none => .next s
  | some g =>
    if segOver s p g || (s.beat.b - g.beat).toNat < g.limit then .next s
    else .next (raiseSeg s p ⟨.segLimit, 0, s.now⟩ none)

/-- Writes of the Segment's command that have read their rows and not landed. -/
def writesOut (s : State) (tag : Nat) : Bool := s.stk.greqs.any (fun r => match r.wr with | some (t, _) => t == tag | none => false)

/-- R184: the writes of a Segment that have not landed within the 64 Beats of its abort are dropped. -/
def dropWrites (s : State) (tag : Nat) : State :=
  { s with stk := { s.stk with greqs := s.stk.greqs.filter (fun r => match r.wr with | some (t, _) => t != tag | none => true) } }

/-- ABORT_COMPLETE (R32, R184): landings are dropped, row reads not yet made are not made, writes that have read their rows have landed, or are dropped
when 64 Beats have passed; the command is over with its abort's status. -/
def execAbortComplete (p : Nat) (s : State) : Host.Outcome State Fault Refusal :=
  match (getPart s p).seg with
  | none => .next s
  | some g => match g.abort with
    | none => .next s
    | some a =>
      if writesOut s (segTag s p) && decide ((s.beat.b - a.beat).toNat < 64) then .next s
      else
        let s := flushPorts (dropBulk s p) (some p)
        let a := ((getPart s p).seg.bind Seg.abort).getD a
        let s := dropLands s s.now (fun l => l.part == p)
        let s := dropStores s (fun r => tagPart r.part == p)
        let s := dropWrites s (segTag s p)
        let s := modCmd s g.q g.seq (fun c => { c with cnt := addCounts c.cnt (countsAll g), taint := c.taint || g.taint })
        let s := dropSegment s p s.beat.b
        let s := endCmd s g.q g.seq g.status a.flt (g.status == 1 || g.status == 3)
        .next (boundary s p)

end Sys2Proof.Machine
end

