-- ==== Sys2Proof/Machine/Publish.lean ====
section
/-!
DEFINITION. Publish.lean: stage 5 of a command, agreement with the twin, the Replay Record and PUBLICATION (R34 to R37, R279, R337 to
R339, R387 to R391); STACK_BURST, which lands the last store of a command.
-/

namespace Sys2Proof.Machine

/-! ### The digests of a command (R389, R390) -/

/-- Insert into a list kept in the order of a key, after equal keys. -/
def insKey {α : Type} (key : α → Nat) (x : α) : List α → List α
  | [] => [x]
  | y :: ys => if key x < key y then x :: y :: ys else y :: insKey key x ys

/-- A list in the order of a key; equal keys keep their order. -/
def sortKey {α : Type} (key : α → Nat) (xs : List α) : List α := xs.foldl (fun l x => insKey key x l) []

/-- SHA-256 over digests in order. -/
def shaDigs (ds : List (BitVec 256)) : BitVec 256 := sha256 (ds.flatMap digBytes)

/-- 32 zero bytes where nothing is declared. -/
def digOrZero (ds : List (BitVec 256)) : BitVec 256 := if ds == [] then 0 else shaDigs ds

/-- OUTDIG: every DIGEST CLOSE root by Segment, core index and stream; for COPY and FILL the root of the bytes written. -/
def outDig (c : Cmd) : BitVec 256 :=
  match c.body with
  | .run _ _ _ => shaDigs ((sortKey (fun o => o.1 * 512 + o.2.1) c.outs).map (fun o => o.2.2))
  | _ => match c.outs with
    | o :: _ => o.2.2
    | [] => 0

/-- The seven counts as u64 (Table 16.2). -/
def countBytes (c : PCounts) : List Byte :=
  [c.clamp, c.winsat, c.outsat, c.nonfin, c.qclip, c.qnonfin, c.underuse].flatMap (fun v => natLe 8 v.toNat)

/-- The agreement value (R337, R389). -/
def agreeValue (c : Cmd) : BitVec 256 := sha256 (digBytes (outDig c) ++ countBytes c.cnt)

/-- ARGDIG: argument-block bytes 0 to 67, then KIND and LENGTH of each listed object. -/
def argDig (ab : ArgBlk) : BitVec 256 :=
  sha256 ((List.range 16).flatMap (fun i => natLe 4 (ab.s.getD i 0).toNat) ++ natLe 4 ab.nobj
    ++ ab.objs.flatMap (fun o => natLe 1 o.kind ++ natLe 8 o.length.toNat))

/-- The objects of a residency that a command uses enter its input digest as though it had read them (R387). -/
def resUsed (bp : Baked) (i : Nat) : Bool := match bp.res with | .use rs => rs.any (fun r => r.obj == i) | _ => false

/-- INDIG: list index, role and root of each IN or STATE object, and of each object of a residency in use with the role IN (log 19). -/
def inDig (c : Cmd) (ab : ArgBlk) (bp : Baked) : BitVec 256 :=
  sha256 ((List.range ab.objs.length).flatMap (fun i =>
    if takesRoot bp i || resUsed bp i then
      natLe 1 i ++ natLe 1 (if takesRoot bp i then bp.roles.getD i 0 else 1) ++ digBytes (smGet 0 c.ins i)
    else []))

/-- R390: the body of a COPY or FILL (bytes 32 to 63) with handles and bus addresses zeroed. -/
def bodyBytes : CmdBody → List Byte
  | .copy b => natLe 8 0 ++ natLe 8 (if b.srch == 0 then 0 else b.srcoff.toNat) ++ natLe 8 (if b.dsth == 0 then 0 else b.dstoff.toNat)
      ++ natLe 8 b.length.toNat
  | .fill b => natLe 8 0 ++ natLe 8 (if b.dsth == 0 then 0 else b.dstoff.toNat) ++ natLe 8 b.length.toNat ++ natLe 4 b.pattern.toNat
      ++ natLe 4 0
  | _ => []

/-- The fields of Table 16.2 that depend on the type of the command. -/
structure RepF where
  progid  : Nat
  progdig : BitVec 256
  dvis    : Nat × Nat
  prec    : Nat
  nobj    : Nat
  spv     : Nat
  slots   : Nat
  seed    : Nat
  arg     : BitVec 256
  ins     : BitVec 256
  cb      : BitVec 256
  oi      : BitVec 256
  an      : BitVec 256
  slot    : BitVec 256
  resroot : BitVec 256
  out     : BitVec 256
  reslay  : BitVec 256
  replay  : Bool
  res     : Bool
deriving DecidableEq, Repr

/-- The type-dependent fields of a command (R389, R390). A PUBLISH carries the OUTDIGs of its group's members. -/
def repFields (c : Cmd) (members : List Cmd) : RepF :=
  match c.body with
  | .run b ab pr =>
    let bp := pr.tabs
    let use := match bp.res with | .use _ => true | _ => false
    let rr := if use then c.resRoots.getD (0, 0) else (0, 0)
    let sl := slotList bp
    { progid := pr.hdr.progid.toNat, progdig := pr.hdr.pdigest, dvis := (pr.hdr.dvisMin, pr.hdr.dvisMaj), prec := c.hdr.tflags.toNat % 4,
      nobj := ab.nobj, spv := pr.hdr.spv, slots := (sl.map (fun k => 2 ^ k)).sum, seed := b.seed.toNat, arg := argDig ab,
      ins := inDig c ab bp, cb := digOrZero c.cbs, oi := digOrZero c.ois, an := digOrZero c.ans,
      slot := shaDigs c.sdigs, resroot := rr.1, out := outDig c, reslay := rr.2,
      replay := c.hdr.tflags.getLsbD 5, res := use }
  | .publish =>
    { progid := 0, progdig := 0, dvis := (0, 0), prec := 0, nobj := 0, spv := 0, slots := 0, seed := 0, arg := 0, ins := 0, cb := 0, oi := 0,
      an := 0, slot := sha256 [], resroot := 0, out := shaDigs (members.map outDig), reslay := 0, replay := false, res := false }
  | body =>
    let copy := match body with | .copy _ => true | _ => false
    { progid := 0, progdig := sha256 (bodyBytes body), dvis := (0, 0), prec := 0, nobj := if copy then 1 else 0, spv := 0, slots := 0,
      seed := 0, arg := sha256 [], ins := sha256 (if copy then natLe 1 0 ++ natLe 1 1 ++ digBytes (smGet 0 c.ins 0) else []), cb := 0,
      oi := 0, an := 0, slot := sha256 [], resroot := 0, out := outDig c, reslay := 0, replay := false, res := false }

/-- Twin mode of FLAGS [7:6], coded as TWN_CTL.MODE. -/
def twinMode (s : State) : Nat := if s.twin.st == 2 then 1 else if s.twin.st == 3 || s.twin.st == 4 then 2 else 0

/-- The Replay Record before REPCMP (Table 16.2). -/
def replayFields (s : State) (p q : Nat) (c : Cmd) (f : RepF) (repcmp : Nat) : List Byte :=
  let x := getPart s p
  let (w, h) := partRect x
  let flags := (if c.taint then 1 else 0) + (if c.slottaint then 2 else 0) + (if f.replay then 4 else 0)
    + (if anyCount c.cnt then 8 else 0) + (if f.res then 16 else 0) + (if c.linked then 32 else 0) + 64 * twinMode s
  natLe 4 0x4C505252 ++ natLe 1 0 ++ natLe 1 1 ++ natLe 1 (if isPublish c then 0 else typeCode c.body) ++ natLe 1 flags ++ natLe 8 c.hdr.cmdid.toNat
    ++ natLe 2 c.ctx ++ natLe 2 q ++ natLe 4 c.seq.toNat ++ natLe 8 f.progid ++ digBytes f.progdig ++ natLe 1 f.dvis.1 ++ natLe 1 f.dvis.2
    ++ natLe 1 f.prec ++ natLe 1 f.nobj ++ natLe 4 f.spv ++ natLe 8 (glbBuild s.build).toNat ++ natLe 1 (glbStepping s.build)
    ++ natLe 1 x.cores.length ++ natLe 1 (w % 16 + 16 * h) ++ natLe 1 f.slots ++ natLe 2 (engId s % 16384) ++ natLe 2 0
    ++ dig48 (getMeas s 16).value ++ natLe 8 f.seed ++ natLe 8 (c.beat0.getD 0).toNat ++ natLe 8 s.beat.b.toNat
    ++ digBytes f.arg ++ digBytes f.ins ++ digBytes f.cb ++ digBytes f.oi ++ digBytes f.an ++ digBytes f.slot ++ digBytes f.resroot
    ++ digBytes f.out ++ countBytes c.cnt ++ natLe 4 repcmp ++ digBytes f.reslay ++ natLe 4 0

/-- Table 16.3: bit, first byte and length of the fields compared. -/
def cmpFields : List (Nat × Nat × Nat) :=
  [(0, 32, 32), (1, 160, 32), (2, 136, 8), (3, 192, 32), (4, 224, 32), (5, 256, 32), (6, 288, 32), (7, 320, 32), (8, 352, 32),
   (9, 384, 32), (10, 416, 56), (11, 65, 1), (12, 66, 1), (13, 6, 1)]

/-- R391: REPCMP of a new record against an archived one. -/
def repCmp (new arch : List Byte) : Nat :=
  if arch.length < 512 || leNat (arch.take 4) != 0x4C505252 || (arch.getD 5 0).toNat != 1 then 2 ^ 15
  else (cmpFields.map (fun (b, o, n) => if (new.drop o).take n == (arch.drop o).take n then 0 else 2 ^ b)).sum

/-- The Replay Record of a command at its Publication. -/
def replayRec (s : State) (p q : Nat) (c : Cmd) (members : List Cmd) : List Byte :=
  let f := repFields c members
  let r := replayFields s p q c f 0
  if f.replay then replayFields s p q c f (repCmp r c.arch) else r

/-! ### Stage 5 and agreement (Table 1.5, R337) -/

/-- The tag of a command's stores. -/
def cmdTag (p q : Nat) (seq : W32) : Nat := p + 32 * (q + 65536 * seq.toNat)

/-- Stage 5: every store of the command has landed and every digest is complete. -/
def stage5 (s : State) (p q : Nat) (c : Cmd) : Bool :=
  c.stage == .drain && !c.diverged && !writesOut s (cmdTag p q c.seq) && !s.stores.any (fun r => r.part == cmdTag p q c.seq) && c.jobs == 0

/-- The fetched commands with their queue and partition. -/
def allCmds (s : State) : List (Nat × Nat × Cmd) :=
  s.host.slots.flatMap (fun e => match e.2 with | some x => x.cmds.map (fun c => (x.part, x.q, c)) | none => [])

/-- R337: compare a command's value with the peer's: met when they are equal, held when they differ. -/
def compareAgree (s : State) (p q : Nat) (c : Cmd) (mine peer : BitVec 256) : State :=
  if mine == peer then modCmd s q c.seq (fun c => { c with stage := .met s.beat.b, peer := some peer })
  else
    let s' := noteDiverge s p q
    modCmd { s' with nextId := s.nextId + 1 } q c.seq (fun c =>
      { c with peer := some peer, diverged := true, dvIdx := idxOf s s', dvNo := s.nextId })

/-- R337: an agreement message goes out; beyond 4 for each group in the Beat it waits for the next. -/
def sendAgree (s : State) (m : Agree) : State :=
  if s.twin.sent < 8 then post { s with twin := { s.twin with sent := s.twin.sent + 1 } } (.agree m)
  else { s with twin := { s.twin with outbox := s.twin.outbox ++ [m] } }

/-- The messages that waited go out in the Beat that begins. -/
def sendWaiting (s : State) : State :=
  s.twin.outbox.foldl sendAgree { s with twin := { s.twin with sent := 0, outbox := [] } }

/-- R337: a command that has met stage 5 in MIRROR forms its value and sends it; the peer's, if it has come, is compared. -/
def agreeOne (s : State) (x : Nat × Nat × Cmd) : State :=
  let (p, q, c) := x
  if c.value.isSome || !stage5 s p q c then s
  else
    let v := agreeValue c
    let s := sendAgree (modCmd s q c.seq (fun c => { c with value := some v })) ⟨q, c.seq, v⟩
    match s.twin.agrees.find? (fun m => m.q == q && m.seq == c.seq) with
    | some m =>
      compareAgree { s with twin := { s.twin with agrees := s.twin.agrees.filter (fun y => y != m) } } p q c v m.value
    | none => s

/-- In MIRROR every command that can form its value does. -/
def agreeNow (s : State) : State := if s.twin.st == 2 then (allCmds s).foldl agreeOne s else s

/-- R338: a twin's own value of a command and the primary's: a difference is TWIN_DIVERGE and marks the twin unfit. -/
def checkOwn (s : State) (p q : Nat) (own peer : BitVec 256) : State :=
  if own == peer then s else noteDiverge { s with twin := { s.twin with unfit := true } } p q

/-- Outside MIRROR a command that has met stage 5 is ready for Publication. In STANDBY the twin, which may be taking over, compares its own result with the
primary's, or keeps it for the message to come (R338). -/
def meetOne (b : W64) (s : State) (x : Nat × Nat × Cmd) : State :=
  let (p, q, c) := x
  if !stage5 s p q c then s
  else
    let s := modCmd s q c.seq (fun c => { c with stage := .met b })
    if (s.twin.st == 3 || s.twin.st == 4) && !s.twin.primary then
      match s.twin.agrees.find? (fun m => m.q == q && m.seq == c.seq) with
      | some m => checkOwn { s with twin := { s.twin with agrees := s.twin.agrees.filter (fun y => y != m) } } p q (agreeValue c) m.value
      | none => { s with twin := { s.twin with made := s.twin.made ++ [⟨q, c.seq, agreeValue c⟩] } }
    else s

/-- What Beat b leaves ready at its end. -/
def meetAll (s : State) (b : W64) : State := if s.twin.st == 2 then agreeNow s else (allCmds s).foldl (meetOne b) s

/-! ### PUBLICATION -/

/-- R387: at the Publication of a command that establishes a residency the partition's record is armed. -/
def armRes (s : State) (p : Nat) (c : Cmd) : State :=
  match c.body, c.resRoots with
  | .run _ _ pr, some (a, l) => match pr.tabs.res with
    | .establish rs =>
      let rng := rs.map (fun r => ((coreAt s p r.core).getD 64, r.base / 128, r.rows))
      modPart s p (fun x => { x with res := some ⟨a, l, true, rng⟩ })
    | _ => s
  | _, _ => s

/-- R34: a command publishes: Replay Record, completion record, signals. In STANDBY the primary sends its agreement message (R338). -/
def publishCmd (s : State) (p q : Nat) (c : Cmd) (members : List Cmd) : State :=
  match queueAt s q with
  | none => s
  | some x =>
    let s := queueWrite s q (x.qr.rpl + BitVec.ofNat 64 (512 * ringSlot x.qr c.seq)) (replayRec s p q c members)
    let s := if s.twin.st == 3 && s.twin.primary then sendAgree s ⟨q, c.seq, agreeValue c⟩ else s
    retireCmd (armRes s p c) q c 0 .none

/-- R339: a MIRROR primary whose twin link is down holds every Publication. -/
def pubHeld (s : State) : Bool := s.twin.st == 2 && s.twin.primary && !s.twin.linkup

/-- The command met stages 5 and 6 before this boundary. -/
def metBefore (s : State) (c : Cmd) : Bool := match c.stage with | .met b => b != s.beat.b | _ => false

/-- A command that may retire where it stands in a publication group's stretch of the ring. -/
def mayGo (s : State) (q : Nat) (c : Cmd) : Bool :=
  metBefore s c || (match c.stage, c.body with
    | .ended _ idx, _ => fltOut s idx && !s.parts.any (fun p => cmdRuns s p.1 q c.seq)
    | .queued, .signal => true
    | _, _ => false)

/-- Publish or retire one command of such a stretch. -/
def goOne (p q : Nat) (members : List Cmd) (s : State) (c : Cmd) : State :=
  match c.stage with
  | .met _ => publishCmd s p q c members
  | .ended st idx => retireCmd s q c st idx
  | _ => retireCmd s q c 0 .none

/-- The stretch of the ring from the front to the next PUBLISH (R279). -/
def groupStretch (x : QSlot) : Option (List Cmd) :=
  let cs := x.cmds.filter (fun c => match c.stage with | .counting _ => false | _ => true)
  match cs.find? isPublish with
  | some pb => some (cs.takeWhile (fun c => !isPublish c) ++ [pb])
  | none => none

/-- PUBLICATION (R34, R35, R279): at a boundary, the front command of a queue that met stages 5 and 6 before it; a HOLDPUB command with
its whole group. -/
def execPublication (q : Nat) (s : State) : Host.Outcome State Fault Refusal :=
  if !atEdge s || pubHeld s then .next s
  else match queueAt s q with
    | none => .next s
    | some x => match frontCmd x with
      | none => .next s
      | some c =>
        if !metBefore s c then .next s
        else if isHold c then
          (match groupStretch x with
           | some cs =>
             if cs.all (mayGo s q) then .next (mcWork (finishOp (cs.foldl (goOne x.part q (cs.filter isHold)) s))) else .next s
           | none => .next s)
        else .next (mcWork (finishOp (publishCmd s x.part q c [])))

/-! ### STACK_BURST (R290, R291) -/

/-- STACK_BURST: a core's slot on a pseudo-channel serves its oldest request, of whichever engine; a store whose row the Store engine has not read
keeps its place and the slot passes (log 62). A management access leaves nothing here. The last write of a command may complete its stage 5
(R337). -/
def execStackBurst (core pch : Nat) (s : State) : Host.Outcome State Fault Refusal :=
  if s.stk.out || stackP s.build == 0 then .next s
  else match serveFirst (waitsOn s core pch) (fun r => stkRead s r.key (32 * r.g) 32) s.stk.greqs with
    | (none, _) => .next s
    | (some r, rest) =>
      let s1 := { s with stk := { s.stk with greqs := rest } }
      match r.wr with
      | some (_, []) => .next s
      | some (_, bs) => .next (agreeNow (stkWrite s1 r.key (r.g * 32) bs))
      | none => .next s1

end Sys2Proof.Machine
end

