-- ==== Sys2Proof/Machine/Registers.lean ====
section
/-!
DEFINITION. Registers.lean: what a read of a register returns and to whom (R412 to R415, R420), writes by access code (R14 to R17), the
apply of staged values at a Beat boundary (R16, R416 to R419), and the commands GLB_APPLY, BEAT_BOUNDARY_APPLY, REG_WRITE,
BEAT_COUNT_LO_READ.
-/

namespace Sys2Proof.Machine

/-! ### Small readings -/

/-- The number of a requester: 0 the PF, n VF n, 17 the MC (R235, R285). -/
def reqNo : Func → Nat
  | .pf => 0 | .vf n => n | .mc => 17

/-- A flag at a bit place. -/
def flag (b : Bool) (k : Nat) : Nat := if b then 2 ^ k else 0

/-- A word of a number, from bit `lo`. -/
def wordAt (v lo : Nat) : W32 := BitVec.ofNat 32 (v / 2 ^ lo)

/-- The partition whose applied PART_CORESn names a core. -/
def coreTarget (s : State) (c : Nat) : Option Nat := (List.range 16).find? (fun p => (getPart s p).want.contains c)

/-- PART_STATn (Table 18.7). -/
def partStat (s : State) (p : Nat) : Nat :=
  let x := getPart s p
  let r := partRect x
  flag (x.keySt == .live) 0 + flag (overQuota s p) 1 + flag x.seg.isSome 2 + flag (x.want != x.cores) 3 + x.cores.length * 2 ^ 4
    + r.1 * 2 ^ 11 + r.2 * 2 ^ 15 + x.oepoch.toNat * 2 ^ 19

/-- STATE of BEAT_STAT (Table 10.6). -/
def bstCode : BState → Nat
  | .acquiring => 1 | .locked => 2 | .holdover => 3 | .lost => 4

/-- Codes of Table 10.1. -/
def srcCode : BSrc → Nat
  | .none => 0 | .pin => 1 | .marker => 2 | .loc => 3

/-- BEAT_STAT (Table 10.6). -/
def beatStat (s : State) : Nat :=
  let b := s.beat
  bstCode b.st + srcCode b.active * 2 ^ 4 + b.hops * 2 ^ 8 + flag b.early 12 + flag b.cnterr 13 + flag b.outwin 14 + b.holdcnt * 2 ^ 16

/-- PERIOD (R243): the lengths of the last 256 Beats that ended on accepted edges, in units of 1/256 cycle; 4,096 stands for those not
yet seen (Table 10.7). -/
def beatPeriod (s : State) : Nat := s.beat.lens.sum + (256 - s.beat.lens.length) * 4096

/-- A code of Table 6.5. -/
def bankCode : Bank → Nat
  | .on => 0 | .retain => 1 | .off => 2 | .waking => 3

/-- WIDTH of BRD_STAT (Table 13.11). -/
def widthCode (w : Nat) : Nat := if w == 4 then 3 else min w 2

/-- Staging slots in use, retained versions, and staged entries whose index still has a retained one (R298, R299). -/
def stgCounts (s : State) : Nat × Nat × Nat :=
  let used := s.ext.stg.filterMap Prod.snd
  let st := used.filter (fun g => !g.retained)
  (st.length, (used.filter Stg.retained).length, (st.filter (fun g => (extAt s g.idx).rheld)).length)

/-- The queue of the held divergent command that diverged first (Table 13.12). -/
def divQueue (s : State) : Option Nat :=
  let ds : List (Nat × Nat) := s.host.slots.flatMap (fun e => match e.2 with
    | some x => (x.cmds.filter Cmd.diverged).map (fun c => (c.dvNo, x.q))
    | none => [])
  (ds.foldl (fun (m : Option (Nat × Nat)) d => match m with
    | some y => if d.1 < y.1 then some d else some y
    | none => some d) none).map Prod.snd

/-- Journaled commands not yet run by the twin (Table 13.12): on the twin, those in the journal, or fetched and not begun; on a MIRROR primary, those whose
value the twin has not sent; a STANDBY primary hears nothing of what its twin has run, and its count is free within those journaled (log 33). -/
def jLag (s : State) : Nat :=
  if twinSide s then (s.twin.journal.filter isCmdEntry).length + (s.host.slots.map (fun e => match e.2 with
    | some x => (x.cmds.filter notStarted).length
    | none => 0)).sum
  else if !primarySide s then 0
  else if s.twin.st == 2 then s.twin.given - s.twin.heard
  else min s.twin.given (Config.twinLag s.now)

/-- STATE of a key slot (Table 12.7); EMPTY while its keys are drawn (R307). -/
def keyCode : KeySt → Nat
  | .empty => 0 | .live => 1 | .zeroising => 2 | .drawing => 0

/-! ### The blocks of BAR0 as the PF reads them -/

/-- GLB (Tables 18.4, 18.5). -/
def readGlb (s : State) (k : Nat) : W32 :=
  match k with
  | 0x00 => BitVec.ofNat 32 (engId s + 0x01010000)
  | 0x04 => BitVec.ofNat 32 (glbStepping s.build)
  | 0x08 => (glbBuild s.build).truncate 32
  | 0x0C => wordAt (glbBuild s.build).toNat 32
  | 0x10 => glbCaps.getD 0 0
  | 0x14 => glbCaps.getD 1 0
  | 0x18 => glbCaps.getD 2 0
  | 0x1C => glbCaps.getD 3 0
  | 0x20 => BitVec.ofNat 32 (flag (s.regs.capt.isSome || s.regs.due.isSome) 0)
  | 0x24 =>
    let (pos, led) := match s.boot.fuses with | some f => (f.cfgpos, f.leader) | none => (0, false)
    BitVec.ofNat 32 (flag s.cfgDone 0 + pos * 2 + flag led 4 + flag s.regs.partErr 5 + flag s.regs.slotErr 6)
  | 0x28 => s.regs.last
  | _ => 0

/-- BEAT (Tables 10.4 to 10.7), for a requester. BEAT_COUNT_LO is read without its side effect here. -/
def readBeat (s : State) (f : Func) (k : Nat) : W32 :=
  match k with
  | 0x00 => BitVec.ofNat 32 (flag (s.beat.st == .acquiring) 0)
  | 0x08 => s.beat.b.truncate 32
  | 0x0C => smGet 0 s.beat.latch (reqNo f)
  | 0x10 => BitVec.ofNat 32 (beatStat s)
  | 0x1C => BitVec.ofNat 32 (beatPeriod s + unsign 8 s.beat.edgeoff * 2 ^ 24)
  | _ => stagedReg s (0x00100000 + k)

/-- HQ (Table 11.5). -/
def readHq (s : State) (k : Nat) : W32 :=
  if k == 0x30 then BitVec.ofNat 32 (flag s.host.op.isSome 0 + s.host.opRes * 2 ^ 8)
  else if k == 0x34 then BitVec.ofNat 32 (flag s.host.opLost 0 + flag s.host.dbMiss 1)
  else if 0x1000 ≤ k && k < 0x10C0 then
    match getSlot s ((k - 0x1000) / 4) with
    | some x => BitVec.ofNat 32 (x.q + 2 ^ 16 + x.part * 2 ^ 20)
    | none => 0
  else if k < 0x28 then stagedReg s (0x00200000 + k)
  else 0

/-- A mailbox (Tables 11.15, 11.16), without the side effects of R285 and R286. -/
def readMbx (s : State) (n k : Nat) : W32 :=
  let x := getMbx s n
  match k with
  | 0x00 => BitVec.ofNat 32 x.lock
  | 0x04 => BitVec.ofNat 32 (x.tx.length + flag (x.tx.length == 8) 4 + x.rx.length * 2 ^ 8 + flag (x.rx.length == 8) 12
      + flag x.txovf 16 + flag x.rxovf 17 + flag x.deny 18)
  | 0x10 => match x.rx with | w :: _ => w.1.truncate 32 | [] => 0
  | 0x14 => match x.rx with | w :: _ => wordAt w.1.toNat 32 | [] => 0
  | 0x18 => match x.rx with | w :: _ => BitVec.ofNat 32 w.2 | [] => 0
  | _ => 0

/-- FLT (Tables 17.6, 17.7). -/
def readFlt (s : State) (k : Nat) : W32 :=
  match k with
  | 0x10 => s.flt.tail
  | 0x14 => s.flt.head
  | 0x18 => BitVec.ofNat 32 (s.flt.seen.toNat + flag s.flt.faultn 10 + flag s.therm.stop.isSome 11 + flag s.mc.dead 12
      + s.flt.lost * 2 ^ 16)
  | 0x1C => BitVec.ofNat 32 (s.flt.buf.length + min 65535 s.flt.mcMiss * 2 ^ 8)
  | 0x20 => stagedReg s rFLT_THERM ||| BitVec.ofNat 32 (s.therm.temps.foldl max 0 % 256 + s.build.tstopd % 256 * 2 ^ 8
      + s.build.tstops % 256 * 2 ^ 24)
  | _ => stagedReg s (rFLT_CTL + k)

/-- EXT (Table 12.6). -/
def readExt (s : State) (k : Nat) : W32 :=
  let (st, re, df) := stgCounts s
  match k with
  | 0x14 => BitVec.ofNat 32 (flag (s.ext.flip || s.beat.flipDue) 0)
  | 0x18 => BitVec.ofNat 32 (s.ext.epoch.toNat + (oldestEpoch s).toNat * 2 ^ 16)
  | 0x1C => BitVec.ofNat 32 (st + flag (st + re ≥ 65536) 17 + min 16383 df * 2 ^ 18)
  | 0x20 => BitVec.ofNat 32 re
  | _ => 0

/-- The window of core c (Tables 18.9, 18.10). -/
def readCore (s : State) (c k : Nat) : W32 :=
  let x := getCore s c
  if k == 0 then
    BitVec.ofNat 32 (((List.range 8).map (fun t =>
        (if t ≥ s.build.ntorte then 3 else smGet 0 x.tstat t) * 4 ^ t)).sum
      + flag x.sout 16 + flag (x.holder.isSome && (getPart s (partOf s c)).seg.isSome) 17
      + (match x.holder with | some p => p * 2 ^ 18 + 2 ^ 22 | none => 0) + flag (x.moving || coreTarget s c != x.holder) 23)
  else if k == 4 then x.degraded
  else if 0x10 ≤ k && k < 0x30 then
    BitVec.ofNat 32 (((List.range 4).map (fun i =>
      let w := (k - 0x10) / 4 * 4 + i
      (if w / 4 < s.build.ntorte then smGet 32 x.rowmap w else 0) * 256 ^ i)).sum)
  else if k == 0x48 then BitVec.ofNat 32 (((List.range 32).map (fun i => flag (smGet none x.want i).isSome i)).sum)
  else if k == 0x50 || k == 0x54 then
    BitVec.ofNat 32 (((List.range 16).map (fun i => bankCode (smGet .on x.bank ((k - 0x50) * 4 + i)) * 4 ^ i)).sum)
  else if 0x100 ≤ k && k < 0x200 then
    if x.holder.isSome && (getPart s (partOf s c)).seg.isSome then seenAt (getCtr s c ((k - 0x100) / 4)) s.now else 0
  else if 0x1000 ≤ k && k < 0x2000 then
    match smGet none x.remap ((k - 0x1000) / 4) with
    | some r => BitVec.ofNat 32 (2 ^ 31 + flag r.field 30 + r.lrow)
    | none => 0
  else stagedReg s (rCORE c k)

/-- A stack port (Table 12.8). -/
def readStk (s : State) (p k : Nat) : W32 :=
  let x := getStk s p
  if k == 4 then BitVec.ofNat 32 (flag x.present 0 + flag x.failed 1 + flag x.mismatch 2 + x.temp.toNat * 2 ^ 8)
  else if 0x10 ≤ k && k < 0x20 then x.id.getD ((k - 0x10) / 4) 0
  else stagedReg s (rSTK p k)

/-- A Braid port (Tables 13.10, 13.11). -/
def readBrd (s : State) (p k : Nat) : W32 :=
  let x := getPort s p
  match k with
  | 0x00 => stagedReg s (rBRD p 0) ||| BitVec.ofNat 32 (flag (x.st == 1) 8)
  | 0x04 => BitVec.ofNat 32 (x.st + widthCode x.width * 4 + x.reason * 2 ^ 4 + x.minor * 2 ^ 8 + flag x.unexp 16 + flag x.tagerr 17)
  | 0x08 => BitVec.ofNat 32 ((x.lanes.zipIdx.map (fun (l, i) => (l.1 + flag l.2.1 2 + l.2.2 * 8) * 256 ^ i)).sum)
  | 0x0C => match x.tab with
    | some t => BitVec.ofNat 32 (flag x.half 0 + t.ents.length * 2 + t.width % 8 * 2 ^ 12)
    | none => BitVec.ofNat 32 (flag x.half 0)
  | 0x10 => match x.peer with
    | some (e, q) => BitVec.ofNat 32 (e + q * 2 ^ 14 + 2 ^ 18)
    | none => 0
  | 0x14 => BitVec.ofNat 32 (x.delay % 65536)
  | 0x18 => x.lost
  | 0x1C => x.auth
  | 0x20 => x.keyOps.zeroExtend 32
  | _ => 0

/-- TWN (Table 13.12). -/
def readTwn (s : State) (k : Nat) : W32 :=
  let t := s.twin
  match k with
  | 0x00 => stagedReg s rTWN_CTL ||| BitVec.ofNat 32 (flag (t.st == 1) 3 + flag t.detach 4 + flag t.takeover 5)
  | 0x04 => BitVec.ofNat 32 (t.st + flag t.primary 3 + flag t.linkup 4 + flag t.unfit 5 + t.step * 2 ^ 6 + flag t.crossed 9
      + t.minor * 2 ^ 10)
  | 0x08 => match t.peer with | some e => BitVec.ofNat 32 (e + 2 ^ 14) | none => 0
  | 0x0C => match divQueue s with | some q => BitVec.ofNat 32 (q + 2 ^ 16) | none => 0
  | 0x14 => BitVec.ofNat 32 (min (2 ^ 32 - 1) (jLag s))
  | _ => 0

/-- A slot (Tables 14.8, 14.9). -/
def readSlt (s : State) (n k : Nat) : W32 :=
  let x := getSlt s n
  match k with
  | 0x04 => BitVec.ofNat 32 (x.st + flag x.iso 3 + x.reason * 2 ^ 4 + flag x.ident.isSome 8)
  | 0x08 => match x.ident with | some d => d.funcid | none => 0
  | 0x0C => match x.ident with | some d => BitVec.ofNat 32 (d.version + d.latency * 2 ^ 16) | none => 0
  | 0x10 => match x.ident with
    | some d => BitVec.ofNat 32 (d.ratio - 1 + flag d.det 2 + d.lo * 2 ^ 4 + d.hi * 2 ^ 16)
    | none => 0
  | 0x14 => BitVec.ofNat 32 (s.build.wlen.getD n 0 % 65536 + s.build.frmu % 256 * 2 ^ 16)
  | 0x18 => x.spur.zeroExtend 32
  | _ =>
    if 0x20 ≤ k && k < 0x40 then BitVec.ofNat 32 (leNat (((digBytes x.dig).drop (k - 0x20)).take 4))
    else stagedReg s (rSLT n k)

/-- FND (Table 12.7): a key slot is LIVE while it holds a key. -/
def readFnd (s : State) (k : Nat) : W32 :=
  match k with
  | 0 => BitVec.ofNat 32 (((List.range 16).map (fun p => keyCode (getPart s p).keySt * 4 ^ p)).sum)
  | 4 => BitVec.ofNat 32 (flag (s.mkey != 0) 0 + flag s.twin.key.isSome 2
      + ((List.range 16).map (fun p => flag (getPart s p).link.isSome (4 + p))).sum)
  | _ => 0

/-- MEAS (Table 15.13): index i, word w. -/
def readMeas (s : State) (i w : Nat) : W32 :=
  let m := getMeas s i
  if w < 12 then BitVec.ofNat 32 (leNat (((dig48 m.value).drop (4 * w)).take 4))
  else if w == 12 then m.extcnt
  else if w == 13 then BitVec.ofNat 32 (flag m.valid 0 + flag m.ext 1)
  else 0

/-- MGT (Table 18.11). -/
def readMgt (s : State) (k : Nat) : W32 :=
  match k with
  | 0x00 => BitVec.ofNat 32 (flag (mcUp s) 0 + flag s.mc.dead 1 + min 255 s.mc.restarts * 2 ^ 8)
  | 0x04 => s.mc.fwver
  | 0x08 => s.mc.svn.truncate 32
  | 0x0C => wordAt s.mc.svn.toNat 32
  | 0x10 => s.mc.imgid.truncate 32
  | 0x14 => wordAt s.mc.imgid.toNat 32
  | 0x18 => s.mc.i3c
  | 0x1C => BitVec.ofNat 32 (s.stk.period + min (2 ^ 24 - 1) s.stk.passes * 2 ^ 8)
  | _ => 0

/-- R412, R414: a register as the PF reads it; zero where no table names it or the build lacks its unit. -/
def pfRead (s : State) (f : Func) (off : Nat) : W32 :=
  if off < 0x00100000 then readGlb s off
  else if off < 0x00200000 then readBeat s f (off - 0x00100000)
  else if off < 0x00300000 then readHq s (off - 0x00200000)
  else if off < 0x00300400 then readMbx s ((off - 0x00300000) / 0x20) (off % 0x20)
  else if off < 0x00400000 then 0
  else if off < 0x00400400 then
    if off % 0x40 == 0x0C then BitVec.ofNat 32 (partStat s ((off - 0x00400000) / 0x40)) else stagedReg s off
  else if off < 0x00500000 then 0
  else if off < 0x00600000 then readFlt s (off - 0x00500000)
  else if off < 0x00800000 then readExt s (off - 0x00600000)
  else if off < 0x00900000 then
    if (off - 0x00800000) / 0x4000 < s.build.ncore then readCore s ((off - 0x00800000) / 0x4000) (off % 0x4000) else 0
  else if off < 0x00A00000 then 0
  else if off < 0x00A80000 then
    if (off - 0x00A00000) / 0x10000 < s.build.nstack then readStk s ((off - 0x00A00000) / 0x10000) (off % 0x10000) else 0
  else if off < 0x00B00000 then 0
  else if off < 0x00B40000 then
    if (off - 0x00B00000) / 0x4000 < s.build.nbraid then readBrd s ((off - 0x00B00000) / 0x4000) (off % 0x4000) else 0
  else if off < 0x00B80000 then 0
  else if off < 0x00C00000 then if s.build.twin then readTwn s (off - 0x00B80000) else 0
  else if off < 0x00C20000 then
    if (off - 0x00C00000) / 0x4000 < s.build.nslot then readSlt s ((off - 0x00C00000) / 0x4000) (off % 0x4000) else 0
  else if off < 0x00D00000 then 0
  else if off < 0x00E00000 then readFnd s (off - 0x00D00000)
  else if off < 0x00F00000 then readMeas s ((off - 0x00E00000) / 0x40) (off % 0x40 / 4)
  else readMgt s (off - 0x00F00000)

/-- Table 18.1: VF p + 1 sees the register (reads it as the PF does). -/
def vfSees (s : State) (p off : Nat) : Bool :=
  if off < 0x00100000 then off < 0x20 || off == 0x24
  else if off < 0x00200000 then off == 0x00100008 || off == 0x0010000C || off == 0x00100010
  else if off < 0x00300000 then 0x00201000 ≤ off && off < 0x002010C0
  else if off < 0x00400000 then (off - 0x00300000) / 0x20 == p
  else if off < 0x00500000 then (off - 0x00400000) / 0x40 == p
  else if off < 0x00800000 then false
  else if off < 0x00900000 then
    let c := (off - 0x00800000) / 0x4000
    let k := off % 0x4000
    (getCore s c).holder == some p &&
      (k < 8 || (0x10 ≤ k && k < 0x30) || k == 0x50 || k == 0x54 || (0x100 ≤ k && k < 0x200))
  else if off < 0x00B00000 then false
  else if off < 0x00B80000 then
    (getPort s ((off - 0x00B00000) / 0x4000)).part == p && (off % 0x4000 == 4 || off % 0x4000 == 0x10)
  else if off < 0x00C00000 then false
  else if off < 0x00D00000 then
    (getSlt s ((off - 0x00C00000) / 0x4000)).en && (getSlt s ((off - 0x00C00000) / 0x4000)).part == p && 4 ≤ off % 0x4000 && off % 0x4000 < 0x14
  else if off < 0x00E00000 then off == 0x00D00000
  else off < 0x00F00000

/-- R412 to R415: what a 4-byte read of a register returns to a requester (a VF reads VALID of HQ_QSLOTn as 0 for slots of other partitions), without the side effects that have rows of their own.
No register stands at an offset that is not 4-byte aligned (R413). -/
def readReg (s : State) (f : Func) (off : Nat) : W32 :=
  if off % 4 != 0 then 0
  else match vfPart f with
  | none => pfRead s f off
  | some p =>
    if !vfSees s p off then 0
    else if off == 0x00D00000 then pfRead s f off &&& BitVec.ofNat 32 (3 * 4 ^ p)
    else if 0x00201000 ≤ off && off < 0x002010C0 then
      let v := pfRead s f off
      if (v.extractLsb' 20 4).toNat == p then v else v &&& 0xFFFEFFFF
    else pfRead s f off

/-! ### Writes (R14, R15, R415) -/

/-- The staged bits of a register that a function may write (Tables 18.1, 18.2). -/
def stageMask (b : Build) (f : Func) (off : Nat) : W32 :=
  match f with
  | .pf => rwsMask b off
  | .mc => mcMask b off
  | .vf _ => 0

/-- Table 0.6, RWS: a write sets the staged value of the bits the writer may write. -/
def stageWrite (f : Func) (off : Nat) (v : W32) (s : State) : State :=
  let m := stageMask s.build f off
  if m == 0 then s
  else { s with regs := { s.regs with stage := smSet none s.regs.stage off (some ((stagedReg s off &&& ~~~m) ||| (v &&& m))) } }

/-- The mailbox register that an offset names to a function (R284): 16 to 31 the PF's alone. -/
def mbxOwn (f : Func) (n : Nat) : Bool :=
  match vfPart f with
  | some p => n == p
  | none => n < 32

/-- Table 0.6, W1C, and the MC's staging window (R313). -/
def plainWrite (f : Func) (off : Nat) (v : W32) (s : State) : State :=
  let pf := (vfPart f).isNone
  if 0x00300000 ≤ off && off < 0x00300400 && off % 0x20 == 4 then
    let n := (off - 0x00300000) / 0x20
    let x := getMbx s n
    if mbxOwn f n then
      setMbx s n { x with txovf := x.txovf && !v.getLsbD 16, rxovf := x.rxovf && !v.getLsbD 17, deny := x.deny && !v.getLsbD 18 }
    else s
  else if !pf then s
  else if off == rGLB_STATUS then
    { s with regs := { s.regs with partErr := s.regs.partErr && !v.getLsbD 5, slotErr := s.regs.slotErr && !v.getLsbD 6 } }
  else if off == rBEAT_STAT then
    { s with beat := { s.beat with early := s.beat.early && !v.getLsbD 12, cnterr := s.beat.cnterr && !v.getLsbD 13,
                                   outwin := s.beat.outwin && !v.getLsbD 14 } }
  else if off == rHQ_STAT then
    { s with host := { s.host with opLost := s.host.opLost && !v.getLsbD 0, dbMiss := s.host.dbMiss && !v.getLsbD 1 } }
  else if off == rFLT_SUMMARY then
    { s with flt := { s.flt with seen := s.flt.seen &&& ~~~(v.truncate 10) } }
  else if 0x00B00000 ≤ off && off < 0x00B40000 && off % 0x4000 == 4 && (off - 0x00B00000) / 0x4000 < s.build.nbraid then
    modPort s ((off - 0x00B00000) / 0x4000) (fun x => { x with unexp := x.unexp && !v.getLsbD 16, tagerr := x.tagerr && !v.getLsbD 17 })
  else if isMc f && rEXT_STAGE ≤ off && off < rEXT_STAGE + 16 then
    { s with ext := { s.ext with latch := smSet 0 s.ext.latch ((off - rEXT_STAGE) / 4) v } }
  else s

/-- A 4-byte write with all byte enables set, by the access code of the register. -/
def writeReg (f : Func) (off : Nat) (v : W32) (s : State) : State := plainWrite f off v (stageWrite f off v s)

/-- R413: an access: 4 bytes at one register, or 8 bytes as two writes, the lower offset first. A 4-byte write with a byte enable clear is ignored; an access of
another size, or one that is not aligned to its size, is completed as Unsupported Request. -/
def writeAs (f : Func) (off : Nat) (v : W32) (acc : Access) (s : State) : State :=
  match acc with
  | .dword be => if be != 0xF || off % 4 != 0 then s else writeReg f off v s
  | .qword be hi =>
    if off % 8 != 0 then s
    else
      let s := if be.extractLsb' 0 4 == 0xF then writeReg f off v s else s
      if be.extractLsb' 4 4 == 0xF then writeReg f (off + 4) hi s else s
  | .other _ => s

/-- REG_WRITE (R14, R413, R415): a write to a register with no row of its own acts by its access code; one to a register that is read-only, absent or outside the
writer's view does nothing. An MC that is stopped writes nothing (R19, R410), and the host nothing before CFG_DONE (R359). -/
def execRegWrite (f : Func) (off : Nat) (v : W32) (acc : Access) (s : State) : Host.Outcome State Fault Refusal :=
  if fnOn s f then .next (writeAs f off v acc s) else .next s

/-- BEAT_COUNT_LO read (R235). -/
def execBeatCountLoRead (f : Func) (s : State) : Host.Outcome State Fault Refusal :=
  if !fnOn s f then .next s
  else .next (post { s with beat := { s.beat with latch := smSet 0 s.beat.latch (reqNo f) (wordAt s.beat.b.toNat 32) } }
    (.answer (s.beat.b.truncate 32)))

/-- Staged values `new` laid over a captured set: the later write of a register prevails. -/
def mergeStage (old new : SMap (Option W32)) : SMap (Option W32) := new.foldl (fun m e => smSet none m e.1 e.2) old

/-- GLB_APPLY (R16, R19): every staged value is captured at the write; several writes in a Beat make one apply. None is taken before CFG_DONE (R362, log 35). -/
def execGlbApply (f : Func) (x : WrVal) (s : State) : Host.Outcome State Fault Refusal :=
  if pfOn s f && s.cfgDone && fullWr x && x.v.getLsbD 0 then
    .next { s with regs := { s.regs with capt := some (mergeStage (s.regs.capt.getD []) s.regs.stage), stage := [] } }
  else .next s

/-! ### The apply (R16, R416 to R419) -/

/-- A captured value of a register that this boundary applies. -/
def captAt (s : State) (off : Nat) : Option W32 := smGet none (s.regs.due.getD []) off

/-- The value a register takes at the apply. -/
def newReg (s : State) (off : Nat) : W32 := (captAt s off).getD (liveReg s off)

/-- Make a value live. -/
def putLive (off : Nat) (v : W32) (s : State) : State :=
  { s with regs := { s.regs with live := smSet none s.regs.live off (some v) } }

/-- A field of the new value that is out of range keeps its old bits. -/
def keepBits (old new m : W32) (bad : Bool) : W32 := if bad then (new &&& ~~~m) ||| (old &&& m) else new

/-- The cores of a PART_CORESn value, in partition order (R192). -/
def maskCores (m : W64) : List Nat := (List.range 64).filter (fun i => m.getLsbD i)

/-- Distinct columns of a set of cores. -/
def coreCols (b : Build) (cs : List Nat) : List Nat := (cs.map (fun c => c % meshW b)).eraseDups

/-- R141: the cores form a rectangle of the mesh. -/
def isRect (b : Build) (cs : List Nat) : Bool :=
  let rows := cs.map (fun c => c / meshW b)
  let cols := cs.map (fun c => c % meshW b)
  let span (l : List Nat) : Nat := l.foldl max 0 - l.foldl min 1000 + 1
  cs == [] || cs.length == span rows * span cols

/-- R418: a new PART_CORESn value fails on its own. -/
def coresBad (b : Build) (m : W64) : Bool := !isRect b (maskCores m) || (maskCores m).any (fun c => c ≥ b.ncore)

/-- R418: the partitions whose new value is refused, in rounds until no overlap is left; `vals` pairs old and new. -/
def refuseCores (b : Build) : Nat → List (W64 × W64) → List (W64 × W64)
  | 0, vals => vals
  | n + 1, vals =>
    refuseCores b n (vals.zipIdx.map (fun (v, p) =>
      if v.1 != v.2 && (coresBad b v.2 || vals.zipIdx.any (fun (w, q) => q != p && (w.2 &&& v.2) != 0)) then (v.1, v.1) else v))

/-- The PART_CORESn values old and new. -/
def coreVals (s : State) : List (W64 × W64) :=
  (List.range 16).map (fun p => (liveReg64 s (rPART p 0), newReg s (rPART p 4) ++ newReg s (rPART p 0)))

/-- PART_CORESn of every partition (R141, R418, R419). -/
def applyCores (s : State) : State :=
  let vals := coreVals s
  (vals.zip (refuseCores s.build 17 vals)).zipIdx.foldl (fun s (v, p) =>
    if v.1.2 != v.2.2 then
      note { s with regs := { s.regs with partErr := true } } ⟨.partShape, 0, s.beat.start⟩ (some p)
    else if v.2.1 != v.2.2 then
      modPart (putLive (rPART p 4) (wordAt v.2.2.toNat 32) (putLive (rPART p 0) (v.2.2.truncate 32) s)) p
        (fun x => { x with want := maskCores v.2.2 })
    else s) s

/-- The contexts of a partition that are LIVE. -/
def liveCtxs (s : State) (p : Nat) : List Nat :=
  (s.host.ctxs.filter (fun e => e.2.st == .live && e.2.part == p)).map Prod.fst

/-- The queues of a partition's contexts that are not resident, as their records are read, stop with their contexts (R280, R308). -/
def resetFoundOf (s : State) (p : Nat) (qs : List QFound) : State :=
  (liveCtxs s p).foldl (fun s id => (foundOf s id qs).foldl resetFound s) s

/-- R307, R308: an applied OWN: a release resets every context of the partition (their queues that are not resident follow with
OWNER_RELEASE); a grant waits for an EMPTY slot. -/
def applyOwn (p : Nat) (own : Bool) (s : State) : State :=
  let x := getPart s p
  if own then
    if (x.keySt == .live || x.keySt == .drawing) && !x.release then s
    else modPart (journal s (.owner p true)) p (fun x => { x with grant := true })
  else if (x.keySt == .live || x.keySt == .drawing) && !x.release then
    let s := (liveCtxs s p).foldl (fun s id => resetCtx s id []) (journal s (.owner p false))
    modPart s p (fun x => { x with release := true, grant := false })
  else modPart s p (fun x => { x with grant := false })

/-- PART_CTLn and PART_QUOTAn (R418). -/
def applyPart (s : State) (p : Nat) : State :=
  let s := match captAt s (rPART p 8) with
    | none => s
    | some v =>
      let lim := bitsOf v.toNat 1 13
      applyOwn p (v.getLsbD 0)
        (putLive (rPART p 8) (keepBits (liveReg s (rPART p 8)) v 0x3FFE (lim == 0 || lim > 4096)) s)
  [0x10, 0x14, 0x18, 0x1C].foldl (fun s k => match captAt s (rPART p k) with
    | none => s
    | some v =>
      let old := liveReg s (rPART p k)
      let v := if k == 0x18 then
          keepBits old (keepBits old (keepBits old v 0x7F (bitsOf v.toNat 0 7 > 64)) 0x3F00 (bitsOf v.toNat 8 6 > 48)) 0x1FF0000
            (bitsOf v.toNat 16 9 > 256)
        else v
      putLive (rPART p k) v s) s

/-- R237: a BEAT_SRC value names a present source. -/
def srcPresent (b : Build) (v : W32) (code : Nat) : Bool := code == 1 || code == 3 || (code == 2 && bitsOf v.toNat 8 4 < b.nbraid)

/-- BEAT_SRC (R237). -/
def applySrc (s : State) : State :=
  match captAt s rBEAT_SRC with
  | none => s
  | some v =>
    if [0, 2, 4].any (fun k => srcPresent s.build v (bitsOf v.toNat k 2)) then putLive rBEAT_SRC v s
    else note s ⟨.beatSrcNone, 0, s.beat.start⟩ none

/-- R417: a table base may change: HQ_CTL.EN was 0 and no object of its kind is resident. -/
def baseFree (s : State) (en : Bool) (off : Nat) : Bool :=
  !en && (if off == rHQ_EVT_BASE then s.host.evts == [] else if off == rHQ_OVF_BASE then true else s.host.slots == [])

/-- The HQ block (R417): `en` is EN before the apply. -/
def applyHq (en : Bool) (s : State) : State :=
  let s := [rHQ_CTX_BASE, rHQ_Q_BASE, rHQ_EVT_BASE, rHQ_OVF_BASE].foldl (fun s off =>
    if baseFree s en off then putLive (off + 4) (newReg s (off + 4)) (putLive off (newReg s off) s) else s) s
  putLive rHQ_CTL (newReg s rHQ_CTL) s

/-- R149: the captured targets of 16 banks of a core from bank `k`; a 3 leaves the target. -/
def applyBanks (c k : Nat) (s : State) : State :=
  let off := rCORE c (if k == 0 then 0x40 else 0x44)
  match captAt s off with
  | none => s
  | some v =>
    let old := liveReg s off
    let v := (List.range 16).foldl (fun v i => keepBits old v (BitVec.ofNat 32 (3 * 4 ^ i)) (bitsOf v.toNat (2 * i) 2 == 3)) v
    let tgt (i : Nat) : Bank := match bitsOf v.toNat (2 * i) 2 with | 0 => .on | 1 => .retain | _ => .off
    modCore (putLive off v s) c (fun x => { x with
      want := (List.range 16).foldl (fun m i =>
        let now := smGet .on x.bank (k + i)
        smSet none m (k + i) (if now == tgt i || (now == .waking && tgt i == .on) then none else some (tgt i))) x.want })

/-- SLT_CTL (R344): the core lies in the named partition. -/
def applySlot (s : State) (n : Nat) : State :=
  match captAt s (rSLT n 0) with
  | none => s
  | some v =>
    if (getPart s (bitsOf v.toNat 1 4)).want.contains (bitsOf v.toNat 5 6) then putLive (rSLT n 0) v s
    else note { s with regs := { s.regs with slotErr := true } } ⟨.slotBind, reasonDetail 0 n 0, s.beat.start⟩ (some (bitsOf v.toNat 1 4))

/-- FLT (R398, Table 17.7): LOG2N below 6 is left; EN from 0 to 1 clears LOST; a new ring starts empty. -/
def applyFlt (s : State) : State :=
  let old := liveReg s rFLT_CTL
  let v := newReg s rFLT_CTL
  let v := keepBits old v 0x1E (bitsOf v.toNat 1 4 < 6)
  let base := liveReg64 s rFLT_BASE
  let s := putLive rFLT_THERM (newReg s rFLT_THERM) (putLive rFLT_CTL v
    (putLive (rFLT_BASE + 4) (newReg s (rFLT_BASE + 4)) (putLive rFLT_BASE (newReg s rFLT_BASE) s)))
  let ring := liveReg64 s rFLT_BASE != base || bitsOf v.toNat 1 4 != bitsOf old.toNat 1 4
  { s with flt := { s.flt with lost := if v.getLsbD 0 && !old.getLsbD 0 then 0 else s.flt.lost,
                               head := if ring then s.flt.tail else s.flt.head } }

/-- Registers whose captured value has no check (Table 18.3). -/
def plainRegs (b : Build) : List Nat :=
  [rBEAT_LOAD, rBEAT_LOAD + 4, rBEAT_COMP, rTWN_CTL] ++ (List.range b.nstack).map (fun p => rSTK p 0)
    ++ (List.range b.nbraid).map (fun p => rBRD p 0)

/-- Everything an apply at this Beat's start does. -/
def applyAll (s : State) : State :=
  let en := (liveReg s rHQ_CTL).getLsbD 0
  let s := applyCores s
  let s := (List.range 16).foldl applyPart s
  let s := applyHq en (applySrc s)
  let s := (plainRegs s.build).foldl (fun s off => match captAt s off with | some v => putLive off v s | none => s) s
  let s := (List.range s.build.ncore).foldl (fun s c => applyBanks c 16 (applyBanks c 0 s)) s
  let s := (List.range s.build.nslot).foldl applySlot s
  let s := applyFlt s
  noteOver { s with regs := { s.regs with due := none, last := s.beat.b.truncate 32 }, beat := { s.beat with applyDue := false } }

end Sys2Proof.Machine
end

