-- ==== Sys2Proof/Machine/Train.lean ====
section
/-!
DEFINITION. Train.lean: the training of a Braid port (R330 to R332), which ends at a Beat boundary, and the phases of start-up that it ends.
-/

namespace Sys2Proof.Machine

/-! ### Start-up phases -/

/-- Start-up enters a phase; phase 10 releases HL_PHYRST_N (R428). -/
def setPhase (s : State) (n : Nat) : State :=
  { s with boot := { s.boot with phase := n, reads := 0, acc := false, retry := false, phy := { s.boot.phy with hl := s.boot.phy.hl || n == 10 } } }

/-- The cabled ports of the build (Table 15.6). -/
def cabled (s : State) : List Nat :=
  match s.boot.params with
  | some p => (List.range s.build.nbraid).filter (fun k => p.brdcab.getLsbD k)
  | none => []

/-- Phases 8 and 9 that have nothing to do, or nothing left, end. -/
def skipPhases (s : State) : State :=
  let twin := s.build.twin && (match s.boot.params with | some p => p.twincab | none => false)
  if s.boot.phase == 8 && (cabled s).all (fun p => s.boot.trained.contains p && (getPort s p).train.isNone) then
    if twin then setPhase s 9 else setPhase s 10
  else s

/-! ### The parameter block (Table 15.6) -/

/-- `n` SHA-384 values from byte k. -/
def hashesAt (b : List Byte) (k n : Nat) : List (BitVec 384) :=
  (List.range n).map (fun i => BitVec.ofNat 384 (beNat ((b.drop (k + 48 * i)).take 48)))

/-- The parameter block from its bytes (Table 15.6). -/
def parseParams (b : List Byte) : ParamBlk :=
  let w (k n : Nat) : Nat := leNat ((b.drop k).take n)
  { engid := (List.range 8).map (fun p => w (8 + 2 * p) 2 % 16384), cethr := w 24 1 % 16, twincab := w 25 1 % 2 == 1,
    brdcab := BitVec.ofNat 16 (w 26 2), brdlr := BitVec.ofNat 16 (w 28 2), bmc := w 30 2, board := w 32 2,
    modtop := (List.range 16).map (fun p => w (64 + 8 * p) 2), roots := hashesAt b 192 4, signers := hashesAt b 384 8,
    fwpriv := (b.drop 768).take 3328 }

/-- The plaintext of a section. -/
def section_ (s : State) (t : Nat) : List Byte := smGet [] s.boot.secs t

/-- The parameter block as it has been loaded: before phase 5 is over, its section as far as the frames have come (R355). -/
def paramBlk (s : State) : Option ParamBlk :=
  match s.boot.params with
  | some p => some p
  | none => if section_ s 3 == [] then none else some (parseParams (section_ s 3))

/-! ### Training (Table 13.8) -/

/-- Table 13.8 steps 1 and 2: state of a lane (0 GOOD, 1 OPEN, 2 SHORT, 3 ERR), whether it is inverted, and the peer lane on it. -/
def laneState (l : LaneObs) : Nat × Bool × Nat :=
  if !l.signal then (1, false, 0)
  else if l.stuck then (2, false, 0)
  else match l.word with
    | none => (3, false, 0)
    | some w => (0, l.inv, w.lane % 4)

/-- Table 13.8 step 3: the largest of 4, 2 and 1 that the lanes both ends report GOOD allow; 0 for none. -/
def trainWidth (o : TrainObs) : Nat :=
  let n := ((o.lanes.map laneState).filter (fun l => l.1 == 0 && o.peerGood.contains l.2.2)).length
  if n ≥ 4 then 4 else if n ≥ 2 then 2 else n

/-- Table 13.8 step 7: half the round trip less the turnaround, as the mean of the 16 echoes, to the nearest cycle, a half upwards (log 41). -/
def oneWayDelay (o : TrainObs) : Nat := ((o.echoes.map (fun e => e.1 - e.2)).sum + 16) / 32

/-- R252: the delay budget under BRD_CTL.LR. -/
def delayBudget (b : Build) (lr : Bool) : Nat := 4096 * transit b (if lr then 0x51 else 0x50) - 260

/-- R327: the peer's certificate chain ends at a root listed in the parameter block. -/
def rootListed (s : State) (root : BitVec 384) : Bool :=
  match s.boot.params with
  | some p => root != 0 && p.roots.contains root
  | none => false

/-- Table 13.8 step 7: 16 echoes come back, and the delay they give is within the budget. -/
def delayOk (s : State) (lr : Bool) (o : TrainObs) : Bool := o.echoes.length == 16 && oneWayDelay o ≤ delayBudget s.build lr

/-- Table 13.8: the reason code of the first step that fails; 0 when every one passes. An SPDM session needs both MCs (R327, R410). -/
def trainReason (s : State) (lr : Bool) (o : TrainObs) : Nat :=
  if trainWidth o == 0 then 1
  else if !o.align then 2
  else if o.maj != 1 then 3
  else if o.peng ≥ 16384 || o.pport ≥ 16 then 4
  else if o.peng == engId s then 5
  else if !delayOk s lr o then 6
  else if !o.auth || !rootListed s o.root || !mcUp s then 7
  else 0

/-- What a training leaves in the port's registers (Table 13.11). -/
def trained (r : Nat) (lr : Bool) (o : TrainObs) (x : Port) : Port :=
  { x with
    st := if r == 0 then 2 else 0, width := if r == 0 then trainWidth o else 0, lr := lr, reason := r,
    minor := if r == 0 || r > 3 then min 0 o.minor else x.minor, lanes := o.lanes.map laneState,
    peer := if r == 0 || r ≥ 5 then some (o.peng, o.pport) else x.peer, delay := if r == 0 || r ≥ 6 then oneWayDelay o else x.delay,
    offer := none, train := none }

/-- Table 13.8 step 2: the training words that a port sends, one on each lane that shows a signal and is not stuck: lane, port and engine
identifier. -/
def sendWords (s : State) (port : Nat) (o : TrainObs) : State :=
  post s (.train port ((o.lanes.zipIdx.filter (fun (l, _) => l.signal && !l.stuck)).map (fun (_, n) => (n, ⟨n, port % 16, engId s⟩))))

/-- R331, R332: what a port sends of itself at steps 5 and 6, as far as its training has come: its protocol 1.0, then its engine identifier and port
number. -/
def sendIds (s : State) (port r : Nat) : State :=
  let s := if r == 0 || r > 2 then post s (.version port 1 0) else s
  if r == 0 || r > 3 then post s (.ident port (engId s) (port % 16)) else s

/-- R330: a port begins its training; one that is not in service stays DOWN, reason 8. -/
def trainPort (s : State) (port : Nat) (o : TrainObs) : State :=
  if (getPort s port).en then sendWords (modPort s port (fun x => { x with st := 1, width := 0, train := some o })) port o
  else modPort s port (fun x => { x with st := 0, width := 0, reason := 8, train := none })

/-- R330: a training under way is over, with PORT_DOWN where a step failed. -/
def endTraining (s : State) (port : Nat) : State :=
  match (getPort s port).train with
  | none => s
  | some o =>
    let lr := bitsOf (liveReg s (rBRD port 0)).toNat 1 1 == 1
    let r := trainReason s lr o
    let s := modPort (sendIds s port r) port (trained r lr o)
    if r == 0 then s else note s ⟨.portDown, linkDetail port 0 0 0 r, s.now⟩ (some (getPort s port).part)

/-- The trainings under way end at this boundary (log 41), and with them, it may be, phase 8 of start-up. -/
def settleTrain (s : State) : State := skipPhases ((List.range s.build.nbraid).foldl endTraining s)

end Sys2Proof.Machine
end

