-- ==== Sys2Proof/Machine/Mailbox.lean ====
section
/-!
DEFINITION. Mailbox.lean: mailboxes (R284 to R287), MBXSEND (R167), and the MC's messages 0x0101 and 0x0201 with the repair areas in
flash (R374, R375, R404).
-/

namespace Sys2Proof.Machine

/-- Sender identifier of a function (Table 11.17). -/
def senderId : Func → Nat
  | .pf => 0x0F00 | .vf n => (n - 1) * 256 + n | .mc => 0x8000

/-- Sender identifier of a control core (Table 11.17). -/
def coreSender (p core : Nat) : Nat := 0x4000 + p * 256 + core

/-- A word enters the device-to-host queue of a mailbox; a full queue drops it and sets RXOVF (R287). -/
def sendRx (n : Nat) (w : W64) (id : Nat) (s : State) : State :=
  let x := getMbx s n
  setMbx s n (if x.rx.length ≥ 8 then { x with rxovf := true } else { x with rx := x.rx ++ [(w, id)] })

/-- MBXSEND (R167, R287): one word from two S registers; a mailbox of another partition is OUT_OF_PARTITION. -/
def goMbxsend (i : Iss) (mbx lo hi : Nat) (s : State) : Host.Outcome State Fault Refusal :=
  issue i (.mbxsend i mbx lo hi) none (fun t s =>
    if i.strm != .control then .bad s ⟨.illegalOp, 0, t⟩
    else if mbx != partOf s i.core then .bad s ⟨.outOfPartition, 0, t⟩
    else .ok (sendRx mbx (BitVec.ofNat 64 (regVal s i (.s lo) + regVal s i (.s hi) * 2 ^ 32)) (coreSender (partOf s i.core) i.core) s) t) s

/-- MBX_LOCKn read (R285): a free lock is taken by the reader; the owner before the read is returned. -/
def execMbxLockRead (f : Func) (n : Nat) (s : State) : Host.Outcome State Fault Refusal :=
  if !fnOn s f then .next s
  else if !mbxOwn f n then .next (post s (.answer 0))
  else
    let x := getMbx s n
    .next (post (if x.lock == 0 then setMbx s n { x with lock := senderId f } else s) (.answer (BitVec.ofNat 32 x.lock)))

/-- MBX_LOCKn write (R285): zero from the owner releases; a write by anyone else is ignored and sets DENY. -/
def execMbxLockWrite (f : Func) (n : Nat) (w : WrVal) (s : State) : Host.Outcome State Fault Refusal :=
  if !fnOn s f || !fullWr w || !mbxOwn f n then .next s
  else
    let x := getMbx s n
    if x.lock != senderId f then .next (setMbx s n { x with deny := true })
    else if w.v == 0 then .next (setMbx s n { x with lock := 0 })
    else .next s

/-- MBX_TXn write (R285, R286): the low half latches by function, the high half pushes the word with its sender. -/
def execMbxTxWrite (f : Func) (n : Nat) (hi : Bool) (v : WrVal) (s : State) : Host.Outcome State Fault Refusal :=
  if !fnOn s f || !fullWr v || !mbxOwn f n then .next s
  else
    let x := getMbx s n
    if x.lock != 0 && x.lock != senderId f then .next (setMbx s n { x with deny := true })
    else if !hi then .next (setMbx s n { x with latch := smSet 0 x.latch (reqNo f) v.v })
    else
      let w : W64 := v.v ++ smGet 0 x.latch (reqNo f)
      let y := { x with latch := smSet 0 x.latch (reqNo f) 0 }
      .next (setMbx s n (if x.tx.length ≥ 8 then { y with txovf := true } else { y with tx := x.tx ++ [(w, senderId f)] }))

/-- MBX_RXn high half read (R286): it returns the head word's high half and pops the word; zero from an empty queue. -/
def execMbxRxRead (f : Func) (n : Nat) (s : State) : Host.Outcome State Fault Refusal :=
  if !fnOn s f then .next s
  else if !mbxOwn f n then .next (post s (.answer 0))
  else
    let x := getMbx s n
    match x.rx with
    | [] => .next (post s (.answer 0))
    | w :: rest => .next (post (setMbx s n { x with rx := rest }) (.answer (wordAt w.1.toNat 32)))

/-- The words of a mailbox that the MC has taken and not answered: the last three (log 27). -/
def mcWords (s : State) (n : Nat) : List (BitVec 64) := smGet [] s.mc.words n

/-- MBX_TAKE (R287): the running MC takes the head word of a host-to-device queue. -/
def execMbxTake (n : Nat) (s : State) : Host.Outcome State Fault Refusal :=
  let x := getMbx s n
  match x.tx with
  | [] => .next s
  | w :: rest =>
    if !mcUp s || n ≥ 32 then .next s
    else
      let ws := mcWords s n ++ [w.1]
      .next { setMbx s n { x with tx := rest } with
        mc := { s.mc with words := smSet [] s.mc.words n (ws.drop (ws.length - 3)) } }

/-! ### Repair areas (R374) -/

/-- The 16 bytes of a repair entry before its CRC (Table 15.9). -/
def repBytes (e : RepEnt) : List Byte :=
  natLe 4 (e.kind + e.unit * 2 ^ 8 + e.sub * 2 ^ 16) ++ natLe 4 e.val ++ natLe 4 e.seq.toNat

/-- DETAIL of REPAIR_UNSAVED (R375, Table 17.5): the entry's KIND as the reason, UNIT as the unit, SUB and VAL as the value (log 31). -/
def unsavedDetail (e : RepEnt) : Nat := leNat ((repBytes e).take 6)

/-- Table 15.9: the entry that 16 bytes hold, with the verdict of its CRC. -/
def parseRep (b : List Byte) : RepEnt :=
  let v := leNat b
  { kind := bitsOf v 0 8, unit := bitsOf v 8 6, sub := bitsOf v 16 5, val := bitsOf v 32 11, seq := BitVec.ofNat 32 (bitsOf v 64 32),
    crcOk := crc32c (b.take 12) == BitVec.ofNat 32 (bitsOf v 96 32) }

/-- R374: a half of a repair area: GEN and the entries up to the first erased place, where its header is valid. -/
def parseHalf (b : List Byte) : Option Area :=
  if leNat (b.take 4) == 0x50455052 && b.length ≥ 32 && crc32c (b.take 28) == BitVec.ofNat 32 (leNat ((b.drop 28).take 4)) then
    some ⟨((pieces 16 ((b.length - 32) / 16) (b.drop 32)).map parseRep).takeWhile (fun e => e.kind != 0xFF), BitVec.ofNat 32 (leNat ((b.drop 4).take 4))⟩
  else none

/-- R374: the active half: the valid one, or of two the one with the greater GEN in serial arithmetic; with none the area is empty. -/
def activeHalf (b0 b1 : List Byte) : Area :=
  match parseHalf b0, parseHalf b1 with
  | some a, some b => if reached b.gen a.gen then b else a
  | some a, none => a
  | none, some b => b
  | none, none => ⟨[], 0⟩

/-- The repair area of a position. -/
def areaAt (s : State) (pos : Nat) : Area := smGet ⟨[], 0⟩ s.mc.areas pos

/-- Entries that a half holds: RSIZE less its header, 16 bytes each. -/
def areaCap (s : State) : Nat := match s.boot.desc with | some d => (d.rsize - 32) / 16 | none => 0

/-- Distinct live entries of an area: a kind of Table 15.9 and a good CRC, each place once. -/
def liveEnts (es : List RepEnt) : List RepEnt :=
  es.foldl (fun out e =>
    if e.crcOk && e.kind ≥ 1 && e.kind ≤ 3 && !out.any (fun x => x.kind == e.kind && x.unit == e.unit && x.sub == e.sub && x.val == e.val)
    then out ++ [e] else out) []

/-- R374: append an entry; a full half is compacted first. None when the compacted half is full. -/
def appendRep (s : State) (pos : Nat) (e : RepEnt) : Option State :=
  let a := areaAt s pos
  let a := if a.ents.length < areaCap s then a else ⟨liveEnts a.ents, a.gen + 1⟩
  if a.ents.length < areaCap s then
    some { s with mc := { s.mc with areas := smSet ⟨[], 0⟩ s.mc.areas pos { a with ents := a.ents ++ [e] } } }
  else none

/-- The MC answers a message with its code and a status. -/
def mcAnswer (n code status : Nat) (s : State) : State :=
  sendRx n (BitVec.ofNat 64 (code + status * 2 ^ 16)) (senderId .mc)
    { s with mc := { s.mc with words := smSet [] s.mc.words n [] } }

/-- The MC has taken these words last from a mailbox that it shares with the PF. -/
def mcHas (s : State) (n : Nat) (ws : List (BitVec 64)) : Bool :=
  mcUp s && 16 ≤ n && n < 32 && (mcWords s n).drop ((mcWords s n).length - ws.length) == ws

/-- R374: the area of a position that the leader has not read is read from flash before an entry is appended to it. -/
def readArea (s : State) (pos : Nat) (r : AreaRead) : State :=
  if s.mc.areas.any (fun a => a.1 == pos) then s
  else { s with mc := { s.mc with areas := smSet ⟨[], 0⟩ s.mc.areas pos (activeHalf r.half0 r.half1) } }

/-- REPAIR_RELAY (R375): the leader's MC appends a follower's entry after checking its CRC and answers 0 done, 1 flash failure, 2 bad
entry. -/
def execRepairRelay (n : Nat) (w0 w1 w2 : W64) (fl : RelayFlash) (s : State) : Host.Outcome State Fault Refusal :=
  let leader := match s.boot.fuses with | some f => f.leader | none => false
  if !mcHas s n [w0, w1, w2] || w0.toNat % 65536 != 0x0101 || !leader then .next s
  else
    let e := parseRep (natLe 8 w1.toNat ++ natLe 8 w2.toNat)
    if !e.crcOk then .next (mcAnswer n 0x0101 2 s)
    else match (if fl.ok then appendRep (readArea s (bitsOf w0.toNat 16 3) fl.area) (bitsOf w0.toNat 16 3) e else none) with
      | some s' => .next (mcAnswer n 0x0101 0 s')
      | none => .next (mcAnswer n 0x0101 1 s)

/-- SCRUB_PERIOD (R404): message 0x0201 sets the exponent of the stack scrub period, 28 to 40. -/
def execScrubPeriod (n : Nat) (w0 : W64) (s : State) : Host.Outcome State Fault Refusal :=
  let e := bitsOf w0.toNat 16 6
  if !mcHas s n [w0] || w0.toNat % 65536 != 0x0201 then .next s
  else if e < 28 || e > 40 then .next (mcAnswer n 0x0201 2 s)
  else .next (mcAnswer n 0x0201 0 { s with stk := { s.stk with period := e } })

end Sys2Proof.Machine
end

