-- ==== Sys2Proof/Machine/Matrix.lean ====
section
/-!
DEFINITION. Matrix.lean: HOLD, MMA, DRAIN, SPILL, RELOAD, ACCUMULATE, EWM and MERINGUE (R97 to R117, R200 to R204).
-/

namespace Sys2Proof.Machine

/-! ### HOLD (R105, R107, R201) -/

/-- The channels that a shadow load reads: those of its panel within the held extent. -/
def loadChans (o : HoldOps) : List Nat :=
  let pw := panelWidth o.mode
  (List.range (min o.chans (pw * (o.panel + 1)) - pw * o.panel)).map (pw * o.panel + ·)

/-- The first Grain of a chunk, and the Grains of a chunk that lie within the depth. -/
def chunkGrains (o : HoldOps) (bands : Nat) : Nat × Nat :=
  (o.chunk * bands * o.kg, min ((o.k + 31) / 32) ((o.chunk + 1) * bands * o.kg))

/-- The row reads of a shadow load: Grains [g0, g1) of its channels. -/
def chanReads (d : QDesc) (base pitch k g0 g1 t : Nat) (chans : List Nat) : List RdReq :=
  let lo := spanBytes d.fmt (32 * g0)
  chans.flatMap (fun c => spanReads (base + c * pitch + lo) (spanBytes d.fmt (min k (32 * g1)) - lo) t)

/-- R107: a chain step would write a shadow that no front has consumed. -/
def shadowBusy (s : State) (core w first : Nat) : Bool :=
  let x := smGet emptyWafer (getCore s core).waf w
  x.shadow.isSome || decide (first < x.front)

/-- The Wafers that a shadow load writes, each with the channel of its column 0 and its first Grain (R100, R105, Table 4.2). -/
def loadWafers (b : Build) (o : HoldOps) (us : List Nat) (bands : Nat) : List (Nat × Nat × Nat) :=
  (unitWafers b o.mode (us.getD (o.panel % us.length) 0)).zipIdx.map (fun (w, k) =>
    (w, panelWidth o.mode * o.panel + 32 * (match o.mode with | .tier => w % 4 | _ => k),
      (o.chunk * bands + bandOf o.mode w) * o.kg))

/-- R29: the first cycle of the guard window that a timed action of cycles [a, b] would use. -/
def firstLate (s : State) (k : Strm) (a b : Nat) : Option Flt :=
  if late s k b then some ⟨.segOverrun, 0, max a (s.beat.start + 4032)⟩ else none

/-- HOLD: one shadow load (R105, R201). It reads its rows in the cycle of its first chain step (log 59) and decodes them into the shadow registers of its
Wafers (R73). -/
def goHold (i : Iss) (o : HoldOps) (x : Ext) (s : State) : Host.Outcome State Fault Refusal :=
  issue i (.hold i o x) x.cond (fun t s =>
    let us := unitList o.mode o.unit o.units
    let bands := lastBand s.build o.mode + 1
    let base := aReg s i o.aBase
    let cs := loadChans o
    let (g0, g1) := chunkGrains o bands
    check s (formFault i .matrix (extBad x true false true) t) fun _ =>
    check s (localFault s i base 32 32 t) fun _ =>
    let r := openDesc i (fun _ => true) (expTag x 1) (aReg s i o.aDesc) (cs.headD 0) cs.length (32 * g0) (min o.k (32 * g1)) o.k t s
    thenR r.1 fun s =>
    check s (localFault s i base (cs.getLastD 0 * (32 * o.pitch) + spanBytes r.2.fmt (min o.k (32 * g1))) 32 t) fun _ =>
    check s (if modeOk s i.core o.mode us then none else some ⟨.modeUnavail, 0, t⟩) fun _ =>
    let first := t + transit s.build 0x02
    let ws := loadWafers s.build o us bands
    match ws.find? (fun w => shadowBusy s i.core w.1 (first + bandOf o.mode w.1)) with
    | some w => .bad s ⟨.shadowBusy, 0, first + bandOf o.mode w.1⟩
    | none =>
      thenR (doReads i.core i.strm (expTag x 0) (chanReads r.2 base (32 * o.pitch) o.k g0 g1 first cs) s) fun s =>
        let ld (w : Nat × Nat × Nat) : CellLoad :=
          cellLoad r.2 (reader s i.core t) (reader s i.core first) base o t (rowMapOf s i.core w.1) w.2.1 w.2.2
        let done := first + 32 + lastBand s.build o.mode
        check s (firstLate s i.strm first done) fun _ =>
        .ok (ws.foldl (fun s w => setWafers s i.core [w.1] (fun _ y => { y with shadow := some (ld w) })) s) done) s

/-! ### MMA (R102 to R107) -/

/-- R108: a Wafer of a unit that runs a pass holds nothing from this Segment, neither in its held nor in its shadow registers. -/
def holdsNothing (c : Core) (ws : List Nat) : Bool :=
  ws.any (fun w => (smGet emptyWafer c.waf w).held.isNone && (smGet emptyWafer c.waf w).shadow.isNone)

/-- R201: the shadow loads that stand before an MMA are of a HOLD that binds to it; with none, the MMA names the shape, mode and units of the MMA that
last used the held operand. -/
def holdBinds (c : Core) (o : MmaOps) (hx : Nat) (ws : List Nat) : Bool :=
  let y (w : Nat) : Wafer := smGet emptyWafer c.waf w
  if ws.any (fun w => (y w).shadow.isSome) then
    ws.all (fun w => match (y w).shadow with
      | some h => h.mode == o.mode && h.unit == o.unit && h.units == o.units && h.k == o.k && h.chans == hx
      | none => false)
  else ws.all (fun w => (y w).used == some (o.mode, o.unit, o.units, o.k, hx))

/-- The held operand that an MMA will use first on a Wafer: its shadow, else what it holds. -/
def nextHeld (c : Core) (w : Nat) : Option CellLoad :=
  let y := smGet emptyWafer c.waf w
  match y.shadow with
  | some h => some h
  | none => y.held

/-- The blocks of a unit's passes in which entry row e is written. -/
def rowBlocks (f : Fold) (n ui e : Nat) : Nat :=
  ((List.range f.np).filter (fun p => p % n == ui)).length * ((List.range f.ns).filter (fun sb => e < blockRows f sb)).length

/-- The entries an MMA adds to, each with the number of blocks that add to it. -/
def mmaEntries (b : Build) (o : MmaOps) (f : Fold) (us : List (Nat × Nat)) (n : Nat) : List (Nat × Nat × Nat) :=
  us.flatMap (fun (u, ui) => (outWafers b o.mode u).flatMap (fun w =>
    (List.range (min 64 f.sx)).map (fun e => (w, e, rowBlocks f n ui e))))

/-- R53, R56, R108: the faults of a non-clearing pass, and the term limit; an entry is named with the times it is added to, `n` terms each. -/
def entryFault (s : State) (core : Nat) (clear : Bool) (anchor : Int) (n t : Nat) (es : List (Nat × Nat × Nat)) : Option Flt :=
  let now (p : Nat × Nat × Nat) : EntV := entNow (getEntry s core p.1 p.2.1)
  if !clear && es.any (fun p => !(now p).live) then some ⟨.accStale, 0, t⟩
  else if !clear && es.any (fun p => (now p).anchor != anchor) then some ⟨.anchorMismatch, 0, t⟩
  else if es.any (fun p => (if clear then n else (now p).terms + n * p.2.2) > termLimit) then some ⟨.accTerms, 0, t⟩
  else none

/-- Bytes from an MMA's output base to the end of what its finishes write (R103, R202). -/
def outLen (b : Build) (o : MmaOps) (f : Fold) : Nat :=
  match o.out with
  | .acc => 0
  | .fused => (f.sx - 1) * (32 * o.opitch) + f.hx * (fmtBits o.ofmt / 8)
  | .spill => (List.range f.ns).foldl (fun m sb => max m
      (((f.np - 1) * f.ns + sb) * 34816 * (unitWafers b o.mode o.unit).length
        + 34816 * ((outWafers b o.mode o.unit).length - 1) + 32768 + 32 * blockRows f sb)) 0

/-- MMA (R102): its checks, its fold, and the passes it leaves to run each in its own cycle. -/
def goMma (i : Iss) (o : MmaOps) (x : Ext) (s : State) : Host.Outcome State Fault Refusal :=
  issue i (.mma i o x) x.cond (fun t s =>
    let us := unitList o.mode o.unit o.units
    let base := aReg s i o.aBase
    let sx := if o.aHeld then o.n else o.m
    let hx := if o.aHeld then o.m else o.n
    let bu := busyUnits o.mode us hx
    let ws := bu.flatMap (fun u => unitWafers s.build o.mode u.1)
    let c := getCore s i.core
    let heldOutl := match nextHeld c (ws.headD 0) with | some h => h.outl | none => false
    check s (formFault i .matrix (extBad x true true true) t) fun _ =>
    check s (localFault s i base 32 32 t) fun _ =>
    let r := openDesc i (fun d => !(d.outl && heldOutl)) (expTag x 1) (aReg s i o.aDesc) 0 sx 0 o.k o.k t s
    thenR r.1 fun s =>
    check s (localFault s i base ((sx - 1) * (32 * o.pitch) + spanBytes r.2.fmt o.k) 32 t) fun _ =>
    check s (if o.out == .fused && !fmtDrain o.ofmt then some ⟨.formatRole, 0, t⟩ else none) fun _ =>
    check s (if modeOk s i.core o.mode us then none else some ⟨.modeUnavail, 0, t⟩) fun _ =>
    check s (if holdsNothing c ws then some ⟨.holdEmpty, 0, t⟩ else none) fun _ =>
    check s (if holdBinds c o hx ws then none else some ⟨.tileFit, 0, t⟩) fun _ =>
    match nextHeld c (ws.headD 0) with
    | none => .bad s ⟨.holdEmpty, 0, t⟩
    | some h =>
      let f := foldOf s.build o.mode sx hx o.k (fmtFour r.2.fmt && fmtFour h.fmt) (fmtWide r.2.fmt || h.wide)
      check s (if o.out == .acc then none
        else localFault s i (aReg s i o.aOut) (outLen s.build o f) (if o.out == .spill then 128 else 32) t) fun _ =>
      check s (if o.out == .acc && !(f.ns == 1 && f.np ≤ us.length) then some ⟨.tileFit, 0, t⟩ else none) fun _ =>
      let p0 := t + transit s.build 0x01
      let ts := (us.flatMap (unitTortes s.build o.mode)).eraseDups
      check s (if ts.any (fun q => busyAt c q (p0 + (match o.mode with | .tier => q | _ => 0)))
          || (o.mode == .solo && soloCount c ts p0 > 2)
        then some ⟨.modeUnavail, 0, t⟩ else none) fun _ =>
      let rec_ := aReg s i o.aRec
      thenR (openRec s i o.carried rec_ t) fun s =>
      let anchor := passAnchor s i o.carried o.anchor rec_ t
      let outs := if r.2.outl then r.2.outliers (reader s i.core t) else if h.outl then h.outIdx else []
      let n := termCount (fmtWide r.2.fmt || h.wide) (r.2.zpmode != 0 || h.zp) outs 0 f.ng o.k
      check s (entryFault s i.core o.clear anchor n t (mmaEntries s.build o f bu us.length)) fun _ =>
      let xs := foldPasses f outs us p0
      let l := locOf s i
      let (tid, index, nt) := stochRegs s i o.pIdx
      let done := foldEnd s.build f o.out xs
      let m : MmaRun :=
        { loc := l, o := o, x := x, f := f, desc := r.2, base := base, anchor := anchor, key := sdAt (getCore s i.core) o.seed t,
          tid := tid, index := index, nt := nt, out := aReg s i o.aOut, rec_ := rec_, t := t, done := done, passes := xs, vals := [], sat := false }
      let s := (passActs s.build o.mode l xs).foldl (fun s a => addAct s i.core a) s
      let s := modCore s i.core (fun c => { c with mmas := c.mmas ++ [m] })
      let s := if late s i.strm done then s else signalAt s i x.sig done
      .ok (catchUp s i.core p0) (min done (s.beat.start + 4031))) s

/-! ### DRAIN (R112, R202, R203) -/

/-- R200: the Wafers named are built and the range of entries is not empty. -/
def waferFit (b : Build) (first n e0 e1 : Nat) : Bool := first + n ≤ 4 * b.ntorte && e0 ≤ e1 && e1 < 64

/-- Entry indices e0 to e1. -/
def entRange (e0 e1 : Nat) : List Nat := (List.range (e1 + 1 - e0)).map (e0 + ·)

/-- R203: the index of a DRAIN's element. -/
def drainIndex (trans : Bool) (base nt e c : Nat) : Nat := if trans then base + c * nt + e else base + e * nt + c

/-- DRAIN: reads one entry index a cycle from its issue cycle, writes each MX_DR later. -/
def goDrain (i : Iss) (o : DrainOps) (x : Ext) (s : State) : Host.Outcome State Fault Refusal :=
  issue i (.drain i o x) x.cond (fun t s =>
    let es := entRange o.e0 o.e1
    let ws := (List.range o.wafers).map (o.wafer + ·)
    let out := aReg s i o.aOut
    let rec_ := aReg s i o.aRec
    check s (formFault i .matrix (extBad x true true false) t) fun _ =>
    check s (localFault s i out 32 32 t) fun _ =>
    check s (if fmtDrain o.ofmt then none else some ⟨.formatRole, 0, t⟩) fun _ =>
    check s (if waferFit s.build o.wafer o.wafers o.e0 o.e1 then none else some ⟨.tileFit, 0, t⟩) fun _ =>
    check s (localFault s i out ((o.e1 - o.e0) * (32 * o.opitch) + o.wafers * 32 * (fmtBits o.ofmt / 8)) 32 t) fun _ =>
    check s (if ws.any (fun w => es.any (fun e => !liveAt s i.core w e t)) then some ⟨.accStale, 0, t⟩
      else none) fun _ =>
    thenR (openRec s i o.carried rec_ t) fun s =>
    let (tid, base, ntp) := stochRegs s i o.pIdx
    let nt := if o.nt == 0 then ntp else o.nt.toNat
    let key := sdAt (getCore s i.core) o.seed t
    let size := fmtBits o.ofmt / 8
    let dr := transit s.build 0x05
    let armed := es.foldl (fun r e => ws.foldl (fun r w => armRead i.core w e t (t + (e - o.e0)) r) r) (s, none)
    let a := es.foldl (fun acc e => ws.zipIdx.foldl (fun (acc : (State × Option Flt) × DrainAcc) (wf, w) =>
      drainOne i wf e 32 o.ofmt o.oexp.toInt (fun c => drawRnd o.stoch key tid (drainIndex o.trans base nt (e - o.e0) (32 * w + c)) 0)
        o.clear (out + (e - o.e0) * (32 * o.opitch) + 32 * w * size) (t + (e - o.e0)) (t + (e - o.e0) + dr) acc) acc)
      (armed, ⟨[], false⟩)
    let done := t + (o.e1 - o.e0) + dr
    thenR (updateRec i o.carried o.close rec_ done a.2 a.1) fun s =>
    thenR (endCheck s (locOf s i) done) fun s =>
    .ok (signalAt s i x.sig done) done) s

/-! ### SPILL, RELOAD, ACCUMULATE (R57, R113, R204) -/

/-- The checks that the three share at issue: of the area, only the values and trailers of E0 to E1 are touched (R204). -/
def spillChecks (s : State) (i : Iss) (o : SpillOps) (x : Ext) (t : Nat) : Option Flt :=
  orFlt (formFault i .matrix (extBad x true true true) t)
    (orFlt (localFault s i (aReg s i o.aBase) 128 128 t)
      (orFlt (if waferFit s.build o.wafer o.wafers o.e0 o.e1 then none else some ⟨.tileFit, 0, t⟩)
        (localFault s i (aReg s i o.aBase) (34816 * (o.wafers - 1) + 32768 + 32 * (o.e1 + 1)) 128 t)))

/-- A named entry is stale at issue (R108). -/
def anyStale (s : State) (core : Nat) (o : SpillOps) (t : Nat) : Bool :=
  (List.range o.wafers).any (fun k => (entRange o.e0 o.e1).any (fun e => !liveAt s core (o.wafer + k) e t))

/-- SPILL (R113): each index is read from the issue cycle on and written MX_DR later. -/
def goSpill (i : Iss) (o : SpillOps) (x : Ext) (s : State) : Host.Outcome State Fault Refusal :=
  issue i (.spill i o x) x.cond (fun t s =>
    check s (spillChecks s i o x t) fun _ =>
    check s (if anyStale s i.core o t then some ⟨.accStale, 0, t⟩ else none) fun _ =>
    let dr := transit s.build 0x05
    let done := t + (o.e1 - o.e0) + dr
    let base := aReg s i o.aBase
    okSig ((entRange o.e0 o.e1).foldl (fun r e => (List.range o.wafers).foldl (fun r k =>
      spillOne i (o.wafer + k) e (base + 34816 * k) (t + (e - o.e0)) (t + (e - o.e0) + dr) r) r) (s, none)) i x done) s

/-- Table 4.9: an entry index as its values and trailer spell it; none when R113 refuses the trailer. No trailer holds the clamps that no drain has
counted, so none is left to count (DESIGN CHOICE, log 61). -/
def parseSpill (vals trailer : List Byte) : Option EntV :=
  let tr := leNat trailer
  let terms := bitsOf tr 16 40
  if bitsOf tr 57 7 != 0 || bitsOf tr 160 96 != 0 || terms > termLimit || bitsOf tr 56 1 == 0 then none
  else some
    { live := true, anchor := signed 16 (bitsOf tr 0 16), terms := terms, clp := [],
      cols := (List.range 32).map (fun c =>
        ⟨BitVec.ofNat 128 (leNat ((vals.drop (16 * c)).take 16)), bitsOf tr (64 + c) 1 == 1, bitsOf tr (96 + c) 1 == 1,
          bitsOf tr (128 + c) 1 == 1⟩) }

/-- R113, R57: one index of one Wafer reloaded, or accumulated, from the area as read in cycle rd. -/
def reloadOne (i : Iss) (x : Ext) (acc : Bool) (w e area rd wr : Nat) (s : State) : State × Option Flt :=
  match doReads i.core i.strm (expTag x 0) (spanReads (area + 512 * e) 512 rd ++ spanReads (area + 32768 + 32 * e) 32 rd) s with
  | (s, some f) => (s, some f)
  | (s, none) =>
    match parseSpill (readSpan s i.core (area + 512 * e) 512 rd) (readSpan s i.core (area + 32768 + 32 * e) 32 rd) with
    | none => (s, some ⟨.spillForm, 0, rd⟩)
    | some v =>
      let old := entAt (getEntry s i.core w e) rd
      if acc && old.anchor != v.anchor then (s, some ⟨.anchorMismatch, 0, rd⟩)
      else if acc && decide (old.terms + v.terms > termLimit) then (s, some ⟨.accTerms, 0, rd⟩)
      else if late s i.strm wr then (s, some ⟨.segOverrun, 0, wr⟩)
      else (writeEntry s i.core w e wr (if acc then .join v else .load v), armedRace s i.core w e wr)

/-- The indices of a RELOAD or accumulate-from-spill in order; a fault stops them. -/
def reloadAll (i : Iss) (o : SpillOps) (x : Ext) (acc : Bool) (base t dr : Nat) :
    List (Nat × Nat) → State → State × Option Flt
  | [], s => (s, none)
  | (e, k) :: r, s => match reloadOne i x acc (o.wafer + k) e (base + 34816 * k) (t + (e - o.e0)) (t + (e - o.e0) + dr) s with
    | (s, some f) => (s, some f)
    | (s, none) => reloadAll i o x acc base t dr r s

/-- Indices and Wafers in the order they are read. -/
def spillOrder (o : SpillOps) : List (Nat × Nat) :=
  (entRange o.e0 o.e1).flatMap (fun e => (List.range o.wafers).map (fun k => (e, k)))

/-- RELOAD: makes entries live from a spill area (R113). -/
def goReload (i : Iss) (o : SpillOps) (x : Ext) (s : State) : Host.Outcome State Fault Refusal :=
  issue i (.reload i o x) x.cond (fun t s =>
    check s (spillChecks s i o x t) fun _ =>
    let dr := transit s.build 0x05
    okSig (reloadAll i o x false (aReg s i o.aBase) t dr (spillOrder o) s) i x (t + (o.e1 - o.e0) + dr)) s

/-- ACCUMULATE: adds a spill area to live entries (R57, R113). -/
def goAccumulate (i : Iss) (o : SpillOps) (x : Ext) (s : State) : Host.Outcome State Fault Refusal :=
  issue i (.accumulate i o x) x.cond (fun t s =>
    check s (spillChecks s i o x t) fun _ =>
    check s (if anyStale s i.core o t then some ⟨.accStale, 0, t⟩ else none) fun _ =>
    let dr := transit s.build 0x05
    okSig (reloadAll i o x true (aReg s i o.aBase) t dr (spillOrder o) s) i x (t + (o.e1 - o.e0) + dr)) s

/-! ### EWM (R114, R204) -/

/-- The reads of cycle q of an EWM: the Granules of its element pairs. -/
def ewmReads (fmt base q w t : Nat) : List RdReq :=
  let lo := q * w * 32 * fmtBits fmt / 8
  let hi := (((q + 1) * w) * 32 * fmtBits fmt + 7) / 8
  spanReads (base + lo) (hi - lo) t

/-- R114, R204: the term of element pair `ix` of an EWM as read in cycle t: the product of the two elements at that place from each base. EWM names no
descriptor, and a BELL4 element is decoded by the default codebook (DESIGN CHOICE, log 68). -/
def ewmTerm (s : State) (core : Nat) (o : EwmOps) (bx by_ t ix : Nat) : Term :=
  let el (fmt base : Nat) : Dec := decElem fmt bell4 (elemAt fmt (leNat (readSpan s core base (spanBytes fmt (ix + 1)) t)) ix)
  productTerm [el o.xfmt bx, el o.yfmt by_]

/-- One cycle of an EWM: the products of its element pairs, one term to entry E + q of each Wafer. -/
def ewmCycle (i : Iss) (o : EwmOps) (x : Ext) (bx by_ : Nat) (anchor : Int) (p0 q : Nat) (r : State × Option Flt) : State × Option Flt :=
  if r.2.isSome then r
  else
    let tr := p0 + q
    match doReadsBy i.core i.strm (sortReads (expecting (expTag x 0) (ewmReads o.xfmt bx q o.wafers tr)
        ++ expecting (expTag x 1) (ewmReads o.yfmt by_ q o.wafers tr))) r.1 with
    | (s, some f) => (s, some f)
    | (s, none) =>
      let wr := tr + transit s.build 0x03 + transit s.build 0x04
      (List.range o.wafers).foldl (fun r k =>
        let cols := (List.range 32).map (fun c => [ewmTerm s i.core o bx by_ tr ((q * o.wafers + k) * 32 + c)])
        let r' := passWrite r.1 i.core i.strm (o.wafer + k) (o.e + q) wr (if o.clear then some anchor else none) 1 cols
        (r'.1, orFlt r.2 r'.2)) (s, none)

/-- EWM: element-wise products on the Wafers, one entry index a cycle. -/
def goEwm (i : Iss) (o : EwmOps) (x : Ext) (s : State) : Host.Outcome State Fault Refusal :=
  issue i (.ewm i o x) x.cond (fun t s =>
    let bx := aReg s i o.aX
    let by_ := aReg s i o.aY
    let anchor := anAt (getCore s i.core) o.anchor t
    let ws := (List.range o.wafers).map (o.wafer + ·)
    let p0 := t + transit s.build 0x01
    let tortes := (ws.map (· / 4)).eraseDups
    check s (formFault i .matrix (extBad x true true true) t) fun _ =>
    check s (orFlt (localFault s i bx 32 32 t) (localFault s i by_ 32 32 t)) fun _ =>
    check s (if fmtOperand o.xfmt && fmtOperand o.yfmt then none else some ⟨.formatRole, 0, t⟩) fun _ =>
    check s (if waferFit s.build o.wafer o.wafers o.e o.e && o.e + o.cycles ≤ 64 then none else some ⟨.tileFit, 0, t⟩) fun _ =>
    let n := o.cycles * o.wafers * 32
    check s (orFlt (localFault s i bx (spanBytes o.xfmt n) 32 t) (localFault s i by_ (spanBytes o.yfmt n) 32 t)) fun _ =>
    check s (entryFault s i.core o.clear anchor 1 t
      (ws.flatMap (fun w => (List.range o.cycles).map (fun q => (w, o.e + q, 1))))) fun _ =>
    let s := tortes.foldl (fun s q => addAct s i.core ⟨q, p0, p0 + o.cycles, 1, false, 0, 0, some (locOf s i), false⟩) s
    okSig ((List.range o.cycles).foldl (fun r q => ewmCycle i o x bx by_ anchor p0 q r) (s, none)) i x
      (p0 + (o.cycles - 1) + transit s.build 0x03 + transit s.build 0x04)) s

/-! ### MERINGUE (R115, R116) -/

/-- R115: where a Meringue of `n` cycles begins on a Torte: at its placement, or with FOLLOW after the pass that broadcasts there. -/
def merStart (c : Core) (torte t : Nat) (follow : Bool) : Nat :=
  if !follow then t
  else match c.acts.find? (fun a => a.torte == torte && a.kind == 0 && a.start ≤ t && t < a.stop) with
    | some a => a.stop
    | none => t

/-- R115: the end of a Meringue: its count, the next pass on the Torte, or the pause at the guard window with cycles left. -/
def merAct (s : State) (core torte start n mdens : Nat) (loc : Option Loc) (ends : Bool) : Act :=
  let lim := s.beat.start + 4032
  let nxt := ((getCore s core).acts.filter (fun a => a.torte == torte && a.kind == 0 && start ≤ a.start)).foldl
    (fun m a => min m a.start) (start + n)
  if nxt > lim && nxt == start + n then ⟨torte, start, lim, 2, false, start + n - lim, mdens, loc, ends⟩
  else ⟨torte, start, nxt, 2, false, 0, mdens, loc, false⟩

/-- MERINGUE: dummy activity on Tortes; it writes nothing else. Its block, where it is the last instruction, ends with its activity on the last Torte it
names, after the guard window if that pauses there (R162). -/
def goMeringue (i : Iss) (o : MerOps) (s : State) : Host.Outcome State Fault Refusal :=
  issueGen i (.meringue i o) none false (fun s => s) (fun t s =>
    let ts := (List.range o.tortes).map (o.torte + ·)
    check s (formFault i .matrix (o.cycles == 0 || decide (4032 < o.cycles)) t) fun _ =>
    check s (if ts.all (fun q => q < s.build.ntorte && torteStat s i.core q ≤ 1) then none
      else some ⟨.modeUnavail, 0, t⟩) fun _ =>
    let l := locOf s i
    let as_ := ts.map (fun q => merAct s i.core q (merStart (getCore s i.core) q t o.follow) o.cycles o.mdens (some l)
      (i.fin && q + 1 == o.torte + o.tortes))
    let s := as_.foldl (fun s a => if a.start < a.stop then addAct s i.core a else s) s
    let pause := as_.any Act.ends
    let done := match as_.getLast? with | some a => if a.start < a.stop then a.stop - 1 else t | none => t
    .ok (if pause then modStrm s i.core i.strm (fun y => { y with blk := y.blk.map (fun b => { b with ended := true }) })
      else finishInstr s i false i.fin done) t) s

end Sys2Proof.Machine
end

