-- ==== Sys2Proof/Machine/Move.lean ====
section
/-!
DEFINITION. Move.lean: MVM, FILLC and COPYR (R139, R140, R142 to R144, R197). MVB stands with the Braid links.
-/

namespace Sys2Proof.Machine

/-- R144, R131: what GC-288 finds in Granule q of a flit that a core ejects in cycle w. -/
def flitErr (s : State) (core w q : Nat) : SymErr :=
  match s.flitErrs.find? (fun x => x.core == core && x.at_ == w && x.gran == q) with
  | some x => x.err
  | none => noErr

/-- R144, R131: the outcome of the check of a flit's Granules at ejection: a corrected Granule is recorded, one with two or three symbols in error is a
fault, and one with more is a free value. -/
def ejectFlit (s : State) (core a w : Nat) (bs : List Byte) : State × Option Flt × List Byte :=
  let ce := (List.range 2).foldl (fun s q =>
    if (flitErr s core w q).n == 1 then noteCore s ⟨.granuleCe, scratchDetail core (a + 32 * q) 0 0 7, w⟩ core else s) s
  match (List.range 2).find? (fun q => (flitErr s core w q).n == 2 || (flitErr s core w q).n == 3) with
  | some q => (ce, some ⟨.granuleUe, scratchDetail core (a + 32 * q) 0 0 7, w⟩, bs)
  | none => (ce, none, bs.zipIdx.map (fun (b, j) =>
      if (flitErr s core w (j / 32)).n ≥ 4 then Config.spadByte ((rowNo core a) * 4 + a % 128 / 32 + j / 32) (j % 32) else b))

/-- The flits of one source row (R29, R142): each is sent, checked at its ejection (R144) and written at its arrival unless the mesh dropped it. Its write
claim is moved by no hold and belongs to no timed stream of the destination. -/
def sendRow (i : Iss) (dst local_ t : Nat) (data : List Byte) : List Nat → State → State × Option Flt
  | [], s => (s, none)
  | f :: fs, s =>
    let w := flitArrive s.build i.core dst (t + f)
    let a := local_ + 64 * f
    if late s .move (t + f) then (s, some ⟨.segOverrun, 0, t + f⟩)
    else if late s .move w then (s, some ⟨.segOverrun, 0, w⟩)
    else
    let r := sendFlit s i.core dst (t + f) (.row (rowNo dst a) w (resStood s (rowNo dst a)))
    match r.2 with
    | some e => (r.1, some e)
    | none => match ejectFlit r.1 dst a w ((data.drop (64 * f)).take 64) with
      | (s1, some e, _) => (s1, some e)
      | (s1, none, bs) =>
        let (s2, f1) := writeRow s1 dst .control 7 a bs w
        let (s3, f2) := sendRow i dst local_ t data fs s2
        (s3, orFlt f1 f2)

/-- R142: the rows of an MVM in order: read, then pushed as two flits. -/
def moveRows (i : Iss) (exp : Option Nat) (src dst local_ t : Nat) : List Nat → State → State × Option Flt
  | [], s => (s, none)
  | r :: rs, s =>
    let tr := t + transit s.build 0x30 + 2 * r
    match doReads i.core i.strm exp (spanReads (src + 128 * r) 128 tr) s with
    | (s1, some f) => (s1, some f)
    | (s1, none) =>
      let data := rowData s1 (rowNo i.core (src + 128 * r)) tr
      let (s2, f1) := sendRow i dst (local_ + 128 * r) (tr + 1) data [0, 1] s1
      let (s3, f2) := moveRows i exp src dst local_ t rs s2
      (s3, orFlt f1 f2)

/-- The destination core and local address of an MVM (R169, R192); none is an access outside the partition. -/
def meshDest (s : State) (i : Iss) (a len : Nat) : Option (Nat × Nat) :=
  if a ≥ 2 ^ 29 || !localOk s.build (a % 2 ^ 23) len then none
  else match coreAt s (partOf s i.core) (a / 2 ^ 23) with
    | some c => some (c, a % 2 ^ 23)
    | none => none

/-- MVM (R142, R143). -/
def goMvm (i : Iss) (aSrc aDst rows : Nat) (x : Ext) (s : State) : Host.Outcome State Fault Refusal :=
  issue i (.mvm i aSrc aDst rows x) none (fun t s =>
    let a := aReg s i aSrc
    let d := aReg s i aDst
    let oop : Flt := ⟨.outOfPartition, scratchDetail ((coreAt s (partOf s i.core) (d / 2 ^ 23)).getD (d / 2 ^ 23 % 64)) (d % 2 ^ 23) 0 0 3, t⟩
    check s (formFault i .move (extBad x false true true) t) fun _ =>
    check s (localFault s i a (128 * rows) 128 t) fun _ =>
    match meshDest s i d (128 * rows) with
    | none => .bad s oop
    | some (dst, local_) =>
      check s (if local_ % 128 != 0 then some ⟨.align, scratchDetail dst local_ 0 0 3, t⟩ else none) fun _ =>
      check s (if (getStrm s i.core i.strm).shift != 0 then some ⟨.segOverrun, 0, t⟩ else none) fun _ =>
      thenR (moveRows i (expTag x 0) a dst local_ t (List.range rows) s) fun s1 =>
        let t0 := t + transit s.build 0x30 + 1 + 2 * rows
        match x.sig with
        | none => .ok s1 (flitArrive s.build i.core dst (t0 - 1))
        | some g =>
          let w := flitArrive s.build i.core dst t0
          check s1 (orFlt (lateFault s1 i.strm t0) (lateFault s1 i.strm w)) fun _ => resOf (sendSignal s1 i.core dst t0 g) w) s

/-- The writes of a FILLC issued in cycle t (R139). -/
def fillWrites (b : Build) (a rows t : Nat) (v : W32) : List Wr :=
  (List.range rows).map (fun j =>
    ⟨a + 128 * j, (List.replicate 32 (natLe 4 v.toNat)).flatten, t + transit b 0x20 + j / 32⟩)

/-- Table 8.7: the row counts that FILLC's field may hold. -/
def rowsBad (rows : Nat) : Bool := rows == 0 || decide (65536 < rows)

/-- FILLC (R139). -/
def goFillc (i : Iss) (aDst rows : Nat) (v : W32) (s : State) : Host.Outcome State Fault Refusal :=
  issue i (.fillc i aDst rows v) none (fun t s =>
    let a := aReg s i aDst
    check s (formFault i .move (rowsBad rows) t) fun _ =>
    check s (localFault s i a (128 * rows) 128 t) fun _ =>
    resOf (doWrites i.core i.strm (fillWrites s.build a rows t v) s) (t + transit s.build 0x20 + (rows - 1) / 32)) s

/-- The rows that a COPYR of `n` rows moves in its cycle q, 32 to a cycle. -/
def copyCycle (n q : Nat) : List Nat := (List.range (min n (32 * q + 32) - 32 * q)).map (32 * q + ·)

/-- The row reads of cycle q of a COPYR issued in cycle t. -/
def copyReads (b : Build) (a t n q : Nat) : List RdReq :=
  (copyCycle n q).flatMap (fun j => spanReads (a + 128 * j) 128 (t + transit b 0x21 + q))

/-- The writes of the rows that cycle q of a COPYR has read. -/
def copyWrites (s : State) (core a d t n q : Nat) : List Wr :=
  (copyCycle n q).map (fun j => ⟨d + 128 * j, rowData s (rowNo core (a + 128 * j)) (t + transit s.build 0x21 + q),
    t + transit s.build 0x21 + q + transit s.build 0x22⟩)

/-- The cycles of a COPYR in order (R140, R436): the rows of a cycle are read, and written SP_CP later; a fault of one delivers none of its cycle. -/
def copyRows (i : Iss) (exp : Option Nat) (a d t n : Nat) : List Nat → State → State × Option Flt
  | [], s => (s, none)
  | q :: qs, s =>
    match doReads i.core i.strm exp (copyReads s.build a t n q) s with
    | (s1, some f) => (s1, some f)
    | (s1, none) =>
      let (s2, f1) := doWrites i.core i.strm (copyWrites s1 i.core a d t n q) s1
      let (s3, f2) := copyRows i exp a d t n qs s2
      (s3, orFlt f1 f2)

/-- COPYR (R140). -/
def goCopyr (i : Iss) (aSrc aDst rows : Nat) (x : Ext) (s : State) : Host.Outcome State Fault Refusal :=
  issue i (.copyr i aSrc aDst rows x) none (fun t s =>
    let a := aReg s i aSrc
    let d := aReg s i aDst
    check s (formFault i .move (extBad x false false true) t) fun _ =>
    check s (localFault s i a (128 * rows) 128 t) fun _ =>
    check s (localFault s i d (128 * rows) 128 t) fun _ =>
    check s (if a < d + 128 * rows && d < a + 128 * rows then
        some ⟨.copyOverlap, scratchDetail i.core d 0 0 3, t⟩ else none) fun _ =>
    let done := t + transit s.build 0x21 + transit s.build 0x22 + (rows - 1) / 32
    okSig (copyRows i (expTag x 0) a d t rows (List.range ((rows + 31) / 32)) s) i x done) s

end Sys2Proof.Machine
end

