-- ==== Sys2Proof/Machine/Strudel.lean ====
section
/-!
DEFINITION. Strudel.lean: MVX and SDRAIN (R118 to R127, R205, R206).
-/

namespace Sys2Proof.Machine

/-- Bytes of one Grain of a format (R122). -/
def grainBytes (fmt : Nat) : Nat := 4 * fmtBits fmt

/-- R122: the address of Strip (rb, g) of weights of a format. -/
def stripAddr (base fmt ng rb g : Nat) : Nat := base + (rb * ng + g) * 32 * grainBytes fmt

/-- Grain g of a weight row as a lane's weight register takes it (R73, R118, R122): what the descriptor names is read by `rq`, the elements of the
Strip by `rd`; K positions beyond the depth are zero. -/
def laneGrain (d : QDesc) (rq rd : Nat → Nat → List Byte) (base ng k row g : Nat) : LaneW :=
  let cb := d.codebook rq
  let z := d.zero rq row
  let data := leNat (rd (stripAddr base d.fmt ng (row / 32) g + row % 32 * grainBytes d.fmt) (grainBytes d.fmt))
  { fmt := d.fmt, wide := fmtWide d.fmt,
    els := (List.range 32).map (fun j => if 32 * g + j ≥ k then .fin z (fmtWeight d.fmt) else decElem d.fmt cb (elemAt d.fmt data j)),
    z := z, zp := d.zpmode != 0, scale := d.scale rq row (32 * g) }

/-- The zero weights of a lane whose row lies beyond the weight rows (R120). That they meet scale 1 and zero point 0 is the model's choice (log 69). -/
def zeroLane (d : QDesc) : LaneW :=
  ⟨d.fmt, fmtWide d.fmt, List.replicate 32 (.fin 0 (fmtWeight d.fmt)), 0, d.zpmode != 0, .fin 1 0⟩

/-- The weight register of a lane as Grain g meets an activation. -/
def laneRow (w : LaneW) (g : Nat) : OpRow :=
  { wide := w.wide, fmt := w.fmt, z := w.z, zp := w.zp, els := List.replicate (32 * g) (.fin w.z (fmtWeight w.fmt)) ++ w.els,
    scales := List.replicate g (.fin 1 0) ++ [w.scale], outs := [] }

/-- A lane with nothing loaded. -/
def noLane : LaneW := ⟨0, false, [], 0, false, .fin 1 0⟩

/-- What the feeds of an MVX share. -/
structure MvxCtx where
  i      : Iss
  o      : MvxOps
  x      : Ext
  dw     : QDesc
  dx     : QDesc
  wb     : Nat
  xb     : Nat
  ng     : Nat
  c      : Nat
  t      : Nat
  anchor : Int
deriving DecidableEq, Repr

/-- The feeds of an MVX in order (R120): row block, Grain, vector. -/
def feeds (ng nrb nb : Nat) : List (Nat × Nat × Nat) :=
  (List.range nrb).flatMap (fun rb => (List.range ng).flatMap (fun g => (List.range nb).map (fun v => (rb, g, v))))

/-- The weight registers that the Strip of row block rb and Grain g loads in cycle tr (R120, R122). What the descriptor names is as it stood at the
issue (log 59). -/
def loadLanes (s : State) (m : MvxCtx) (rb g tr : Nat) : List LaneW :=
  (List.range 32).map (fun l =>
    if 32 * rb + l < m.o.nr then
      laneGrain m.dw (reader s m.i.core m.t) (reader s m.i.core tr) m.wb m.ng m.o.k (32 * rb + l) g
    else zeroLane m.dw)

/-- R119, R100: the terms that lane l forms of Grain g of vector v, read in cycle tr, with the weights that stand in its register. -/
def laneTerms (s : State) (m : MvxCtx) (g v tr l : Nat) : List Term :=
  let act := loadGrains m.dx (reader s m.i.core m.t) (reader s m.i.core tr) m.xb (32 * m.o.xstride) v m.o.k g (g + 1)
  pairTerms (laneRow ((getCore s m.i.core).lanes.getD l noLane) g) act g (g + 1) m.o.k

/-- One feed (R119, R123): the first of a Grain loads the weight registers, and the activation Grain adds one term a lane to its entry. -/
def feed (m : MvxCtx) (r : State × Option Flt) (q : (Nat × Nat × Nat) × Nat) : State × Option Flt :=
  if r.2.isSome then r
  else
    let ((rb, g, v), ix) := q
    let t := m.c * ix
    let s := r.1
    let tr := m.t + transit s.build 0x10 + t
    let strip := if v == 0 then spanReads (stripAddr m.wb m.dw.fmt m.ng rb g) (32 * grainBytes m.dw.fmt) tr else []
    let xa := m.xb + v * (32 * m.o.xstride) + g * grainBytes m.dx.fmt
    match doReadsBy m.i.core m.i.strm (sortReads (expecting (expTag m.x 0) strip
        ++ expecting (expTag m.x 1) (spanReads xa (grainBytes m.dx.fmt) tr))) s with
    | (s, some f) => (s, some f)
    | (s, none) =>
      let s := if v == 0 then modCore s m.i.core (fun c => { c with lanes := loadLanes s m rb g tr }) else s
      let w := m.t + transit s.build 0x11 + t + (m.c - 1) + transit s.build 0x12 + transit s.build 0x13
      let n := termCount (fmtWide m.dw.fmt || fmtWide m.dx.fmt) (m.dw.zpmode != 0 || m.dx.zpmode != 0) [] g (g + 1) m.o.k
      passWrite s m.i.core m.i.strm lanesBank (m.o.e0 + rb * m.o.nb + v) w
        (if m.o.clear && g == 0 then some m.anchor else none) n ((List.range 32).map (laneTerms s m g v tr))

/-- R53, R56, R108: the faults of the entries an MVX names. -/
def laneFault (s : State) (core : Nat) (clear : Bool) (anchor : Int) (n t e0 ne : Nat) : Option Flt :=
  let es := (List.range ne).map (fun e => entNow (getEntry s core lanesBank (e0 + e)))
  if !clear && es.any (fun v => !v.live) then some ⟨.accStale, 0, t⟩
  else if !clear && es.any (fun v => v.anchor != anchor) then some ⟨.anchorMismatch, 0, t⟩
  else if es.any (fun v => (if clear then 0 else v.terms) + n > termLimit) then some ⟨.accTerms, 0, t⟩
  else none

/-- MVX (R120 to R125). The order in which its faults at issue are looked for is the model's (log 43), and so is the ALIGN of a weight base that is no
row address, which R122 requires and no list of ALIGN names (log 22). -/
def goMvx (i : Iss) (o : MvxOps) (x : Ext) (s : State) : Host.Outcome State Fault Refusal :=
  issue i (.mvx i o x) x.cond (fun t s =>
    let nrb := (o.nr + 31) / 32
    let ng := (o.k + 31) / 32
    let wb := aReg s i o.aW
    let xb := aReg s i o.aX
    check s (formFault i .strudel (extBad x true false true) t) fun _ =>
    check s (if 1 ≤ o.k && o.k ≤ 65536 && 1 ≤ o.nr && o.nr ≤ 2048 && 1 ≤ o.nb && o.nb ≤ 8 && o.e0 + nrb * o.nb ≤ 64 then none
      else some ⟨.tileFit, 0, t⟩) fun _ =>
    check s (if (getCore s i.core).sout then some ⟨.modeUnavail, 0, t⟩ else none) fun _ =>
    check s (orFlt (localFault s i wb 128 128 t) (localFault s i xb 32 32 t)) fun _ =>
    let rw := openDesc i (fun d => !d.outl) (expTag x 2) (aReg s i o.aDW) 0 o.nr 0 o.k o.k t s
    thenR rw.1 fun s =>
    let rx := openDesc i (fun d => !d.outl) (expTag x 3) (aReg s i o.aDX) 0 o.nb 0 o.k o.k t s
    thenR rx.1 fun s =>
    check s (orFlt (localFault s i wb (nrb * ng * 32 * grainBytes rw.2.fmt) 128 t)
      (localFault s i xb ((o.nb - 1) * (32 * o.xstride) + ng * grainBytes rx.2.fmt) 32 t)) fun _ =>
    let rec_ := aReg s i o.aRec
    thenR (openRec s i o.carried rec_ t) fun s =>
    let anchor := passAnchor s i o.carried o.anchor rec_ t
    let wide := fmtWide rw.2.fmt || fmtWide rx.2.fmt
    let c := if wide then 4 else 1
    let n := termCount wide (rw.2.zpmode != 0 || rx.2.zpmode != 0) [] 0 ng o.k
    check s (laneFault s i.core o.clear anchor n t o.e0 (nrb * o.nb)) fun _ =>
    let f0 := t + transit s.build 0x11
    check s (if (match (getCore s i.core).svLast with | some l => decide (f0 ≤ l) | none => false) then
      some ⟨.laneBusy, 0, t⟩ else none) fun _ =>
    let fs := feeds ng nrb o.nb
    let m : MvxCtx := ⟨i, o, x, rw.2, rx.2, wb, xb, ng, c, t, anchor⟩
    let s := modCore s i.core (fun y => { y with svLast := some (f0 + fs.length * c - 1) })
    resOf (fs.zipIdx.foldl (feed m) (s, none))
      (f0 + (fs.length - 1) * c + (c - 1) + transit s.build 0x12 + transit s.build 0x13)) s

/-- Bytes from an SDRAIN's output base to the end of what it writes (R206). -/
def sdrainLen (o : SdrainOps) : Nat :=
  let size := fmtBits o.ofmt / 8
  (List.range (o.e1 + 1 - o.e0)).foldl (fun m j => max m (j % o.nb * (32 * o.opitch) + (32 * (j / o.nb) + 32) * size)) 0

/-- SDRAIN (R126, R206). All 32 lanes of an entry index are read, counted and written, those too whose weight row lies beyond NR, which SDRAIN does
not name (DESIGN CHOICE, log 69). A carried one reads and writes its anchor record in its last write cycle (log 61). -/
def goSdrain (i : Iss) (o : SdrainOps) (x : Ext) (s : State) : Host.Outcome State Fault Refusal :=
  issue i (.sdrain i o x) x.cond (fun t s =>
    let es := (List.range (o.e1 + 1 - o.e0)).map (o.e0 + ·)
    let out := aReg s i o.aOut
    let rec_ := aReg s i o.aRec
    check s (formFault i .strudel (extBad x true true false) t) fun _ =>
    check s (localFault s i out 32 32 t) fun _ =>
    check s (if fmtDrain o.ofmt then none else some ⟨.formatRole, 0, t⟩) fun _ =>
    check s (if o.e0 ≤ o.e1 && o.e1 < 64 then none else some ⟨.tileFit, 0, t⟩) fun _ =>
    check s (localFault s i out (sdrainLen o) 32 t) fun _ =>
    check s (if es.any (fun e => !liveAt s i.core lanesBank e t) then some ⟨.accStale, 0, t⟩ else none) fun _ =>
    thenR (openRec s i o.carried rec_ t) fun s =>
    let (tid, base, nt) := stochRegs s i o.pIdx
    let key := sdAt (getCore s i.core) o.seed t
    let size := fmtBits o.ofmt / 8
    let dr := transit s.build 0x14
    let armed := es.foldl (fun r e => armRead i.core lanesBank e t (t + (e - o.e0)) r) (s, none)
    let a := es.foldl (fun (acc : (State × Option Flt) × DrainAcc) e =>
      let j := e - o.e0
      let rb := j / o.nb
      let v := j % o.nb
      drainOne i lanesBank e 32 o.ofmt o.oexp.toInt
        (fun l => drawRnd o.stoch key tid (base + v * nt + 32 * rb + l) 0) o.clear
        (out + v * (32 * o.opitch) + 32 * rb * size) (t + j) (t + j + dr) acc) (armed, ⟨[], false⟩)
    let done := t + (o.e1 - o.e0) + dr
    thenR (updateRec i o.carried o.close rec_ done a.2 a.1) fun s =>
    thenR (endCheck s (locOf s i) done) fun s =>
    .ok (signalAt s i x.sig done) done) s

end Sys2Proof.Machine
end

