-- ==== Sys2Proof/Machine/Transc.lean ====
section
/-!
DEFINITION. Transc.lean: the reference functions of VEXP2, VLOG2, VRSQRT, VRECIP, VTANH and VSIG (R213, R214, Table 8.13), with
the constant tables of R214 computed from their closed forms at high precision.
-/

namespace Sys2Proof.Machine

/-- Part 0 of T[j] = round(2^(j/64) × 2^62), j = 0 to 63. -/
def tabT0 : List Nat :=
  [4611686018427387904, 4661903986662671290, 4712668792719003884, 4763986391269842979,
   4815862801830788490, 4868304109465667592, 4921316465500308116, 4974906088244084429,
   5029079263719320435, 5083842346398635251, 5139201759950318048, 5195163997991819502,
   5251735624851448219, 5308923276338361494, 5366733660520940721, 5425173558513642752]

/-- Part 1 of T[j] = round(2^(j/64) × 2^62), j = 0 to 63. -/
def tabT1 : List Nat :=
  [5484249825272419512, 5543969390398799154, 5604339258952723100, 5665366512274234280,
   5727058308814112983, 5789421884973557729, 5852464555953009676, 5916193716610220111,
   5980616842327661685, 6045741489889385141, 6111575298367424380, 6178125990017853852,
   6245401371186603363, 6313409333225136570, 6382157853416100552, 6451654995909055045]

/-- Part 2 of T[j] = round(2^(j/64) × 2^62), j = 0 to 63. -/
def tabT2 : List Nat :=
  [6521908912666391106, 6592927844419550153, 6664720121635655541, 6737294165494670078,
   6810658488877194079, 6884821697363019841, 6959792490240559659, 7035579661527265796,
   7112192101001162095, 7189638795243608238, 7267928828693418961, 7347071384712461870,
   7427075746662858866, 7507951298995917514, 7589707528352920109, 7672354024677899536]

/-- Part 3 of T[j] = round(2^(j/64) × 2^62), j = 0 to 63. -/
def tabT3 : List Nat :=
  [7755900482342532474, 7840356701283281883, 7925732588150922155, 8012038157472581778,
   8099283532826439817, 8187478948029213993, 8276634748336579668, 8366761391656660532,
   8457869449776733335, 8549969609603290562, 8643072674415606502, 8737189565132953757,
   8832331321595618838, 8928509103859867100, 9025734193507008925, 9124017994966720698]

/-- R214: T[j] = round(2^(j/64) × 2^62), j = 0 to 63. -/
def tabT : List Nat := tabT0 ++ tabT1 ++ tabT2 ++ tabT3

/-- R214: C[n], n = 1 to 5. -/
def tabC : List Int := [3196577161300663915, 1107849223398934356, 255967521894832113, 44355791529079737, 6149018367977265]

/-- R214: K[n], n = 1 to 5. -/
def tabK : List Int := [6653256548922161246, (-3326628274461080623), 2217752182974053749, (-1663314137230540311), 1330651309784432249]

/-- Part 0 of LL[j] for j = 48 to 96, entry 0 being j = 48. -/
def tabLL0 : List Int :=
  [(-29906603627500635), (-27763081640690879), (-25662866098602899), (-23604241720414522),
   (-21585593178563674), (-19605397436781870), (-17662216861214498), (-15754692997881630),
   (-13881540828854801), (-12041543517488157), (-10233547806331795), (-8456459499427907),
   (-6709239661241861), (-4990900816417907), (-3300503668556252), (-1637154047440910)]

/-- Part 1 of LL[j] for j = 48 to 96, entry 0 being j = 48. -/
def tabLL1 : List Int :=
  [0, 1611770792233426, 3198933427377205, 4762228044199264,
   6302361906707919, 7820011244413249, 9315823152531727, 10790417148643011,
   12244386758722260, 13678301003717805, 15092705591881327, 16488124315228147,
   17865060116063580, 19223996253631189, 20565397225812525, 21889709813934139]

/-- Part 2 of LL[j] for j = 48 to 96, entry 0 being j = 48. -/
def tabLL2 : List Int :=
  [23197363964745998, 24488773532950468, 25764337192435271, 27024439103936058,
   28269449586110826, 29499725871075724, 30715612643975156, 31917442598044405,
   33105537060928941, 34280206450949507, 35441750743134339, 36590460039586113,
   37726614895361902, 38850486724095938, 39962338317776457, 41062424086860680]

/-- Part 3 of LL[j] for j = 48 to 96, entry 0 being j = 48. -/
def tabLL3 : List Int :=
  [42150990392273996]

/-- R214: LL[j] for j = 48 to 96, entry 0 being j = 48. -/
def tabLL : List Int := tabLL0 ++ tabLL1 ++ tabLL2 ++ tabLL3

/-- R214: LOG2E. -/
def log2E : Nat := 6653256548922161246

/-- Nearest integer to n / d for positive d; no constant of R214 falls on a tie. -/
def nearest (n d : Nat) : Nat := (2 * n + d) / (2 * d)

/-- R214: RL[j] = round(2^38 / j). -/
def tabRL (j : Nat) : Nat := nearest (2 ^ 38) j
/-- R214: RR[j] = round(2^40 / (257 + 2j)). -/
def tabRR (j : Nat) : Nat := nearest (2 ^ 40) (257 + 2 * j)

/-- Halving search for the integer square root: the largest r with r × r ≤ n, given bits still to decide. -/
def isqrt (n : Nat) : Nat → Nat → Nat
  | 0, r => r
  | b + 1, r => let r' := r + 2 ^ b
                isqrt n b (if r' * r' ≤ n then r' else r)

/-- R214: RS[j] = round(2^32 / √((j + 16.5) / 16)) = round(√(2^69 / (2j + 33))). -/
def tabRS (j : Nat) : Nat := (isqrt (2 ^ 71 / (2 * j + 33)) 35 0 + 1) / 2

/-- The Horner step of R214: c + ((y × h) >> 56). -/
def horner (cs : List Int) (y : Int) : Int :=
  cs.foldr (fun c h => c + y * h / 2 ^ 56) 0

/-- exp2k of R214: 2^(z / 2^56) = m × 2^(i − 62). -/
def exp2k (z : Int) : Nat × Int :=
  let i := z / 2 ^ 56
  let f := (z % 2 ^ 56).toNat
  let j := f / 2 ^ 50
  let y : Int := (f % 2 ^ 50 : Nat)
  let q := (y * horner tabC y / 2 ^ 56).toNat
  let t := tabT.getD j 0
  let m := t + t * q / 2 ^ 62
  if m ≥ 2 ^ 63 then (m / 2, i + 1) else (m, i)

/-- q × 2^f rounded to a multiple of 2^-56, to nearest even, in units of 2^-56. -/
def toFix56 (q f : Int) : Int :=
  let (n, d) := ratShift q 1 f
  roundGrid .rne n d (-56)

/-- A finite nonzero FP32 value as u × 2^(e − 23) with u from 2^23 to 2^24 − 1 (R214). -/
def norm32 (q f : Int) : Nat × Int :=
  let l := Nat.log2 q.natAbs
  (q.natAbs * 2 ^ (23 - l), f + (l : Int))

/-- Compare q × 2^f with an integer: true when below it. -/
def ltInt (q f : Int) (v : Int) : Bool :=
  let (n, d) := ratShift q 1 f
  decide (n < v * d)

/-- VEXP2 on an FP32 code. -/
def vexp2 (x : Nat) : Nat :=
  match decFP fp32 x with
  | .nan => qnan
  | .inf neg => if neg then 0 else inf32 false
  | .fin q f =>
    if !ltInt q f 128 then inf32 false
    else if ltInt q f (-150) then 0
    else let (m, i) := exp2k (toFix56 q f)
         rneDy false m (i - 62)

/-- VLOG2 on an FP32 code. -/
def vlog2 (x : Nat) : Nat :=
  match decFP fp32 x with
  | .nan => qnan
  | .inf neg => if neg then qnan else inf32 false
  | .fin q f =>
    if q == 0 then inf32 true
    else if q < 0 then qnan
    else
      let (u, e0) := norm32 q f
      let (m, e) := if u ≥ 0xC00000 then (u, e0 + 1) else (2 * u, e0)
      let j := (m + 2 ^ 17) / 2 ^ 18
      let r : Int := ((m * tabRL j : Nat) : Int) - 2 ^ 56
      let p := r * horner tabK r / 2 ^ 62
      rneDy false (e * 2 ^ 56 + tabLL.getD (j - 48) 0 + p) (-56)

/-- One Newton step of VRECIP. -/
def recipStep (u y : Nat) : Nat := y * (2 ^ 33 - u * y / 2 ^ 23) / 2 ^ 32
/-- One Newton step of VRSQRT. -/
def rsqrtStep (w y : Nat) : Nat := y * (3 * 2 ^ 32 - w * (y * y / 2 ^ 32) / 2 ^ 23) / 2 ^ 33

/-- VRECIP on an FP32 code. -/
def vrecip (x : Nat) : Nat :=
  match decFP fp32 x with
  | .nan => qnan
  | .inf neg => zero32 neg
  | .fin q f =>
    if q == 0 then inf32 (neg32 x)
    else
      let (u, e) := norm32 q f
      let y := recipStep u (recipStep u (tabRR (u / 2 ^ 16 - 128)))
      rneDy false (if q < 0 then -(y : Int) else y) (-32 - e)

/-- VRSQRT on an FP32 code. -/
def vrsqrt (x : Nat) : Nat :=
  match decFP fp32 x with
  | .nan => qnan
  | .inf neg => if neg then qnan else 0
  | .fin q f =>
    if q == 0 then inf32 (neg32 x)
    else if q < 0 then qnan
    else
      let (u, e0) := norm32 q f
      let (w, e) := if e0 % 2 == 1 then (2 * u, e0 - 1) else (u, e0)
      let y := rsqrtStep w (rsqrtStep w (tabRS (w / 2 ^ 19 - 16)))
      rneDy false y (-32 - e / 2)

/-- 1 / (1 + p) or p / (1 + p) for p = m × 2^i, rounded once. -/
def sigRatio (pTop : Bool) (m : Nat) (i : Int) : Nat :=
  let (n, d) := ratShift m 1 i
  if pTop then rne32 false n (d + n.toNat) else rne32 false d (d + n.toNat)

/-- VSIG on an FP32 code. -/
def vsig (x : Nat) : Nat :=
  match decFP fp32 x with
  | .nan => qnan
  | .inf neg => if neg then 0 else 0x3F800000
  | .fin q f =>
    if !ltInt q f 18 then 0x3F800000
    else if ltInt q f (-104) || !ltInt (-q) f 104 then 0
    else
      let a := toFix56 q.natAbs f
      let w := a * log2E / 2 ^ 62
      let (m, i) := exp2k (-w)
      sigRatio (decide (q < 0)) m (i - 62)

/-- VTANH on an FP32 code. -/
def vtanh (x : Nat) : Nat :=
  match decFP fp32 x with
  | .nan => qnan
  | .inf neg => if neg then 0xBF800000 else 0x3F800000
  | .fin q f =>
    if ltInt (q.natAbs : Int) (f + 12) 1 then x
    else if !ltInt (q.natAbs : Int) f 10 then (if neg32 x then 0xBF800000 else 0x3F800000)
    else
      let a := toFix56 q.natAbs f
      let w := 2 * a * log2E / 2 ^ 62
      let (m, i) := exp2k w
      let (n, d) := ratShift m 1 (i - 62)
      rne32 false (if q < 0 then -(n - d) else n - d) (n + d).toNat

end Sys2Proof.Machine
end

