-- ==== Sys2Proof/Machine/Glaze.lean ====
section
/-!
DEFINITION. Glaze.lean: the Glaze instructions but XOP: VADD VMUL VFMA VMAX, VSUMX, VQUANT, VDEQ and the transcendentals (R63 to R66,
R80 to R87, R207 to R215). XOP stands with the slots.
-/

namespace Sys2Proof.Machine

/-! ### Element-wise instructions (R207 to R209) -/

/-- R208: the bytes of a destination, its last Granule filled with zeros. -/
def padGranule (bs : List Byte) : List Byte := bs ++ List.replicate ((32 - bs.length % 32) % 32) 0

/-- Bytes of `n` elements, whole Granules (R130). -/
def granSpan (fmt n : Nat) : Nat := (spanBytes fmt n + 31) / 32 * 32

/-- `n` element codes from the bytes of a span. -/
def elemCodes (fmt n : Nat) (bs : List Byte) : List Nat := (List.range n).map (elemAt fmt (leNat bs))

/-- Reads of the sources of one group of elements in cycle t, in ascending address (R436). -/
def gzReads (x : Ext) (off len t : Nat) (srcs : List (Nat × Nat)) : List (Option Nat × RdReq) :=
  sortReads (srcs.flatMap (fun a => expecting (expTag x a.2) (spanReads (a.1 + off) len t)))

/-- R208: the 64 elements of cycle j: read, computed, written `lat` cycles later. -/
def gzChunk (i : Iss) (o : GzOps) (x : Ext) (t0 lat dst : Nat) (srcs : List (Nat × Nat)) (fn : List Nat → Nat)
    (r : State × Option Flt) (j : Nat) : State × Option Flt :=
  if r.2.isSome then r
  else
    let m := min 64 (o.n - 64 * j)
    let off := 64 * j * (fmtBits o.sfmt / 8)
    match doReadsBy i.core i.strm (gzReads x off (granSpan o.sfmt m) (t0 + j) srcs) r.1 with
    | (s, some f) => (s, some f)
    | (s, none) =>
      let vs := srcs.map (fun a =>
        (elemCodes o.sfmt m (readSpan s i.core (a.1 + off) (spanBytes o.sfmt m) (t0 + j))).map (toFP32 o.sfmt))
      let res := (List.range m).map (fun e => fromFP32 o.dfmt (fn (vs.map (fun v => v.getD e 0))))
      writeBytes s i.core i.strm (dst + 64 * j * (fmtBits o.dfmt / 8)) (padGranule (codeBytes o.dfmt res)) (t0 + j + lat)

/-- The address checks of a Glaze instruction: sources, then destination. -/
def gzAddrs (s : State) (i : Iss) (o : GzOps) (srcs : List (Nat × Nat)) (dst t : Nat) : Option Flt :=
  orFlt (srcs.foldl (fun f a => orFlt f (localFault s i a.1 (granSpan o.sfmt o.n) 32 t)) none)
    (localFault s i dst (granSpan o.dfmt o.n) 32 t)

/-- R207, R188: a source field that the instruction does not use is not zero. -/
def gzUnused (o : GzOps) (nsrc : Nat) : Bool := (nsrc < 3 && o.a3 != 0) || (nsrc < 2 && o.a2 != 0)

/-- The body of an element-wise instruction of `nsrc` sources, Transit Table entry `id` and function `fn`. -/
def gzBody (i : Iss) (o : GzOps) (x : Ext) (nsrc id : Nat) (fn : List Nat → Nat) (t : Nat) (s : State) : Res :=
  let srcs := ([aReg s i o.a1, aReg s i o.a2, aReg s i o.a3].take nsrc).zipIdx
  let dst := aReg s i o.aDst
  let t0 := t + transit s.build 0x40
  let lat := transit s.build id
  let done := t0 + (o.n - 1) / 64 + lat
  check s (formFault i .glaze (gzUnused o nsrc) t) fun _ =>
  check s (if fmtGlaze o.sfmt && fmtGlaze o.dfmt then none else some ⟨.formatRole, 0, t⟩) fun _ =>
  check s (gzAddrs s i o srcs dst t) fun _ =>
  okSig ((List.range ((o.n + 63) / 64)).foldl (gzChunk i o x t0 lat dst srcs fn) (s, none)) i x done

/-- A function of the first source. -/
def fn1 (f : Nat → Nat) (v : List Nat) : Nat := f (v.getD 0 0)
/-- A function of the first two sources. -/
def fn2 (f : Nat → Nat → Nat) (v : List Nat) : Nat := f (v.getD 0 0) (v.getD 1 0)
/-- A function of the three sources. -/
def fn3 (f : Nat → Nat → Nat → Nat) (v : List Nat) : Nat := f (v.getD 0 0) (v.getD 1 0) (v.getD 2 0)

/-- VADD (R64). -/
def goVadd (i : Iss) (o : GzOps) (x : Ext) (s : State) : Host.Outcome State Fault Refusal :=
  issue i (.vadd i o x) x.cond (gzBody i o x 2 0x41 (fn2 vadd32)) s
/-- VMUL (R64). -/
def goVmul (i : Iss) (o : GzOps) (x : Ext) (s : State) : Host.Outcome State Fault Refusal :=
  issue i (.vmul i o x) x.cond (gzBody i o x 2 0x41 (fn2 vmul32)) s
/-- VFMA (R64, R207): source 1 × source 2 + source 3. -/
def goVfma (i : Iss) (o : GzOps) (x : Ext) (s : State) : Host.Outcome State Fault Refusal :=
  issue i (.vfma i o x) x.cond (gzBody i o x 3 0x42 (fn3 vfma32)) s
/-- VMAX (R64). -/
def goVmax (i : Iss) (o : GzOps) (x : Ext) (s : State) : Host.Outcome State Fault Refusal :=
  issue i (.vmax i o x) x.cond (gzBody i o x 2 0x43 (fn2 vmax32)) s
/-- VEXP2 (R213, R214). -/
def goVexp2 (i : Iss) (o : GzOps) (x : Ext) (s : State) : Host.Outcome State Fault Refusal :=
  issue i (.vexp2 i o x) x.cond (gzBody i o x 1 0x49 (fn1 vexp2)) s
/-- VLOG2 (R213, R214). -/
def goVlog2 (i : Iss) (o : GzOps) (x : Ext) (s : State) : Host.Outcome State Fault Refusal :=
  issue i (.vlog2 i o x) x.cond (gzBody i o x 1 0x4A (fn1 vlog2)) s
/-- VRSQRT (R213, R214). -/
def goVrsqrt (i : Iss) (o : GzOps) (x : Ext) (s : State) : Host.Outcome State Fault Refusal :=
  issue i (.vrsqrt i o x) x.cond (gzBody i o x 1 0x4B (fn1 vrsqrt)) s
/-- VRECIP (R213, R214). -/
def goVrecip (i : Iss) (o : GzOps) (x : Ext) (s : State) : Host.Outcome State Fault Refusal :=
  issue i (.vrecip i o x) x.cond (gzBody i o x 1 0x4B (fn1 vrecip)) s
/-- VTANH (R213, R214). -/
def goVtanh (i : Iss) (o : GzOps) (x : Ext) (s : State) : Host.Outcome State Fault Refusal :=
  issue i (.vtanh i o x) x.cond (gzBody i o x 1 0x4D (fn1 vtanh)) s
/-- VSIG (R213, R214). -/
def goVsig (i : Iss) (o : GzOps) (x : Ext) (s : State) : Host.Outcome State Fault Refusal :=
  issue i (.vsig i o x) x.cond (gzBody i o x 1 0x4C (fn1 vsig)) s

/-! ### VSUMX (R65, R66, R210) -/

/-- A wide-sum register. -/
def getWs (s : State) (core n : Nat) : WSum := smGet zeroWs (getCore s core).ws n
/-- Replace a wide-sum register. -/
def putWs (s : State) (core n : Nat) (w : WSum) : State := modCore s core (fun c => { c with ws := smSet zeroWs c.ws n w })

/-- R65: the most terms of a wide-sum register. -/
def wsLimit : Nat := 2 ^ 42

/-- R210: a READ, SAVE or MERGE before the last update of an earlier VSUMX on the register. -/
def wsRace (s : State) (i : Iss) (o : VsOps) (t : Nat) : Option Flt :=
  if t < (getWs s i.core o.ws).upd then some ⟨.wsRace, 0, t⟩ else none

/-- The reads of an ADD's source, 64 elements a cycle, with their values added in order. -/
def vsChunk (i : Iss) (o : VsOps) (x : Ext) (t0 a : Nat) (r : (State × Option Flt) × WSum) (j : Nat) :
    (State × Option Flt) × WSum :=
  if r.1.2.isSome then r
  else
    let m := min 64 (o.n - 64 * j)
    let off := a + 64 * j * (fmtBits o.sfmt / 8)
    match doReads i.core i.strm (expTag x 0) (spanReads off (granSpan o.sfmt m) (t0 + j)) r.1.1 with
    | (s, some f) => ((s, some f), r.2)
    | (s, none) =>
      ((s, none), ((elemCodes o.sfmt m (readSpan s i.core off (spanBytes o.sfmt m) (t0 + j))).map (toFP32 o.sfmt)).foldl wsAdd r.2)

/-- VSUMX ADD. WS_TERMS is raised before the instruction issues. -/
def goVsumxAdd (i : Iss) (o : VsOps) (x : Ext) (s : State) : Host.Outcome State Fault Refusal :=
  issue i (.vsumxAdd i o x) x.cond (fun t s =>
    let a := aReg s i o.aSrc
    let w := if o.clear then zeroWs else getWs s i.core o.ws
    let t0 := t + transit s.build 0x40
    let done := t0 + (o.n - 1) / 64 + transit s.build 0x46
    check s (formFault i .glaze false t) fun _ =>
    check s (if fmtGlaze o.sfmt then none else some ⟨.formatRole, 0, t⟩) fun _ =>
    check s (localFault s i a (granSpan o.sfmt o.n) 32 t) fun _ =>
    check s (if w.terms + o.n > wsLimit then some ⟨.wsTerms, 0, t⟩ else none) fun _ =>
    let r := (List.range ((o.n + 63) / 64)).foldl (vsChunk i o x t0 a) ((s, none), w)
    thenR r.1 fun s =>
    check s (lateFault s i.strm done) fun _ => .ok (signalAt (putWs s i.core o.ws { r.2 with upd := done }) i x.sig done) done) s

/-- R188, R210: outside ADD the field N − 1 is zero. VSUMX READ: one FP32 element, its Granule written whole (R208). -/
def goVsumxRead (i : Iss) (o : VsOps) (x : Ext) (s : State) : Host.Outcome State Fault Refusal :=
  issue i (.vsumxRead i o x) x.cond (fun t s =>
    let a := aReg s i o.aDst
    let w := getWs s i.core o.ws
    let done := t + transit s.build 0x47
    check s (formFault i .glaze (o.n != 1) t) fun _ =>
    check s (if o.dfmt == 12 then none else some ⟨.formatRole, 0, t⟩) fun _ =>
    check s (localFault s i a 32 32 t) fun _ =>
    check s (wsRace s i o t) fun _ =>
    let s1 := if o.clear then putWs s i.core o.ws zeroWs else s
    okSig (writeBytes s1 i.core i.strm a (padGranule (natLe 4 (wsRead w))) done) i x done) s

/-- VSUMX SAVE: the 64 bytes of Table 8.12. -/
def goVsumxSave (i : Iss) (o : VsOps) (x : Ext) (s : State) : Host.Outcome State Fault Refusal :=
  issue i (.vsumxSave i o x) x.cond (fun t s =>
    let a := aReg s i o.aDst
    let w := getWs s i.core o.ws
    let done := t + transit s.build 0x48
    check s (formFault i .glaze (o.n != 1) t) fun _ =>
    check s (localFault s i a 64 32 t) fun _ =>
    check s (wsRace s i o t) fun _ =>
    let s1 := if o.clear then putWs s i.core o.ws zeroWs else s
    okSig (writeBytes s1 i.core i.strm a (wsSave w) done) i x done) s

/-- R210: what stands wrong with a saved register that a MERGE into `w` finds: its form, or too many terms. -/
def mergeBad (w : WSum) (b : List Byte) : Option FCode :=
  match wsParse b with
  | none => some .wsForm
  | some v => if w.terms + v.terms > wsLimit then some .wsTerms else none

/-- VSUMX MERGE. The saved register is checked at issue, as it stands then (Table 9.7), and what is added is what is read GZ_RA later, unchecked
(log 61). -/
def goVsumxMerge (i : Iss) (o : VsOps) (x : Ext) (s : State) : Host.Outcome State Fault Refusal :=
  issue i (.vsumxMerge i o x) x.cond (fun t s =>
    let a := aReg s i o.aSrc
    let w := if o.clear then zeroWs else getWs s i.core o.ws
    let t0 := t + transit s.build 0x40
    let done := t0 + transit s.build 0x46
    check s (formFault i .glaze (o.n != 1) t) fun _ =>
    check s (localFault s i a 64 32 t) fun _ =>
    check s (wsRace s i o t) fun _ =>
    check s ((mergeBad w (readSpan s i.core a 64 t)).map (fun c => ⟨c, 0, t⟩)) fun _ =>
    thenR (doReads i.core i.strm (expTag x 0) (spanReads a 64 t0) s) fun s =>
    check s (lateFault s i.strm done) fun _ =>
    let b := wsFields (readSpan s i.core a 64 t0)
    .ok (signalAt (putWs s i.core o.ws { wsMerge w b with upd := done }) i x.sig done) done) s

/-! ### Descriptors of VQUANT and VDEQ (R67, R72, R74, R211) -/

/-- R67, R72, R187: the descriptor and its codebook, read at issue. The channel stride bounds no depth here (R211). -/
def gzDesc (i : Iss) (exp : Option Nat) (a t : Nat) (s : State) : (State × Option Flt) × QDesc :=
  match localFault s i a 32 32 t with
  | some f => ((s, some f), parseDesc [])
  | none => match doReads i.core i.strm exp (spanReads a 32 t) s with
    | (s, some f) => ((s, some f), parseDesc [])
    | (s, none) =>
      let d := parseDesc (readSpan s i.core a 32 t)
      if !d.ok 0 then ((s, some ⟨.formatRole, 0, t⟩), d)
      else match doReads i.core i.strm exp (if d.cbsel then spanReads d.cbaddr 32 t else []) s with
        | (s, some f) => ((s, some f), d)
        | (s, none) =>
          let rd := reader s i.core t
          if d.codebookBad rd then ((s, some ⟨.formatRole, 0, t⟩), d)
          else if d.zpmode == 1 && d.zeroBad rd 0 then ((s, some ⟨.zpRange, 0, t⟩), d)
          else ((s, none), d)

/-- R211: the channel of a logical index. A descriptor whose stride is zero has one channel (log 24). -/
def gzChan (d : QDesc) (x : Nat) : Nat := x / (d.sstride * d.group)

/-- R211: the address of the scale of the group of a logical index. -/
def gzScaleAddr (d : QDesc) (x : Nat) : Nat := d.sbase + x / d.group * (if d.sbf16 then 2 else 1)

/-- What the batches of a VQUANT share. -/
structure VqCtx where
  i   : Iss
  o   : VqOps
  x   : Ext
  d   : QDesc
  cb  : List Int
  p   : Nat
  src : Nat
  dst : Nat
  key : BitVec 64
  t   : Nat
deriving DecidableEq, Repr

/-- R80 to R83: the groups of a batch quantised, `e` being the first element of each. -/
def vqGroup (m : VqCtx) (rd : Nat → Nat → List Byte) (vals : List Nat) (e0 e : Nat) : QGroup :=
  let z := m.d.zero rd (gzChan m.d (m.p + e))
  quantGroup m.o.mx m.d.sbf16 m.d.fmt m.cb z (fun k => drawRnd m.o.stoch m.key m.d.tid (m.p + e + k) 1)
    ((vals.drop (e - e0)).take m.d.group)

/-- The bytes of packed element codes (R435). -/
def packCodes (fmt : Nat) (codes : List Nat) : List Byte :=
  natLe ((codes.length * fmtBits fmt + 7) / 8)
    (codes.zipIdx.foldl (fun a c => a + c.1 * 2 ^ (fmtBits fmt * c.2)) 0)

/-- One batch of a VQUANT: the groups whose last elements are read in one cycle. It reads their elements 64 a cycle, and writes
elements and scales together (R211, Table 8.10). -/
def vqBatch (m : VqCtx) (size : Nat) (r : State × Option Flt) (b : Nat) : State × Option Flt :=
  if r.2.isSome then r
  else
    let e0 := b * size
    let n := min size (m.o.n - e0)
    let fb := fmtBits m.o.sfmt / 8
    let t0 := m.t + transit r.1.build 0x40
    let cs := (List.range ((n + 63) / 64)).map (fun j => (m.src + (e0 + 64 * j) * fb, min 64 (n - 64 * j), t0 + (e0 + 64 * j) / 64))
    let reads := cs.flatMap (fun c => spanReads c.1 (granSpan m.o.sfmt c.2.1) c.2.2)
    match doReads m.i.core m.i.strm (expTag m.x 0) reads r.1 with
    | (s, some f) => (s, some f)
    | (s, none) =>
      let vals := cs.flatMap (fun c =>
        (elemCodes m.o.sfmt c.2.1 (readSpan s m.i.core c.1 (spanBytes m.o.sfmt c.2.1) c.2.2)).map (toFP32 m.o.sfmt))
      let gs := (List.range (n / m.d.group)).map (fun k => vqGroup m (reader s m.i.core m.t) vals e0 (e0 + k * m.d.group))
      let w := t0 + (e0 + n - 1) / 64 + transit s.build 0x45
      if late s m.i.strm w then (s, some ⟨.segOverrun, 0, w⟩) else
      let sw := if m.d.sbf16 then 2 else 1
      let els := packCodes m.d.fmt (gs.flatMap QGroup.codes)
      let els := if e0 + n = m.o.n then
          els ++ List.replicate ((32 - spanBytes m.d.fmt m.o.n % 32) % 32) 0
        else els
      let s := countSeg s m.i.core w { zeroCounts with
        qclip := BitVec.ofNat 64 (gs.map QGroup.clip).sum, qnonfin := BitVec.ofNat 64 (gs.map QGroup.nonfin).sum }
      doWrites m.i.core m.i.strm
        [⟨m.dst + spanBytes m.d.fmt e0, els, w⟩,
         ⟨gzScaleAddr m.d (m.p + e0), gs.flatMap (fun g => natLe sw g.scale), w⟩] s

/-- R211, R81: the formats VQUANT may take. In MX mode UINT8 without a zero point stands neither in Table 3.5 nor among what R81 refuses; the model
refuses it (DESIGN CHOICE, log 61). -/
def vqRole (d : QDesc) (mx : Bool) (sfmt : Nat) : Bool :=
  (sfmt == 10 || sfmt == 12) && (!mx || (mxFmt d.fmt && !d.sbf16 && d.zpmode == 0))

/-- VQUANT (R80 to R87, R211). -/
def goVquant (i : Iss) (o : VqOps) (x : Ext) (s : State) : Host.Outcome State Fault Refusal :=
  issue i (.vquant i o x) x.cond (fun t s =>
    let src := aReg s i o.aSrc
    let dst := aReg s i o.aDst
    let p := (pReg s i o.p).toNat
    check s (formFault i .glaze false t) fun _ =>
    let r := gzDesc i (expTag x 1) (aReg s i o.aDesc) t s
    thenR r.1 fun s =>
    let d := r.2
    check s (if vqRole d o.mx o.sfmt then none else some ⟨.formatRole, 0, t⟩) fun _ =>
    check s (if d.gsize != 0 && o.n % d.group == 0 && p % d.group == 0 then none else some ⟨.tileFit, 0, t⟩) fun _ =>
    check s (orFlt (localFault s i src (granSpan o.sfmt o.n) 32 t) (localFault s i dst (granSpan d.fmt o.n) 32 t)) fun _ =>
    let c0 := gzChan d p
    let cn := gzChan d (p + o.n - 1) + 1 - c0
    thenR (doReads i.core i.strm (expTag x 1) (if d.zpmode == 2 then spanReads (d.zbase + 2 * c0) (2 * cn) t else []) s) fun s =>
    let rd := reader s i.core t
    check s (if d.zpmode == 2 && (List.range cn).any (fun c => d.zeroBad rd (c0 + c)) then some ⟨.zpRange, 0, t⟩ else none)
      fun _ =>
    let m : VqCtx := ⟨i, o, x, d, d.codebook rd, p, src, dst, sdAt (getCore s i.core) o.seed t, t⟩
    let size := max 64 d.group
    let done := t + transit s.build 0x40 + (o.n - 1) / 64 + transit s.build 0x45
    thenR ((List.range ((o.n + size - 1) / size)).foldl (vqBatch m size) (s, none)) fun s =>
    thenR (endCheck s (locOf s i) done) fun s =>
    .ok (signalAt s i x.sig done) done) s

/-! ### VDEQ (R84, R211) -/

/-- R211: the reads of scales and zero points of the groups whose first element lies among elements [e0, e0 + n). -/
def deqReads (d : QDesc) (e0 n t : Nat) : List RdReq :=
  let g0 := (e0 + d.group - 1) / d.group
  let g1 := (e0 + n + d.group - 1) / d.group
  let c0 := gzChan d (g0 * d.group)
  if d.group == 0 then (if d.zpmode == 2 && e0 == 0 then spanReads d.zbase 2 t else [])
  else if g1 ≤ g0 then []
  else
    spanReads (gzScaleAddr d (g0 * d.group)) ((g1 - g0) * (if d.sbf16 then 2 else 1)) t
      ++ (if d.zpmode == 2 then spanReads (d.zbase + 2 * c0) (2 * (gzChan d ((g1 - 1) * d.group) + 1 - c0)) t else [])

/-- The cycle, counted from the first, in which the group of an element was read. -/
def deqCycle (d : QDesc) (e : Nat) : Nat := if d.group == 0 then 0 else e / d.group * d.group / 64

/-- The scale of an element as its group was read. -/
def deqScale (d : QDesc) (rd : Nat → Nat → List Byte) (e : Nat) : Dec :=
  if d.group == 0 then .fin 1 0
  else decScale d.sbf16 (leNat (rd (gzScaleAddr d e) (if d.sbf16 then 2 else 1)))

/-- The 64 elements of cycle j of a VDEQ. -/
def deqChunk (i : Iss) (o : GzOps) (x : Ext) (d : QDesc) (cb : List Int) (src dst t0 lat : Nat) (r : State × Option Flt)
    (j : Nat) : State × Option Flt :=
  if r.2.isSome then r
  else
    let e0 := 64 * j
    let m := min 64 (o.n - e0)
    let a := src + spanBytes d.fmt e0
    match doReadsBy i.core i.strm (sortReads (expecting (expTag x 0) (spanReads a (spanBytes d.fmt m) (t0 + j))
        ++ expecting (expTag x 1) (deqReads d e0 m (t0 + j)))) r.1 with
    | (s, some f) => (s, some f)
    | (s, none) =>
      let rdE (e : Nat) : Nat → Nat → List Byte := reader s i.core (t0 + deqCycle d e)
      let cs := elemCodes d.fmt m (readSpan s i.core a (spanBytes d.fmt m) (t0 + j))
      let res := (cs.zip ((List.range m).map (e0 + ·))).map (fun (c, e) =>
        fromFP32 o.dfmt (dequant (decElem d.fmt cb c) (d.zero (rdE e) (gzChan d e)) (deqScale d (rdE e) e)))
      writeBytes s i.core i.strm (dst + e0 * (fmtBits o.dfmt / 8)) (padGranule (codeBytes o.dfmt res)) (t0 + j + lat)

/-- R41, R207: the source format field of a VDEQ names an operand or Glaze element format; the elements have the descriptor's (log 24). -/
def deqRole (o : GzOps) : Bool := fmtGlaze o.dfmt && (fmtOperand o.sfmt || fmtGlaze o.sfmt)

/-- R74: a zero point of the `n` elements of a VDEQ lies outside its format's range as the descriptor's tables stand. -/
def deqZeroBad (d : QDesc) (rd : Nat → Nat → List Byte) (n : Nat) : Bool :=
  d.zpmode == 2 && (List.range (gzChan d (n - 1) + 1)).any (fun c => d.zeroBad rd c)

/-- VDEQ: source 1 in the descriptor's format, source 2 the descriptor (R211, log 24). ZP_RANGE is raised at issue on the zero points as they stand then
(R74, Table 9.7); each is read in the cycle of its group's first element (R211), unchecked (log 61). -/
def goVdeq (i : Iss) (o : GzOps) (x : Ext) (s : State) : Host.Outcome State Fault Refusal :=
  issue i (.vdeq i o x) x.cond (fun t s =>
    let src := aReg s i o.a1
    let dst := aReg s i o.aDst
    let t0 := t + transit s.build 0x40
    let lat := transit s.build 0x44
    let done := t0 + (o.n - 1) / 64 + lat
    check s (formFault i .glaze (gzUnused o 2) t) fun _ =>
    check s (if deqRole o then none else some ⟨.formatRole, 0, t⟩) fun _ =>
    let r := gzDesc i (expTag x 1) (aReg s i o.a2) t s
    thenR r.1 fun s =>
    let d := r.2
    check s (if deqZeroBad d (reader s i.core t) o.n then some ⟨.zpRange, 0, t⟩ else none) fun _ =>
    check s (orFlt (localFault s i src (granSpan d.fmt o.n) 32 t) (localFault s i dst (granSpan o.dfmt o.n) 32 t)) fun _ =>
    okSig ((List.range ((o.n + 63) / 64)).foldl
      (deqChunk i o x d (d.codebook (reader s i.core t)) src dst t0 lat) (s, none)) i x done) s

end Sys2Proof.Machine
end

