-- ==== Sys2Proof/Machine/Xop.lean ====
section
/-!
DEFINITION. Xop.lean: XOP (R212, R342 to R349).
-/

namespace Sys2Proof.Machine

/-- R344, R352: the slot serves the Glaze stream of this core. -/
def slotOpen (s : State) (i : Iss) (n : Nat) : Bool :=
  let y := getSlt s n
  n < s.build.nslot && y.en && y.part == partOf s i.core && y.core == i.core && y.st == 2 && !y.iso && s.cfgDone

/-- A slot cycle counted from a Beat as the Beat offset and the slot cycle there (R343). -/
def slotPoint (r k : Nat) : Nat × Nat := (k / (4032 / r), k % (4032 / r))

/-- R345: k0 of an XOP issued in cycle `c` of a Beat; `from_` is the cycle before which the slot takes no input. -/
def firstSlotCycle (b : Build) (r c from_ : Nat) : Nat :=
  (max (c + transit b 0x40 + transit b 0x4E) from_ + r - 1) / r

/-- R345: Beat offset and cycle of the write of the output due in slot cycle k. -/
def outPoint (b : Build) (r k : Nat) : Nat × Nat := ((slotPoint r k).1, r * (slotPoint r k).2 + r - 1 + transit b 0x4F)

/-- R345, R349: the inputs of an XOP: Granule j is read XOP_IN before the first ACLK cycle of its slot cycle, and presented there with the code. -/
def xopReads (i : Iss) (o : XopOps) (exp : Option Nat) (a r k0 : Nat) : List Nat → State → State × Option Flt
  | [], s => (s, none)
  | j :: js, s =>
    let at_ := s.beat.start + r * (k0 + j)
    match doReads i.core i.strm exp (spanReads (a + 32 * j) 32 (at_ - transit s.build 0x4E)) s with
    | (s1, some f) => (s1, some f)
    | (s1, none) =>
      xopReads i o exp a r k0 js (post s1 (.slotIn o.slot at_ o.code (j == 0) (readSpan s1 i.core (a + 32 * j) 32 (at_ - transit s.build 0x4E))))

/-- The outputs of an XOP: those of this Beat are written, later ones are noted for theirs. `k` is k0 + λ. -/
def xopOuts (l : Loc) (o : XopOps) (x : Ext) (d r k : Nat) : List Nat → State → State × Option Flt
  | [], s => (s, none)
  | j :: js, s =>
    let (db, c) := outPoint s.build r (k + j)
    let data := (o.outs.getD j none).map (fun g => (g ++ List.replicate 32 0).take 32)
    if db > 0 then
      xopOuts l o x d r k js { s with xouts := s.xouts ++
        [⟨l, o.slot, j, s.beat.b + BitVec.ofNat 64 db, c, d + 32 * j, data, js == [], x.sig⟩] }
    else match data with
      | none => (s, some ⟨.slotLate, reasonDetail 0 o.slot j, s.beat.start + c - transit s.build 0x4F⟩)
      | some bs => match writeBytes s l.iss.core l.iss.strm (d + 32 * j) bs (s.beat.start + c) with
        | (s1, some f) => (s1, some f)
        | (s1, none) => xopOuts l o x d r k js s1

/-- R345, R29: the first cycle, counted from the Beat, at which an input or an output of the XOP would fall in a guard window. -/
def xopOverrun (b : Build) (r k0 lat n : Nat) : Option Nat :=
  if k0 + n > 4032 / r then some 4032
  else ((List.range n).find? (fun j => (outPoint b r (k0 + lat + j)).2 > 4031)).map
    (fun j => 4096 * (outPoint b r (k0 + lat + j)).1 + (outPoint b r (k0 + lat + j)).2)

/-- XOP: its block ends, and its signal is made, with its last output, in this Beat or a later one (dueOut). -/
def goXop (i : Iss) (o : XopOps) (x : Ext) (s : State) : Host.Outcome State Fault Refusal :=
  issueGen i (.xop i o x) x.cond false (fun s => s) (fun t s =>
    let a := aReg s i o.aSrc
    let d := aReg s i o.aDst
    let slotFlt (c : FCode) : Flt := ⟨c, reasonDetail 0 o.slot 0, t⟩
    check s (formFault i .glaze false t) fun _ =>
    match (if slotOpen s i o.slot then (getSlt s o.slot).ident else none) with
    | none => .bad s (slotFlt .slotIsolated)
    | some y =>
      let r := max 1 y.ratio
      let k0 := firstSlotCycle s.build r (cyc s t) ((getSlt s o.slot).inTo - s.beat.start)
      check s (if o.code < y.lo || y.hi < o.code then some (slotFlt .slotXop) else none) fun _ =>
      check s (orFlt (localFault s i a (32 * o.n) 32 t) (localFault s i d (32 * o.n) 32 t)) fun _ =>
      check s ((xopOverrun s.build r k0 y.latency o.n).map (fun c => ⟨.segOverrun, 0, s.beat.start + c⟩)) fun _ =>
      thenR (xopReads i o (expTag x 0) a r k0 (List.range o.n) s) fun s =>
      let s := modSlt s o.slot (fun z => { z with inTo := s.beat.start + r * (k0 + o.n) })
      thenR (xopOuts (locOf s i) o x d r (k0 + y.latency) (List.range o.n) s) fun s =>
      let (db, c) := outPoint s.build r (k0 + y.latency + (o.n - 1))
      let done := s.beat.start + c
      if db > 0 then .ok s (s.beat.start + r * (k0 + o.n - 1))
      else .ok (finishInstr (signalAt s i x.sig done) i false i.fin done) done) s

end Sys2Proof.Machine
end

