-- ==== Sys2Proof/Machine/Wait.lean ====
section
/-!
DEFINITION. Wait.lean: the stream commands that wait go on when what they wait for has come (R30, R31, R159, R178, R180), and the commands
that look at the streams after that: DESCRIPTOR_POP, GUARD_HOLD, REALIGN_CHECK, SEGMENT_END (R117, R160, R161, R181, R182).
-/

namespace Sys2Proof.Machine

/-- The meaning of a stream command, which alone can wait. -/
def runHeld (c : Instr) (s : State) : Host.Outcome State Fault Refusal :=
  match c with
  | .set i dst src hi => goSet i dst src hi s
  | .add i dst src => goAdd i dst src s
  | .sub i dst src => goSub i dst src s
  | .loop i cnt reserve => goLoop i cnt reserve s
  | .endloop i => goEndloop i s
  | .waitsc i w c => goWaitsc i w c s
  | .signalsc i remote g => goSignalsc i remote g s
  | .realign i group => goRealign i group s
  | .launch i eng block boff cyc ps sig => goLaunch i eng block boff cyc ps sig s
  | .cmp i flag cond x y => goCmp i flag cond x y s
  | .skipif i sense flag nextBad => goSkipif i sense flag nextBad s
  | .segend i => goSegend i s
  | .mbxsend i mbx lo hi => goMbxsend i mbx lo hi s
  | .beatread i sb sc => goBeatread i sb sc s
  | .halt i code => goHalt i code s
  | .lds i o => goLds i o s
  | .ldh i o => goLdh i o s
  | .ldw i o => goLdw i o s
  | .sts i o => goSts i o s
  | .sth i o => goSth i o s
  | .digestOpen i aOff pObj dstr => goDigestOpen i aOff pObj dstr s
  | .digestClose i aRoot dstr => goDigestClose i aRoot dstr s
  | .mvm i aSrc aDst rows x => goMvm i aSrc aDst rows x s
  | .mvb i aSrc port cells x => goMvb i aSrc port cells x s
  | .fillc i aDst rows v => goFillc i aDst rows v s
  | .copyr i aSrc aDst rows x => goCopyr i aSrc aDst rows x s
  | .hold i o x => goHold i o x s
  | .mma i o x => goMma i o x s
  | .drain i o x => goDrain i o x s
  | .spill i o x => goSpill i o x s
  | .reload i o x => goReload i o x s
  | .accumulate i o x => goAccumulate i o x s
  | .ewm i o x => goEwm i o x s
  | .meringue i o => goMeringue i o s
  | .mvx i o x => goMvx i o x s
  | .sdrain i o x => goSdrain i o x s
  | .vadd i o x => goVadd i o x s
  | .vmul i o x => goVmul i o x s
  | .vfma i o x => goVfma i o x s
  | .vmax i o x => goVmax i o x s
  | .vsumxAdd i o x => goVsumxAdd i o x s
  | .vsumxRead i o x => goVsumxRead i o x s
  | .vsumxSave i o x => goVsumxSave i o x s
  | .vsumxMerge i o x => goVsumxMerge i o x s
  | .vquant i o x => goVquant i o x s
  | .vdeq i o x => goVdeq i o x s
  | .vexp2 i o x => goVexp2 i o x s
  | .vlog2 i o x => goVlog2 i o x s
  | .vrsqrt i o x => goVrsqrt i o x s
  | .vrecip i o x => goVrecip i o x s
  | .vtanh i o x => goVtanh i o x s
  | .vsig i o x => goVsig i o x s
  | .xop i o x => goXop i o x s
  | .descriptorPop core k c => popNext core k c s
  | _ => .next s

/-- Every waiting command that can go on goes on, oldest first, until none can. -/
def drainHeld : Nat → State → State
  | 0, s => s
  | n + 1, s => match retryHeld runHeld s [] s.held with
    | .next s' => if s'.held.length < s.held.length then drainHeld n s' else s'
    | .fault _ => s
    | .refused _ => s

/-- The state once every waiting command that can go on has gone on. -/
def settleHeld (s : State) : State := drainHeld s.held.length s

/-- DESCRIPTOR_POP (R160, R161): the start point of an engine's next block, in cycle c; a control stream that waits for a free entry of the queue goes on
(R159). -/
def execDescriptorPop (core : Nat) (strm : Strm) (c : Nat) (s : State) : Host.Outcome State Fault Refusal :=
  match popNext core strm c (settleHeld s) with
  | .next s' => .next (settleHeld s')
  | .fault e => .fault e
  | .refused e => .refused e

/-- GUARD_HOLD: at (b, 4032) every active Torte begins a hold, which lasts to the Beat edge. -/
def execGuardHold (s : State) : Host.Outcome State Fault Refusal :=
  .next (touch ((busyCores (settleHeld s)).foldl holdCore (settleHeld s)) (s.beat.start + 4032))

/-- R181: the check of a group at cycle t: its counters are rebased, or DRIFT is raised. -/
def checkGroup (p g : Nat) (gr : RGroup) (t : Nat) (s : State) : State :=
  match driftAt s p gr g t with
  | some (f, c, k) => raiseUnit (touch s t) p f c k
  | none => touch (gr.ctrs.foldl (fun s x => addCtr s ((coreAt s p x.1).getD 0) x.2.1 t (0 - x.2.2)) s) t

/-- REALIGN_CHECK: at (b, 4040) of the Beat before a realign point of group g of partition p's Segment. -/
def execRealignCheck (p g : Nat) (s : State) : Host.Outcome State Fault Refusal :=
  let s1 := settleHeld s
  match runningSeg s1 p with
  | none => .next s1
  | some seg => match seg.decl.groups[g]? with
    | none => .next s1
    | some gr => if beforePoint gr seg s1.beat.b then .next (checkGroup p g gr (s1.beat.start + 4040) s1) else .next s1

/-- SEGMENT_END (R182): once what waits has gone on. -/
def execSegmentEnd (p : Nat) (s : State) : Host.Outcome State Fault Refusal := endSegment p (settleHeld s)

end Sys2Proof.Machine
end

