-- ==== Sys2Proof/Machine/Beat.lean ====
section
/-!
DEFINITION. Beat.lean: what a Beat edge does (R9, R29, R31, R117, R178, R239, R249, R259, R307, R308, R339, R408), the Beat unit's
states (R235 to R247), and its commands: BEAT_BOUNDARY_APPLY, BEAT_CTL_ACQUIRE, ACQUISITION_START, ACQUISITION_TIMEOUT, BEAT_EDGE, BEAT_EDGE_TIMEOUT,
HOLDOVER_EDGE, BEAT_LOST, PIN_FRAME, BEAT_BLOCK.
-/

namespace Sys2Proof.Machine

/-! ### Commands that wait across an edge (R31) -/

/-- The placement of a stream instruction. -/
def issOf : Instr → Option Iss
  | .set i _ _ _ => some i
  | .add i _ _ => some i
  | .sub i _ _ => some i
  | .loop i _ _ => some i
  | .endloop i => some i
  | .waitsc i _ _ => some i
  | .signalsc i _ _ => some i
  | .realign i _ => some i
  | .launch i _ _ _ _ _ _ => some i
  | .cmp i _ _ _ _ => some i
  | .skipif i _ _ _ => some i
  | .segend i => some i
  | .mbxsend i _ _ _ => some i
  | .beatread i _ _ => some i
  | .halt i _ => some i
  | .lds i _ => some i
  | .ldh i _ => some i
  | .ldw i _ => some i
  | .sts i _ => some i
  | .sth i _ => some i
  | .digestOpen i _ _ _ => some i
  | .digestClose i _ _ => some i
  | .mvm i _ _ _ _ => some i
  | .mvb i _ _ _ _ => some i
  | .fillc i _ _ _ => some i
  | .copyr i _ _ _ _ => some i
  | .hold i _ _ => some i
  | .mma i _ _ => some i
  | .drain i _ _ => some i
  | .spill i _ _ => some i
  | .reload i _ _ => some i
  | .accumulate i _ _ => some i
  | .ewm i _ _ => some i
  | .meringue i _ => some i
  | .mvx i _ _ => some i
  | .sdrain i _ _ => some i
  | .vadd i _ _ => some i
  | .vmul i _ _ => some i
  | .vfma i _ _ => some i
  | .vmax i _ _ => some i
  | .vsumxAdd i _ _ => some i
  | .vsumxRead i _ _ => some i
  | .vsumxSave i _ _ => some i
  | .vsumxMerge i _ _ => some i
  | .vquant i _ _ => some i
  | .vdeq i _ _ => some i
  | .vexp2 i _ _ => some i
  | .vlog2 i _ _ => some i
  | .vrsqrt i _ _ => some i
  | .vrecip i _ _ => some i
  | .vtanh i _ _ => some i
  | .vsig i _ _ => some i
  | .xop i _ _ => some i
  | .descriptorPop core k c => some ⟨core, k, c, 0, false⟩
  | _ => none

/-- A waiting instruction of a stream that is not timed, or one that waits without bound, as it stands in the next Beat. -/
def atZero : Instr → Instr
  | .set i a b c => .set { i with at_ := 0 } a b c
  | .add i a b => .add { i with at_ := 0 } a b
  | .sub i a b => .sub { i with at_ := 0 } a b
  | .loop i a b => .loop { i with at_ := 0 } a b
  | .endloop i => .endloop { i with at_ := 0 }
  | .waitsc i a b => .waitsc { i with at_ := 0 } a b
  | .signalsc i a b => .signalsc { i with at_ := 0 } a b
  | .realign i a => .realign { i with at_ := 0 } a
  | .launch i a b c d e f => .launch { i with at_ := 0 } a b c d e f
  | .cmp i a b c d => .cmp { i with at_ := 0 } a b c d
  | .skipif i a b c => .skipif { i with at_ := 0 } a b c
  | .segend i => .segend { i with at_ := 0 }
  | .mbxsend i a b c => .mbxsend { i with at_ := 0 } a b c
  | .beatread i a b => .beatread { i with at_ := 0 } a b
  | .halt i a => .halt { i with at_ := 0 } a
  | .lds i a => .lds { i with at_ := 0 } a
  | .ldh i a => .ldh { i with at_ := 0 } a
  | .ldw i a => .ldw { i with at_ := 0 } a
  | .sts i a => .sts { i with at_ := 0 } a
  | .sth i a => .sth { i with at_ := 0 } a
  | .digestOpen i a b c => .digestOpen { i with at_ := 0 } a b c
  | .digestClose i a b => .digestClose { i with at_ := 0 } a b
  | .descriptorPop core k _ => .descriptorPop core k 0
  | c => c

/-- R30, R31: a waiting command that the end of the work window overruns: one of a timed stream, but for an open-mode WAITSC. -/
def overruns (c : Instr) : Bool := !openWaits c && (match issOf c with | some i => isTimed i.strm | none => false)

/-- R31: an instruction of a timed stream that still holds when the work window ends is a Segment overrun. -/
def overrunHeld (s : State) (h : Held) : State :=
  let f : Flt := ⟨.segOverrun, 0, s.beat.start + 4032⟩
  if !overruns h.cmd then s
  else match h.cmd, issOf h.cmd with
    | .descriptorPop core k _, _ => raiseUnit s (partOf s core) f core k
    | _, some i => raiseAt s i f
    | _, none => s

/-- The commands that wait in the next Beat. -/
def keepHeld (hs : List Held) : List Held :=
  (hs.filter (fun h => !overruns h.cmd)).map (fun h => { h with cmd := atZero h.cmd })

/-! ### A core at an edge -/

/-- R112: what has happened to an entry before the edge, and the drain reads still to come. -/
def foldEntry (t : Nat) (e : Entry) : Entry :=
  ⟨(e.evs.filter (fun x => x.1 < t)).foldl (fun v x => applyOp v x.2) e.base, e.evs.filter (fun x => t ≤ x.1),
   e.reads.filter (fun r => t ≤ r.2)⟩

/-- R176: the additions that every waiter of the next Beat has seen. -/
def foldCtr (t : Nat) (c : Ctr) : Ctr := ⟨seenAt c t, c.adds.filter (fun a => t < a.1 + 3)⟩

/-- R115, R162, R172: a Meringue that the guard window paused goes on at the edge `t`; where its block ends with it, its end is now known, and so is whether a loop is open. -/
def resumeAct (core t : Nat) (s : State) (a : Act) : State :=
  let x := merAct s core a.torte t a.left a.mdens a.loc a.ends
  let s := if x.start < x.stop then addAct s core x else s
  match a.loc with
  | some l => if a.ends && !x.ends then finishInstr s l.iss false true (max t (x.stop - 1)) else s
  | none => s

/-- R115, R117: the activities of a core at the edge `t`: a hold ends there, and a Meringue that the guard window paused begins anew. -/
def edgeActs (s : State) (core t : Nat) : State :=
  let paused := (getCore s core).acts.filter (fun a => a.kind == 2 && a.left > 0)
  let s := modCore s core (fun c => { c with acts :=
    (c.acts.map (fun a => { a with stop := if a.kind == 3 then t else a.stop, left := 0 })).filter (fun a => t ≤ a.stop) })
  paused.foldl (resumeAct core t) s

/-- The cycles of [t0, t) in which the LFSR of a Torte drives its wires: Meringues and holds (R115, R117). -/
def drivenCycles (acts : List Act) (torte t0 t : Nat) : Nat :=
  ((acts.filter (fun a => a.torte == torte && a.kind ≥ 2)).map (fun a => min t a.stop - max t0 a.start)).sum

/-- The LFSRs of the Tortes after the Beat [t0, t). -/
def turnLfsr (c : Core) (t0 t : Nat) : SMap W32 :=
  (List.range 8).foldl (fun m q =>
    let n := drivenCycles c.acts q t0 t
    if n == 0 then m else smSet 1 m q (Config.lfsrAfter n (smGet 1 m q))) c.lfsr

/-- A core as the next Beat finds it: counters and entries folded, hold shifts, realign marks and the Beat's SETs gone (R31, R163, R180). -/
def edgeCore (t0 t : Nat) (c : Core) : Core :=
  { c with sc := smMap zeroCtr c.sc (fun _ x => foldCtr t x), ent := smMap staleEntry c.ent (fun _ e => foldEntry t e),
           strm := smMap idleStrm c.strm (fun _ x => { x with shift := 0, realign := none }), sdOld := [], anOld := [],
           lfsr := turnLfsr c t0 t }

/-! ### Cores that move and keys that change at an edge (R153, R307, R308) -/

/-- The cores that a partition holds, in order. -/
def heldCores (s : State) (p : Nat) : List Nat := (List.range s.build.ncore).filter (fun c => (getCore s c).holder == some p)

/-- Bring a partition's core list up to date with its cores (R192, Table 18.7). -/
def syncPart (s : State) (p : Nat) : State :=
  modPart s p (fun x => { x with cores := heldCores s p, width := (coreCols s.build (heldCores s p)).length })

/-- R153: a core whose zeroing is over joins the partition that names it, never inside a Segment of that partition (R416, log 29). -/
def settleMove (s : State) (c : Nat) : State :=
  if !(getCore s c).moving then s
  else match coreTarget s c with
    | none => modCore s c (fun x => { x with moving := false })
    | some p =>
      if (getPart s p).seg.isSome then s
      else syncPart (modCore s c (fun x => { x with moving := false, holder := some p })) p

/-- R307, R308: a drawn key becomes LIVE, a zeroised slot EMPTY. -/
def settleKey (s : State) (p : Nat) : State :=
  match (getPart s p).keySt with
  | .drawing => modPart s p (fun x => { x with keySt := .live })
  | .zeroising => modPart s p (fun x => { x with keySt := .empty })
  | _ => s

/-- The indices of entries whose Owner is gone, but for those the MC already invalidates (R308 step 5). -/
def orphanExts (s : State) : List Nat :=
  (s.ext.tab.filter (fun e => e.2.valid && (extFuture s e.1).valid && e.2.keyslot < 16
    && e.2.oepoch != (getPart s e.2.part).oepoch && !s.ext.wait.any (fun w => w.1 == e.1))).map Prod.fst

/-- R308 step 5: the MC stages an invalid entry for an Extent of a released Owner and returns its memory and quota. -/
def reclaimExt (s : State) (idx : Nat) : State :=
  let e := extAt s idx
  modPart (stageOrWait s idx { emptyExt with gen := e.gen + 1, part := e.part } true) e.part
    (fun x => { x with stkUse := x.stkUse - (e.len.toNat + 1) })

/-- R308 step 5 for every such Extent; a job of the MC whose command is over is dropped first. -/
def reclaim (s : State) : State :=
  if !mcUp s then s
  else
    let s := (s.ext.jobs.filter (jobDead s)).foldl dropJob s
    (orphanExts s).foldl reclaimExt s

/-! ### What else an edge settles -/

/-- R259: by (b + 2, 0) every Event of a reset context is ABANDONED; entries of that age leave the list. -/
def settleAbandon (s : State) : State :=
  let due := (s.host.abandon.filter (fun a => a.2 + 2 ≤ s.beat.b)).map Prod.fst
  let ids := (s.host.evts.filter (fun e => match e.2 with | some x => due.contains x.er.owner | none => false)).map Prod.fst
  let s := ids.foldl abandonEvt s
  { s with host := { s.host with abandon := s.host.abandon.filter (fun a => !(a.2 + 2 ≤ s.beat.b)) } }

/-- What a twin has fetched of the journal and not retired is gone: HEAD returns to DONE, no wait is left, and queues of reset contexts leave. -/
def dropTwinCmds (s : State) : State :=
  let drop (x : QSlot) : QSlot := { x with cmds := [], wait := none, grpBad := false, qr := { x.qr with head := x.qr.done } }
  dropLeaving { s with host := { s.host with
    slots := smMap none s.host.slots (fun _ x => x.map drop), jobs := [],
    evts := smMap none s.host.evts (fun _ e => e.map (fun e => { e with waiters := [] })) } }

/-- R339: a requested detach: commands of the primary held for agreement that have not diverged are met on its own result. What the twin
still ran of the journal is dropped (log 33). -/
def settleDetach (s : State) (b : W64) : State :=
  if !s.twin.detach then s
  else
    let s := if s.twin.primary then
        (allCmds s).foldl (fun s x =>
          if x.2.2.value.isSome && !x.2.2.diverged && x.2.2.stage == .drain then
            modCmd s x.2.1 x.2.2.seq (fun c => { c with stage := .met b }) else s) s
      else dropTwinCmds s
    { s with twin := { s.twin with st := 0, detach := false, journal := [], agrees := [], made := [], outbox := [] } }

/-- R335 step 5: what the primary sends: its Extent Table, the bytes of its valid Extents, the rows of every partition. -/
def syncPost (s : State) : Post :=
  let es := s.ext.tab.filter (fun e => e.2.valid)
  .sync (s.ext.tab.map (fun e => ⟨e.1, e.2.valid, e.2.part, e.2.gen, e.2.base, e.2.len, e.2.packed, e.2.ro, e.2.dgv, smGet none s.ext.roots e.1⟩))
    (s.stk.mem.filter (fun c => es.any (fun e => e.2.addr ≤ c.1 && c.1 < e.2.addr + e.2.size)))
    (s.spad.filter (fun c => (getCore s (c.1 / 2 ^ 23)).holder.isSome))

/-- R335 steps 5 and 6: once no Segment of the primary runs the state is sent, and the mode begins at this boundary; a sync that fails leaves
SOLO. -/
def settleAttach (s : State) : State :=
  match s.twin.sync with
  | none => s
  | some (ok, mode) =>
    if s.twin.st != 1 || (s.twin.primary && s.parts.any (fun p => p.2.seg.isSome)) then s
    else if !ok then note { s with twin := { s.twin with st := 0, sync := none, key := none } } ⟨.twinSync, 0, s.now⟩ none
    else
      let s := if s.twin.primary then post s (syncPost s) else s
      { s with twin := { s.twin with
        st := mode + 1, step := 6, sync := none, unfit := false, journal := [], agrees := [], done := [], made := [], outbox := [], given := 0,
        heard := 0 } }

/-- R338: a takeover is complete when the twin has run all that the primary published: the journal beyond is discarded, HEAD and DONE of
each queue record are written, and the engine is SOLO. -/
def settleTakeover (s : State) : State :=
  if !s.twin.takeover || !s.twin.done.all (fun e => match queueAt s e.1 with | some x => reached x.qr.done e.2 | none => true) then s
  else
    let s := dropTwinCmds s
    let s := { s with twin := { s.twin with st := 0, takeover := false, journal := [], agrees := [], done := [], made := [] } }
    s.host.slots.foldl (fun s e => match e.2 with
      | some x => pfWrite (pfWrite s (qField s x.q 36) (natLe 4 x.qr.head.toNat)) (qField s x.q 40) (natLe 4 x.qr.done.toNat)
      | none => s) s

/-- R408: the ramp-down of a core at thermal stop: its Tortes that were active at (b, 4031) stop one by one, 32 cycles apart. -/
def stopActs (old t : Nat) (c : Core) : Core :=
  let ts := (((c.acts.filter (fun a => a.start ≤ old && old < a.stop)).map Act.torte).eraseDups).zipIdx
  { c with acts := ts.map (fun (q, k) => ⟨q, old + 1, t + 32 * k, 2, false, 0, 8, none, false⟩), rampAt := t + 256, rampLast := none }

/-- R264: the aborts of a Function Level Reset are complete, and the Events of the contexts it reset are abandoned (R280): of partition n − 1 for VF n,
of every partition for the PF (0). -/
def flrOver (s : State) (f : Nat) : Bool :=
  let mine (p : Nat) : Bool := f == 0 || p + 1 == f
  !((List.range 16).any (fun p => mine p && (getPart s p).seg.isSome)) &&
    !(s.host.slots.any (fun e => match e.2 with | some x => mine x.part && x.cmds != [] | none => false)) &&
    !(s.host.abandon.any (fun a => mine (getCtx s a.1).part))

/-- R264: a Function Level Reset whose aborts are complete is over; that of the PF returns HQ and MBX to their reset values. -/
def endFlr (s : State) (f : Nat) : State :=
  if !flrOver s f then s
  else
    let s := { s with host := { s.host with flr := s.host.flr.filter (· != f) } }
    let keep (m : SMap (Option W32)) : SMap (Option W32) := m.filter (fun e => e.1 < 0x00200000 || 0x00300000 ≤ e.1)
    if f != 0 then s
    else { s with mbx := [],
                  regs := { s.regs with live := keep s.regs.live, stage := keep s.regs.stage, capt := s.regs.capt.map keep, due := s.regs.due.map keep },
                  host := { s.host with slots := [], evts := [], pendSet := [], cands := [], scanReq := false, op := none, opRes := 0, opLost := false,
                                        dbMiss := false } }

/-- Every Function Level Reset under way. -/
def settleFlr (s : State) : State := s.host.flr.foldl endFlr s

/-- R408: from the boundary after the Beat in which thermal stop began, every running Segment is aborted with its record. -/
def settleStop (s : State) (old t : Nat) : State :=
  match s.therm.stop with
  | none => s
  | some (idx, b) =>
    if b + 1 != s.beat.b then s
    else (List.range 16).foldl (fun s p =>
      if (getPart s p).seg.isNone then s
      else abortSeg ((getPart s p).cores.foldl (fun s c => modCore s c (stopActs old t)) s) p 1 idx) s

/-- R345, R346: an output of an XOP that falls due in this Beat: written, or missing at its sample. The last one ends the block's marked
instruction with its signal. -/
def dueOut (s : State) (o : XOut) : State :=
  let t := s.beat.start + o.cyc
  let i := o.loc.iss
  if (runningSeg s (partOf s i.core)).isNone then s
  else match o.data with
    | none => raiseLoc s o.loc ⟨.slotLate, reasonDetail 0 o.slot o.idx, t - transit s.build 0x4F⟩
    | some bs => match writeBytes s i.core i.strm o.local_ bs t with
      | (s1, some f) => raiseLoc s1 o.loc f
      | (s1, none) => if o.last then finishInstr (signalAt s1 i o.sig t) i false i.fin t else s1

/-- The outputs of this Beat, in order. -/
def settleOuts (s : State) : State :=
  let (due, later) := s.xouts.partition (fun o => o.beat == s.beat.b)
  due.foldl dueOut { s with xouts := later }

/-- R147 step 4: the spare entries of the rows copied in the Beat before become valid. -/
def settleRemap (s : State) : State :=
  s.mc.repair.foldl (fun s r => modCore s r.1 (fun x => { x with remap := smSet none x.remap (32 * r.2.1 + r.2.2.1) (some ⟨true, r.2.2.2⟩) }))
    { s with mc := { s.mc with repair := [] } }

/-- What an EXT_FLIP of a Beat, and a GLB_APPLY, leave for the next one: the flip moves the entries staged by then, the apply the values captured by
then (R10, R16, R299). -/
def edgeDue (s : State) : State :=
  let flip := s.beat.flipDue || s.ext.flip
  let due := if s.regs.capt.isSome || s.regs.due.isSome then some (mergeStage (s.regs.due.getD []) (s.regs.capt.getD [])) else none
  { s with ext := { s.ext with flip := false, due := if flip then keysOf s.ext.stg else [] }, regs := { s.regs with due := due, capt := none },
           beat := { s.beat with flipDue := flip, applyDue := due.isSome } }

/-- What the end of a Beat of `len` cycles leaves of a marker's implied edge: one beyond that end lies in the next Beat, where an acquisition still looks for it (R246). -/
def carryMark (x : BeatSt) (len : Nat) : Option (Nat × Nat) :=
  match x.mark with
  | some (e, h) => if e > 4127 && x.st == .acquiring then some (e - len, h) else none
  | none => none

/-- The state of (b + 1, 0): the Beat [start, t) is over. -/
def nextBeat (s : State) (t : Nat) : State :=
  let t0 := s.beat.start
  edgeDue { s with
    now := t, held := keepHeld s.held, mesh := [], flitErrs := [], claims := s.claims.filter (fun c => t ≤ c.at_),
    therm := { s.therm with resume := false }, cores := smMap emptyCore s.cores (fun _ c => edgeCore t0 t c),
    parts := smMap emptyPart s.parts (fun _ x => { x with seg := x.seg.map foldCounts }),
    beat := { s.beat with b := s.beat.b + 1, start := t, mark := carryMark s.beat (t - t0) } }

/-- The timed reads of the Beat that met a pending row (R127, R136). -/
def settleReads (s : State) (t : Nat) : State := ((s.claims.map Claim.row).eraseDups).foldl (pendReads t) s

/-- R410: the firmware that a watchdog expiry restarts runs from the next boundary (log 41). -/
def settleMc (s : State) : State :=
  if s.mc.reboot then { s with mc := { s.mc with reboot := false, run := !s.mc.dead } } else s

/-- The end of the Beat that has run for `len` cycles, with what its commands have left to be done in it: the next Beat begins (R9, R235). -/
def newBeat (s : State) (len : Nat) : State :=
  let b := s.beat.b
  let old := s.beat.start + 4031
  let t := s.beat.start + len
  let s := settleHeld s
  let s := s.held.foldl overrunHeld s
  let s := (busyCores s).foldl (endWork t) s
  let s := sendAll (flushPorts (settleDetach (meetAll s b) b) none)
  let s := sendWaiting (settleStop (nextBeat (commitRows (settleReads s t) t) t) old t)
  let s := settleOuts ((busyCores s).foldl (fun s c => edgeActs s c t) s)
  let s := (List.range s.build.ncore).foldl settleMove (settleRemap s)
  let s := settleTrain (reclaim ((List.range 16).foldl settleKey (settleMc s)))
  noteOver (mcWork (settleFlr (finishOp (settleAbandon (settleTakeover (settleAttach s))))))

/-! ### Acquisition (R246) -/

/-- The sources of BEAT_SRC in order of preference, those that are present (R236, R237). -/
def sources (s : State) : List BSrc :=
  let v := beatSrc s
  ([0, 2, 4].map (fun k => bitsOf v k 2)).filterMap (fun c =>
    if !srcPresent s.build (BitVec.ofNat 32 v) c then none
    else some (match c with | 1 => .pin | 2 => .marker | _ => .loc))

/-- R246: the source to take `n` Beats after (a, 0): the first that has delivered, every one before it having had 256 Beats. -/
def pickSource (q : Acq) (n : Nat) : List BSrc → Option BSrc
  | [] => none
  | x :: xs =>
    let got := match x with
      | .pin => q.pin.isSome
      | .marker => q.marker.isSome
      | .loc => true
      | .none => false
    if got then some x else if n < 256 then none else pickSource q n xs

/-- R246: the count of the Beat that has just begun is set. The Beats that the engine has noted move with it. -/
def setCount (s : State) (cnt : W64) : State :=
  let d := cnt - s.beat.b
  let met (c : Cmd) : Cmd := { c with fetched := c.fetched + d, stage := match c.stage with | .met b => .met (b + d) | x => x }
  { s with
    beat := { s.beat with b := cnt },
    parts := smMap emptyPart s.parts (fun _ x => { x with prevEnd := x.prevEnd.map (· + d), overB := x.overB.map (· + d),
                                                             graceB := x.graceB.map (· + d) }),
    cores := smMap emptyCore s.cores (fun _ x => { x with wake := smMap 0 x.wake (fun _ b => b + d) }),
    ports := smMap emptyPort s.ports (fun _ x => { x with
      rx := x.rx.map (fun r => { r with usable := r.usable + d }), rxB := x.rxB + d, unexpB := x.unexpB.map (· + d), tagB := x.tagB.map (· + d) }),
    host := { s.host with
      abandon := s.host.abandon.map (fun a => (a.1, a.2 + d)), scanBeat := s.host.scanBeat + d,
      slots := smMap none s.host.slots (fun _ e => e.map (fun x => { x with cmds := x.cmds.map met })) },
    mc := { s.mc with
      expiry := s.mc.expiry.map (· + d), rowCe := smMap [] s.mc.rowCe (fun _ l => l.map (· + d)),
      laneCe := smMap [] s.mc.laneCe (fun _ l => l.map (fun x => (x.1 + d, x.2))) },
    therm := { s.therm with stop := s.therm.stop.map (fun x => (x.1, x.2 + d)) } }

/-- LOCKED on a source (R244, R246). -/
def lockOn (src : BSrc) (hops : Nat) (x : BeatSt) : BeatSt :=
  { x with st := .locked, active := src, hops := hops, holdcnt := 0, good := 0, alt := [], altHit := [], acq := none,
           acc := x.start * 256 }

/-- R246 at a boundary: a source is taken; the local one sets the count of the Beat that begins. -/
def acquire (s : State) : State :=
  match s.beat.acq with
  | none => s
  | some q => match q.a with
    | none => s
    | some a =>
      if q.taken.isSome then s
      else match pickSource q (s.beat.b - a).toNat (sources s) with
        | none => s
        | some .loc =>
          let s := setCount s (liveReg64 s rBEAT_LOAD)
          { s with beat := lockOn .loc 0 s.beat }
        | some x => { s with beat := { s.beat with acq := some { q with taken := some x } } }

/-- R243: the next edge of the phase accumulator, in 1/256 cycle. -/
def nextAcc (s : State) : Nat := s.beat.acc + beatPeriod s

/-- R249, R240, R243: the absolute cycle of the edge that the engine predicts for the end of its Beat. -/
def nextEdge (s : State) : Nat := if s.beat.active == .loc then s.beat.start + 4096 else nextAcc s / 256

/-- R318: the Beat blocks that the block sends at (b, 0) on every port that is UP, the two groups of the twin port among them. Ports come UP from phase 8 of start-up
on, before CFG_DONE (DEDUCED, log 70). -/
def postBlocks (s : State) : State :=
  ((List.range s.build.nbraid) ++ [16, 17]).foldl (fun s p =>
    if (getPort s p).st == 2 then post s (.block p (beatBlockBytes s p)) else s) s

/-- R246: this boundary is the start of the acquisition: ACQUISITION_START follows. -/
def acqDue (s : State) : Bool := match s.beat.acq with | some q => q.due | none => false

/-- The Beat blocks of (b, 0) go out once all that takes effect there has (R10, R249): after the apply and the start of an acquisition, where they
are due. -/
def sayBeat (s : State) : State := if s.beat.applyDue || acqDue s then s else postBlocks s

/-- R249: with OUTEN set, and not in ACQUIRING nor before CFG_DONE (R359), BEAT_OUT rises OUT_ADV cycles before the edge that the engine predicts for the end of
its Beat, with the symbol of the Beat that follows. -/
def driveOut (s : State) : State :=
  if bitsOf (beatSrc s) 12 1 == 1 && s.beat.st != .acquiring && s.cfgDone then
    post s (.pin (nextEdge s - bitsOf (liveReg s rBEAT_COMP).toNat 8 8) (pinSymbol (s.beat.b.toNat + 1)))
  else s

/-- R246 at a boundary: an acquisition asked for stops every launch from here on, and starts here where no Segment runs. -/
def noteAcq (s : State) : State :=
  { s with beat := { s.beat with acq := s.beat.acq.map (fun q =>
    { q with stop := true, due := q.a.isNone && !s.parts.any (fun p => p.2.seg.isSome) }) } }

/-- An edge of the Beat unit: the Beat ends after `len` cycles, the unit being then as `pre` says and going on as `f` says, and the next Beat is told to the
outside (R249). -/
def turn (pre f : BeatSt → BeatSt) (s : State) (len : Nat) : State :=
  let s := driveOut s
  let s := acquire (newBeat { s with beat := pre s.beat } len)
  sayBeat (noteAcq { s with beat := f s.beat })

/-- BEAT_BOUNDARY_APPLY (R16): at (b + 1, 0) the captured values take effect together. -/
def execBeatBoundaryApply (s : State) : Host.Outcome State Fault Refusal :=
  if s.beat.applyDue && atEdge s then .next (sayBeat (applyAll s)) else .next s

/-- BEAT_CTL.ACQUIRE (R246). -/
def execBeatCtlAcquire (f : Func) (w : WrVal) (s : State) : Host.Outcome State Fault Refusal :=
  if !pfOn s f || !fullWr w || !w.v.getLsbD 0 || s.beat.st == .acquiring then .next s
  else .next { s with beat := { s.beat with st := .acquiring, acq := some ⟨false, false, none, none, none, none⟩ } }

/-- ACQUISITION_START (R246, R328): at the first boundary after the request at which no Segment runs. Link keys, offered ones too, and the twin key are
erased. -/
def execAcquisitionStart (s : State) : Host.Outcome State Fault Refusal :=
  match s.beat.acq with
  | none => .next s
  | some q =>
    if !atEdge s || !q.due then .next s
    else .next (sayBeat (acquire { s with
      beat := { s.beat with acq := some { q with due := false, a := some s.beat.b } }, twin := { s.twin with key := none },
      parts := smMap emptyPart s.parts (fun _ x => { x with link := none }),
      ports := smMap emptyPort s.ports (fun _ x => { x with offer := none }) }))

/-- ACQUISITION_TIMEOUT (R246): 1,024 Beats without a source taken. -/
def execAcquisitionTimeout (s : State) : Host.Outcome State Fault Refusal :=
  match s.beat.acq with
  | some ⟨_, _, some a, _, _, none⟩ =>
    if (s.beat.b - a).toNat < 1024 then .next s
    else .next (note { s with beat := { s.beat with st := .lost, acq := none } } ⟨.beatLost, 0, s.now⟩ none)
  | _ => .next s

/-! ### Edges (R241 to R245) -/

/-- The cycle of an edge seen in cycle c (R240, R241): for the pin its sampling less IN_COMP; for a marker the edge that it implied, if it is this one (R239);
4,096 for the local source. -/
def edgeCycle (s : State) (src : BSrc) (c : Nat) : Option Nat :=
  match src with
  | .pin => some (c - bitsOf (liveReg s rBEAT_COMP).toNat 0 8)
  | .loc => some 4096
  | .marker => match s.beat.mark with
    | some (e, _) => if e == c then some e else none
    | none => none
  | .none => none

/-- The hop count that a source brings (R239). -/
def markHops (s : State) (src : BSrc) : Nat :=
  match src, s.beat.mark with
  | .marker, some (_, h) => h
  | _, _ => 0

/-- An accepted edge is measured (R241, R243). -/
def measure (e : Nat) (x : BeatSt) : BeatSt := { x with lens := (e :: x.lens).take 256, edgeoff := (e : Int) - 4096 }

/-- The Beat ends on an accepted edge, from which the accumulator restarts; `f` is what the unit then becomes. -/
def acceptEdge (f : BeatSt → BeatSt) (s : State) (e : Nat) : State :=
  turn (measure e) (fun x => f { x with acc := x.start * 256 }) s e

/-- HOLDCNT after one more Beat of a hold-over (R244). -/
def countHold (x : BeatSt) : BeatSt := if x.st == .holdover then { x with holdcnt := min 1024 (x.holdcnt + 1) } else x

/-- R244: `src` is configured after the source in use in the order of BEAT_SRC. -/
def lowerPref (s : State) (src : BSrc) : Bool := ((sources s).dropWhile (fun x => x != s.beat.active)).tail.contains src

/-- The consecutive edges of another source up to this Beat (R244). -/
def altCount (x : BeatSt) (src : BSrc) : Nat := match x.alt.find? (fun a => a.1 == src) with | some a => a.2 | none => 0

/-- R244: an edge of a lower-preference source in the window, while the active one delivers none: its fourth in consecutive Beats is accepted. -/
def altEdge (s : State) (src : BSrc) (e : Nat) : State :=
  let n := altCount s.beat src + 1
  if !lowerPref s src || s.beat.altHit.contains src then s
  else if n ≥ 4 then acceptEdge (lockOn src (markHops s src)) s e
  else { s with beat := { s.beat with alt := (src, n) :: s.beat.alt.filter (fun a => a.1 != src), altHit := src :: s.beat.altHit } }

/-- R244: an edge of the active source in HOLDOVER. -/
def holdEdge (s : State) (e : Nat) : State :=
  if s.beat.good + 1 ≥ 4 then acceptEdge (lockOn s.beat.active s.beat.hops) s e
  else acceptEdge id { s with beat := { countHold s.beat with good := s.beat.good + 1, alt := [], altHit := [] } } e

/-- R246: the count of the Beat that begins at the edge of a source in cycle e, as that source delivered it: the pin's frame advanced by its edges since; the
marker's moved by whole nominal Beats from the edge it implied. With it, the hop count. -/
def edgeCount (s : State) (q : Acq) (src : BSrc) (e : Nat) : Option (W64 × Nat) :=
  match src with
  | .pin => q.pin.map (fun n => (n, 0))
  | .marker => q.marker.map (fun (n, at_, h) => (n + BitVec.ofInt 64 (((s.beat.start + e : Nat) - at_ + 2048) / 4096), h))
  | _ => none

/-- R246: the first edge of a source that was taken: count and phase are set from it. -/
def acquireEdge (s : State) (q : Acq) (src : BSrc) (e : Nat) : State :=
  match edgeCount s q src e with
  | some (n, hops) =>
    let s := setCount (newBeat s e) n
    sayBeat { s with beat := lockOn src hops s.beat }
  | none => s

/-- R246: a pin edge in an acquisition begins the next Beat of the pin's count. -/
def countPin (s : State) (src : BSrc) : State :=
  if src != .pin then s
  else { s with beat := { s.beat with acq := s.beat.acq.map (fun q => { q with pin := q.pin.map (· + 1) }) } }

/-- R244: an edge in HOLDOVER; any source's outside the window sets OUTWIN and is not taken. -/
def holdoverSees (s : State) (src : BSrc) (e : Nat) : State :=
  if !(sources s).contains src && src != s.beat.active then s
  else if e < 4064 || e > 4127 then { s with beat := { s.beat with outwin := true } }
  else if src == s.beat.active then holdEdge s e
  else altEdge s src e

/-- R242: an early edge in LOCKED is discarded: BEAT_EARLY and HOLDOVER at once. -/
def earlyEdge (s : State) (e : Nat) : State :=
  note { s with beat := { s.beat with st := .holdover, early := true, good := 0, alt := [], altHit := [] } }
    ⟨.beatEarly, 0, s.beat.start + e⟩ none

/-- BEAT_EDGE (R241, R242, R244): an edge of a source in cycle c of this Beat. -/
def execBeatEdge (src : BSrc) (c : Nat) (s : State) : Host.Outcome State Fault Refusal :=
  match edgeCycle s src c with
  | none => .next s
  | some e =>
    let inWin := decide (4064 ≤ e) && decide (e ≤ 4127)
    match s.beat.st with
    | .locked =>
      if src != s.beat.active || e > 4127 then .next s
      else if inWin then .next (acceptEdge id s e)
      else .next (earlyEdge s e)
    | .holdover => .next (holdoverSees s src e)
    | .acquiring =>
      match s.beat.acq with
      | some q =>
        if e > 4127 then .next s
        else if q.taken == some src then .next (acquireEdge s q src e)
        else if src == s.beat.active && inWin then .next (acceptEdge id (countPin s src) e)
        else .next (countPin s src)
      | none => .next s
    | .lost => .next s

/-- BEAT_EDGE_TIMEOUT (R243): no edge by cycle 4,127. The local source never misses one (R240). -/
def execBeatEdgeTimeout (s : State) : Host.Outcome State Fault Refusal :=
  if s.beat.active == .loc then .next s
  else match s.beat.st with
    | .locked =>
      .next (turn (fun x => countHold { x with st := .holdover, acc := nextAcc s, good := 0, alt := [], altHit := [] }) id s 4128)
    | .acquiring => .next (turn (fun x => { x with acc := nextAcc s }) id s 4128)
    | _ => .next s

/-- HOLDOVER_EDGE (R243, R245): the accumulator ends a Beat that no edge ended, its length clamped to 4,064 to 4,128 cycles. -/
def execHoldoverEdge (s : State) : Host.Outcome State Fault Refusal :=
  if s.beat.st == .locked || s.beat.active == .loc && s.beat.st == .acquiring then .next s
  else
    let a := nextAcc s
    let len := max 4064 (min 4128 (a / 256 - s.beat.start))
    let pre (x : BeatSt) : BeatSt := countHold { x with acc := a, good := 0, alt := x.alt.filter (fun y => x.altHit.contains y.1), altHit := [] }
    .next (turn pre id s len)

/-- BEAT_LOST (R245): HOLDCNT has reached 1,024. -/
def execBeatLost (s : State) : Host.Outcome State Fault Refusal :=
  if s.beat.st == .holdover && s.beat.holdcnt ≥ 1024 then
    .next (note { s with beat := { s.beat with st := .lost } } ⟨.beatLost, 0, s.now⟩ none)
  else .next s

/-! ### Counts (R238, R246, R247, R318) -/

/-- R247: a count difference in LOCKED. -/
def countDiffers (s : State) : State := note { s with beat := { s.beat with cnterr := true } } ⟨.beatCount, 0, s.now⟩ none

/-- PIN_FRAME (R238, R246, R247): a complete frame, given by how many cycles the signal stayed high in each of its Beats; the last of them is this
Beat (log 7). -/
def execPinFrame (first : Nat) (rest : List Nat) (s : State) : Host.Outcome State Fault Refusal :=
  match (if rest.length == 127 then frameCount ((first :: rest).map symbolOf) else none) with
  | none => .next s
  | some n =>
    let cnt := BitVec.ofNat 64 n
    let own := s.beat.b - 127
    match s.beat.st with
    | .acquiring => match s.beat.acq with
      | some q =>
        if q.a.isSome && q.taken.isNone && (sources s).contains .pin then
          .next { s with beat := { s.beat with acq := some { q with pin := some (cnt + 128) } } }
        else .next s
      | none => .next s
    | .locked => if cnt != own then .next (countDiffers s) else .next s
    | _ => .next s

/-- The engine's own Beat in which a Beat block that arrives in cycle c was sent: its implied edge is the nearest Beat edge (R318). -/
def blockBeat (s : State) (delay c : Nat) : W64 := s.beat.b + BitVec.ofInt 64 (((c : Int) - delay + 2048) / 4096)

/-- R239, R318: the cycle of this Beat, or of the next one beyond 4,127, at which the edge lies that a marker arriving in cycle c implies: its arrival less the delay,
moved by whole nominal Beats to the edge that ends this Beat (log 7). -/
def impliedEdge (delay c : Nat) : Nat :=
  let x := (c + 16384 - delay % 16384) % 4096
  if x < 2048 then x + 4096 else x

/-- R246: a marker heard in an acquisition: the first that carries b[63:16] delivers the source; each one that follows brings its own implied edge, whose count
is the one carried on by whole nominal Beats, and its hop count. -/
def hearMarker (q : Acq) (at_ : Int) (long : Bool) (cnt : W64) (hops : Nat) : Acq :=
  if long then { q with marker := some (cnt, at_, hops) }
  else { q with marker := q.marker.map (fun (n, t, _) => (n + BitVec.ofInt 64 ((at_ - t + 2048) / 4096), at_, hops)) }

/-- A marker of the upstream port (R239, R246, R247) that arrived in cycle c; `own` is the engine's own Beat in which it was sent. -/
def takeMarker (s : State) (delay c : Nat) (own : W64) (bytes : List Byte) : State :=
  let hops := bitsOf (leNat (bytes.drop 1)) 0 4
  let long := bitsOf (leNat (bytes.take 1)) 1 1 == 1
  let lo := leNat ((bytes.drop 2).take 2)
  let cnt := BitVec.ofNat 64 (lo + 65536 * leNat ((bytes.drop 4).take 6))
  let follow (s : State) : State := if s.beat.active == .marker then { s with beat := { s.beat with hops := hops } } else s
  match s.beat.st with
  | .acquiring => match s.beat.acq with
    | some q =>
      if q.a.isSome && (sources s).contains .marker then
        { s with beat := { s.beat with acq := some (hearMarker q ((s.beat.start + c : Nat) - delay) long cnt hops) } }
      else s
    | none => s
  | .locked =>
    let s := follow s
    if lo != own.toNat % 65536 || (long && cnt != own) then countDiffers s else s
  | .holdover => follow s
  | .lost => s

/-- BEAT_BLOCK (R318, R327): a Beat block received on a port in cycle c; `offer` is the key offer that its management bytes complete. One
whose CRC fails is discarded, a marker of hop count 0 is malformed. The frames that follow it are of its Beat. -/
def execBeatBlock (port c : Nat) (bytes : List (BitVec 8)) (offer : Option LinkKey) (s : State) :
    Host.Outcome State Fault Refusal :=
  let x := getPort s port
  if port ≥ s.build.nbraid || x.st != 2 || bytes.length != 64 then .next s
  else
    let own := blockBeat s x.delay c
    let s := modPort s port (fun x => { x with rxB := own })
    if crc32c (bytes.take 60) != BitVec.ofNat 32 (leNat (bytes.drop 60)) then .next s
    else
      let s := match offer with
        | some k => modPort s port (fun x => { x with offer := some k })
        | none => s
      let hops := bitsOf (leNat (bytes.drop 1)) 0 4
      if bitsOf (leNat (bytes.take 1)) 0 1 == 1 && bitsOf (beatSrc s) 8 4 == port && hops != 0 then
        .next (takeMarker { s with beat := { s.beat with mark := some (impliedEdge x.delay c, hops) } } x.delay c own bytes)
      else .next s

end Sys2Proof.Machine
end

