-- ==== Sys2Proof/Machine/Owner.lean ====
section
/-!
DEFINITION. Owner.lean: what takes effect at a Beat boundary for partitions, cores, banks, ports and slots: OWNER_GRANT, OWNER_RELEASE
(R307, R308), CORE_MOVE (R153), BANK_POWER_CHANGE and BANK_WAKE_DONE (R149, R151), PORT_BIND_EFFECT (R320), SLOT_BIND_EFFECT (R344),
FIELD_REMAP (R147).
-/

namespace Sys2Proof.Machine

/-! ### Owners -/

/-- OWNER_GRANT (R307): OEPOCH increments and the TRNG draws the slot's keys during the Beat that begins. -/
def execOwnerGrant (p : Nat) (s : State) : Host.Outcome State Fault Refusal :=
  let x := getPart s p
  if !atEdge s || !x.grant || x.release || x.keySt != .empty then .next s
  else .next { modPart s p (fun x => { x with
    grant := false, oepoch := x.oepoch + 1, keySt := .drawing, key := s.nextKey, drawn := s.beat.b }) with nextKey := s.nextKey + 1 }

/-- OWNER_RELEASE (R308 steps 1 to 4, R328): the queues of the partition's contexts that are not resident stop too; no Segment runs and no stack write is in flight; OEPOCH increments, the slot is ZEROISING
and its link key is erased, with what peers offer on its ports. -/
def execOwnerRelease (r : WithQs Nat) (s : State) : Host.Outcome State Fault Refusal :=
  let p := r.on
  let x := getPart s p
  if !atEdge s || !x.release || x.seg.isSome || storesOut s p || x.keySt != .live then .next s
  else
    let s := resetFoundOf s p r.qs
    let s := { s with ports := smMap emptyPort s.ports (fun _ y => if y.part == p then { y with offer := none } else y) }
    .next (modPart s p (fun x => { x with release := false, oepoch := x.oepoch + 1, keySt := .zeroising, key := 0, link := none }))

/-! ### Rows written over -/

/-- R387: something happened to rows of the partition's resident ranges on a core that a test picks by row. -/
def loseRes (s : State) (core : Nat) (hit : Nat → Bool) : State :=
  match (getCore s core).holder with
  | none => s
  | some p => modPart s p (fun x => { x with res := x.res.map (fun r =>
      if r.rngs.any (fun g => g.1 == core && (List.range g.2.2).any (fun k => hit (g.2.1 + k))) then { r with ok := false } else r) })

/-- Every row of a core whose bank a test picks becomes zero, its tag zero, not pending, and free of errors (R151, R153). -/
def zeroRows (s : State) (core : Nat) (bank : Nat → Bool) : State :=
  let out (g : Nat) : Bool := g / 65536 == core && bank (g % 32)
  { s with spad := s.spad.filter (fun e => !out (e.1 / 128)), rows := s.rows.filter (fun e => !out e.1),
           errs := s.errs.filter (fun e => !out (e.1 / 4)) }

/-! ### Cores (R153) -/

/-- CORE_MOVE: at a boundary at which the old partition runs no Segment and the core has no landing in flight. The core zeroes its rows
in this Beat and joins its new partition at the next boundary. A bank that is not ON serves no read before it is zero (R151). -/
def execCoreMove (core : Nat) (s : State) : Host.Outcome State Fault Refusal :=
  let c := getCore s core
  let busy := match c.holder with | some p => (getPart s p).seg.isSome | none => false
  if !atEdge s || core ≥ s.build.ncore || c.moving || coreTarget s core == c.holder || busy || s.lands.any (fun l => l.core == core) then
    .next s
  else
    let s := loseRes s core (fun _ => true)
    let s := zeroRows s core (fun _ => true)
    let s := modCore s core (fun x => { x with holder := none, moving := true })
    .next (match c.holder with | some p => syncPart s p | none => s)

/-! ### Banks (R149, R151) -/

/-- The content of a bank that lost it: free values (Table 6.5). -/
def lostRows (s : State) (core bank : Nat) : State :=
  (List.range (s.build.spadKib / 4)).foldl (fun s k =>
    let g := core * 65536 + 32 * k + bank
    { s with spad := memWrite s.spad (g * 128) ((List.range 128).map (Config.lostByte s.beat.b.toNat g)),
             rows := smSet emptyRow s.rows g { getRow s g with tag := (Config.lostByte s.beat.b.toNat g 128).truncate 4 } }) s

/-- BANK_POWER_CHANGE: a captured change takes effect at a boundary at which the bank has no landing in flight. -/
def execBankPowerChange (core bank : Nat) (s : State) : Host.Outcome State Fault Refusal :=
  let c := getCore s core
  let now := smGet .on c.bank bank
  if !atEdge s || s.lands.any (fun l => l.core == core && bankOf l.local_ == bank && !l.dark) then .next s
  else match smGet none c.want bank with
    | none => .next s
    | some t =>
      let set (b : Bank) (s : State) : State :=
        modCore s core (fun x => { x with bank := smSet .on x.bank bank b, want := smSet none x.want bank none,
                                          wake := smSet 0 x.wake bank s.beat.b })
      match t, now with
      | .on, .off => .next (set .waking (zeroRows s core (fun k => k == bank)))
      | .retain, .off => .next (set .retain (lostRows s core bank))
      | .off, _ => .next (set .off (loseRes s core (fun r => r % 32 == bank)))
      | t, _ => .next (set t s)

/-- BANK_WAKE_DONE: a WAKING bank is ON at the boundary after the one at which it began to wake. -/
def execBankWakeDone (core bank : Nat) (s : State) : Host.Outcome State Fault Refusal :=
  let c := getCore s core
  if !atEdge s || smGet .on c.bank bank != .waking || smGet 0 c.wake bank == s.beat.b then .next s
  else .next (modCore s core (fun x => { x with bank := smSet .on x.bank bank .on }))

/-! ### Bindings (R320, R344) -/

/-- Neither partition of a change of binding runs a Segment. -/
def quietParts (s : State) (p q : Nat) : Bool := (getPart s p).seg.isNone && (getPart s q).seg.isNone

/-- PORT_BIND_EFFECT: applied EN and PART of a port take effect. A port whose EN is cleared goes DOWN, reason 8 (Table 13.11). -/
def execPortBindEffect (port : Nat) (s : State) : Host.Outcome State Fault Refusal :=
  let v := (liveReg s (rBRD port 0)).toNat
  let x := getPort s port
  let en := bitsOf v 0 1 == 1
  let p := bitsOf v 2 4
  if !atEdge s || port ≥ s.build.nbraid || !quietParts s x.part p || (x.en == en && x.part == p) then .next s
  else .next (modPort s port (fun x =>
    let x := { x with en := en, part := p }
    if en then x else { x with st := 0, width := 0, reason := 8, train := none }))

/-- SLOT_BIND_EFFECT: the applied binding of a slot takes effect. -/
def execSlotBindEffect (slot : Nat) (s : State) : Host.Outcome State Fault Refusal :=
  let v := (liveReg s (rSLT slot 0)).toNat
  let x := getSlt s slot
  let p := bitsOf v 1 4
  if !atEdge s || slot ≥ s.build.nslot || !quietParts s x.part p then .next s
  else .next (modSlt s slot (fun x => { x with en := bitsOf v 0 1 == 1, part := p, core := bitsOf v 5 6 }))

/-! ### Field remap (R147) -/

/-- DETAIL of a record about a row: its Global Scratchpad Address. -/
def rowDetail (core bank lrow : Nat) : Nat := scratchDetail core (lrow * 4096 + bank * 128) 0 0 0

/-- R147 step 5, R375: the remap is appended by a leader, told to the driver by a follower. -/
def saveRemap (s : State) (core bank lrow : Nat) (ok : Bool) : State :=
  let pos := match s.boot.fuses with | some f => f.cfgpos | none => 0
  let leader := match s.boot.fuses with | some f => f.leader | none => false
  let e : RepEnt := ⟨1, core, bank, lrow, s.mc.seq, true⟩
  if !leader then noteCore s ⟨.repairUnsaved, unsavedDetail e, s.now⟩ core
  else match (if ok then appendRep s pos e else none) with
    | some s' => { s' with mc := { s'.mc with seq := s'.mc.seq + 1 } }
    | none => noteCore s ⟨.repairAppend, 0, s.now⟩ core

/-- R147 step 3: the read of a row that is copied to its spare, Granule by Granule: a correctable one is corrected, with its record. -/
def copyGran (g d core : Nat) (s : State) (k : Nat) : State :=
  if (granErr s g k).n == 1 then
    noteCore { s with errs := smSet noErr s.errs (g * 4 + k) noErr } ⟨.granuleCe, d + 32 * k, s.now⟩ core
  else s

/-- R147: an uncorrectable row leaves a spare that every read finds uncorrectable, and raises GRANULE_UE. -/
def spoilRow (g d core : Nat) (s : State) : State :=
  noteCore { s with errs := (List.range 4).foldl (fun m k => smSet noErr m (g * 4 + k) ⟨2, 0, 0⟩) s.errs } ⟨.granuleUe, d, s.now⟩ core

/-- A staged remap can take effect: its partition runs no Segment and its bank has no landing in flight. -/
def remapFree (s : State) (r : Nat × Nat × Nat × Nat) : Bool :=
  (match (getCore s r.1).holder with | some p => (getPart s p).seg.isNone | none => true)
    && !s.lands.any (fun l => l.core == r.1 && bankOf l.local_ == r.2.1)

/-- FIELD_REMAP: at a boundary the first staged remap that can takes effect; `appendOk` says that flash took the entry. -/
def execFieldRemap (appendOk : Bool) (s : State) : Host.Outcome State Fault Refusal :=
  match (if atEdge s && mcUp s then s.mc.remap.find? (remapFree s) else none) with
  | none => .next s
  | some (core, bank, i, lrow) =>
    let g := core * 65536 + 32 * lrow + bank
    let d := rowDetail core bank lrow
    let ue := (List.range 4).any (fun k => (granErr s g k).n == 2 || (granErr s g k).n == 3)
    let s := (List.range 4).foldl (copyGran g d core) s
    let s := if ue then spoilRow g d core s else s
    let s := { s with mc := { s.mc with remap := s.mc.remap.filter (· != (core, bank, i, lrow)), repair := s.mc.repair ++ [(core, bank, i, lrow)] },
                      rows := smSet emptyRow s.rows g { getRow s g with pend := 0 } }
    .next (saveRemap (noteCore s ⟨.fieldRemap, d, s.now⟩ core) core bank lrow appendOk)

end Sys2Proof.Machine
end

