-- ==== Sys2Proof/Machine/Faults.lean ====
section
/-!
DEFINITION. Faults.lean: the MC's reading of records, the ring writer and FAULT_N (R147, R148, R396 to R401, R406), scrubbing (R403,
R404), thermal stop (R407 to R409), the watchdog (R410), Function Level Reset and power states (R264).
-/

namespace Sys2Proof.Machine

/-! ### The MC reads records (R147, R396, R399, R406) -/

/-- The threshold of R147, from the parameter block; 4 by default. -/
def ceThr (s : State) : Nat := match s.boot.params with | some p => if p.cethr == 0 then 4 else p.cethr | none => 4

/-- A record of Beat `b` still counts (R147, R406). -/
def recent (s : State) (b : W64) : Bool := (s.beat.b - b).toNat ≤ 2 ^ 20

/-- The remaps of a bank that are staged or whose rows are being copied. -/
def remapsOf (s : State) (core bank : Nat) : List (Nat × Nat × Nat × Nat) :=
  (s.mc.remap ++ s.mc.repair).filter (fun r => r.1 == core && r.2.1 == bank)

/-- The lowest free remap entry of a bank. -/
def freeRemap (s : State) (core bank : Nat) : Option Nat :=
  (List.range 32).find? (fun i =>
    (smGet none (getCore s core).remap (32 * bank + i)).isNone && !(remapsOf s core bank).any (fun r => r.2.2.1 == i))

/-- A row of a bank has a spare, or is about to have one (log 62). -/
def hasSpare (s : State) (core bank lrow : Nat) : Bool :=
  (List.range 32).any (fun i => match smGet none (getCore s core).remap (32 * bank + i) with | some r => r.lrow == lrow | none => false)
    || (remapsOf s core bank).any (fun r => r.2.2.2 == lrow)

/-- R148: a row at the threshold in a bank without a free entry. -/
def exhausted (s : State) (core bank lrow : Nat) : State :=
  noteCore (modCore s core (fun c => { c with degraded := c.degraded ||| (1 <<< bank) })) ⟨.repairExhausted, rowDetail core bank lrow, s.now⟩ core

/-- R147, R148: `n` occurrences of GRANULE_CE on a row, the last in Beat b. A row that reaches the threshold is to be remapped to the bank's lowest free
entry. -/
def countRow (s : State) (core bank lrow n : Nat) (b : W64) : State :=
  let g := core * 65536 + 32 * lrow + bank
  let old := (smGet [] s.mc.rowCe g).filter (recent s)
  let new := old ++ List.replicate n b
  let s := { s with mc := { s.mc with rowCe := smSet [] s.mc.rowCe g new } }
  if new.length < ceThr s || hasSpare s core bank lrow then s
  else match freeRemap s core bank with
    | some i => { s with mc := { s.mc with remap := s.mc.remap ++ [(core, bank, i, lrow)], rowCe := smSet [] s.mc.rowCe g [] } }
    | none => if old.length ≥ ceThr s then s else exhausted s core bank lrow

/-- Port and channel of a Granule address (R289; log 31). -/
def stkPlace (s : State) (g : Nat) : Nat × Nat :=
  let p := g % stackP s.build
  (p / 64, p % 64 / 2)

/-- R406: `n` occurrences of STACK_CE of one bit. -/
def countLane (s : State) (d n : Nat) (b : W64) : State :=
  let g := bitsOf d 0 35
  let sym := bitsOf d 35 6
  let mag := bitsOf d 42 8
  match (List.range 8).find? (fun k => mag == 2 ^ k) with
  | none => s
  | some bit =>
    let (port, ch) := stkPlace s g
    let key := ((port * 32 + ch) * 36 + sym) * 8 + bit
    let new := (smGet [] s.mc.laneCe key).filter (fun x => recent s x.1) ++ List.replicate n (b, g)
    if new.length < ceThr s || (new.map Prod.snd).eraseDups.length < 2 then
      { s with mc := { s.mc with laneCe := smSet [] s.mc.laneCe key new } }
    else
      let s := { s with mc := { s.mc with laneCe := smSet [] s.mc.laneCe key [] } }
      let e : RepEnt := ⟨3, port, ch, 8 * sym + bit, s.mc.seq, true⟩
      let pos := match s.boot.fuses with | some f => f.cfgpos | none => 0
      let leader := match s.boot.fuses with | some f => f.leader | none => false
      let s := if !leader then note s ⟨.repairUnsaved, unsavedDetail e, s.now⟩ none
        else match appendRep s pos e with
          | some s' => { s' with mc := { s'.mc with seq := s'.mc.seq + 1 } }
          | none => note s ⟨.repairAppend, 0, s.now⟩ none
      note s ⟨.stackLane, d, s.now⟩ none

/-- R301: the MC restores both entries of a table Granule that is still in error from its copy, by staging and a flip, waiting for free slots. -/
def restoreExt (s : State) (idx : Nat) : State :=
  if (smGet noErr s.ext.errs (idx / 2)).n < 2 then s
  else [idx / 2 * 2, idx / 2 * 2 + 1].foldl (fun s i =>
    if i == 0 then s else stageOrWait s i (smGet emptyExt s.ext.copy i) true) s

/-- What a record asks of the MC. -/
def mcCount (s : State) (r : FRec) : State :=
  if r.code == FCode.granuleCe.code then
    let a := bitsOf r.detail 0 29
    countRow s (a / 2 ^ 23) (a / 128 % 32) (a % 2 ^ 23 / 4096) (1 + r.rep) r.beat
  else if r.code == FCode.stackCe.code then countLane s r.detail (1 + r.rep) r.beat
  else if r.code == FCode.extUe.code then restoreExt s (bitsOf r.detail 0 19)
  else s

/-- The MC has not read a record yet (R396). -/
def unread (s : State) (r : FRec) : Bool := reached r.seq s.flt.mcNext

/-- MC_RECORD_READ: the running MC reads the next record of the buffer, keeps a copy (R399) and counts it. -/
def execMcRecordRead (s : State) : Host.Outcome State Fault Refusal :=
  match s.flt.buf.find? (unread s) with
  | none => .next s
  | some r =>
    if !mcUp s then .next s
    else
      let kept := s.flt.retained ++ [r]
      .next (mcCount { s with flt := { s.flt with mcNext := r.seq + 1, retained := kept.drop (kept.length - 64) } } r)

/-! ### The ring (R398) -/

/-- The 64 bytes of a record (Table 17.3). -/
def recBytes (r : FRec) : List Byte :=
  natLe 2 r.code ++ natLe 1 (r.sev + flag r.loc 2 + flag r.retained 3 + r.rep * 16)
    ++ natLe 1 (match r.part with | some p => p + 16 | none => 0) ++ natLe 4 r.seq.toNat ++ natLe 2 r.context
    ++ natLe 1 r.core ++ natLe 1 r.strm ++ natLe 4 r.dix.toNat ++ natLe 8 r.progid.toNat
    ++ (List.range 4).flatMap (fun l => natLe 4 (r.loops.getD l 0).toNat) ++ natLe 8 r.beat.toNat ++ natLe 2 r.cycle
    ++ natLe 4 r.pc.toNat ++ natLe 1 r.dfmt ++ natLe 9 r.detail

/-- RING_WRITE: the oldest record goes to the ring, where it has room, and the vector is raised unless it has been since the last write
of FLT_HEAD. A record that the MC has not read is missed by it (R396). A twin writes no host memory (R336): its records wait in the buffer. -/
def execRingWrite (s : State) : Host.Outcome State Fault Refusal :=
  let c := (liveReg s rFLT_CTL).toNat
  let n := 2 ^ bitsOf c 1 4
  match s.flt.buf with
  | [] => .next s
  | r :: rest =>
    if twinSide s || bitsOf c 0 1 == 0 || (r.seq - s.flt.head).toNat ≥ n then .next s
    else
      let miss := unread s r
      let s1 := pfWrite s (liveReg64 s rFLT_BASE + BitVec.ofNat 64 (64 * (r.seq.toNat % n))) (recBytes r)
      let s2 := if s.flt.vecUp then s1 else post s1 (.msix 0 (bitsOf c 8 8))
      .next { s2 with flt := { s2.flt with
        buf := rest, tail := r.seq + 1, vecUp := true, mcMiss := if miss then min 65535 (s.flt.mcMiss + 1) else s.flt.mcMiss,
        mcNext := if miss then r.seq + 1 else s.flt.mcNext } }

/-- FLT_HEAD write (R398): a value ahead of FLT_TAIL is taken as FLT_TAIL. -/
def execFltHeadWrite (f : Func) (w : WrVal) (s : State) : Host.Outcome State Fault Refusal :=
  if !pfOn s f || !fullWr w then .next s
  else .next { s with flt := { s.flt with head := if reached w.v s.flt.tail then s.flt.tail else w.v, vecUp := false } }

/-- FLT_SUMMARY.FAULTN write of 1 (R401): ignored in thermal stop and while the MC is dead. -/
def execFaultnClear (f : Func) (s : State) : Host.Outcome State Fault Refusal :=
  if !pfOn s f || s.therm.stop.isSome || s.mc.dead then .next s
  else .next { s with flt := { s.flt with faultn := false, low := false } }

/-! ### Scrubbing (R403, R404) -/

/-- The logical rows that a bank's scrub steps through: every row, then the rows of its valid spares. -/
def scrubRows (s : State) (core bank : Nat) : Nat :=
  s.build.spadKib / 4 + ((List.range 32).filter (fun i => (smGet none (getCore s core).remap (32 * bank + i)).isSome)).length

/-- The row at place k of that order. -/
def scrubAt (s : State) (core bank k : Nat) : Nat :=
  let r := s.build.spadKib / 4
  if k < r then k
  else (((List.range 32).filterMap (fun i => smGet none (getCore s core).remap (32 * bank + i))).map Remap.lrow).getD (k - r) 0

/-- The scrub of one Granule at cycle t. -/
def scrubGran (core bank lrow t : Nat) (s : State) (q : Nat) : State :=
  let g := core * 65536 + 32 * lrow + bank
  let e := granErr s g q
  let d := scratchDetail core (lrow * 4096 + bank * 128 + 32 * q) 0 0 9
  if e.n == 1 then
    let cancel := (getRow s g).uses.any (fun u => t ≤ u.1 && u.1 ≤ t + 3 && (match u.2 with | .land _ _ => true | _ => false))
    let s := noteCore s ⟨.granuleCe, d, t⟩ core
    if cancel then s
    else { s with errs := smSet noErr s.errs (g * 4 + q) noErr, scrub := { s.scrub with fixed := (g * 4 + q, e) :: s.scrub.fixed } }
  else if e.n == 2 || e.n == 3 then noteCore s ⟨.scrubUe, d, t⟩ core
  else s

/-- The scrub of one bank at cycle t: its next row, unless pending. -/
def scrubBank (t : Nat) (s : State) (cb : Nat) : State :=
  let core := cb / 32
  let bank := cb % 32
  if smGet .on (getCore s core).bank bank != .on then s
  else
    let k := smGet 0 s.scrub.banks cb % scrubRows s core bank
    let lrow := scrubAt s core bank k
    let s := { s with scrub := { s.scrub with banks := smSet 0 s.scrub.banks cb ((k + 1) % scrubRows s core bank) } }
    if (rowView s (core * 65536 + 32 * lrow + bank) t).pend > 0 then s
    else (List.range 4).foldl (scrubGran core bank lrow t) s

/-- The scrub of one Extent Table Granule (R301, R403). -/
def scrubExt (t : Nat) (s : State) : State :=
  let k := s.scrub.ext
  let e := smGet noErr s.ext.errs k
  let s := { s with scrub := { s.scrub with ext := (k + 1) % 262144 } }
  if e.n == 1 then
    note { s with ext := { s.ext with errs := smSet noErr s.ext.errs k noErr } } ⟨.extCe, k * 2 ^ 16, t⟩ none
  else if e.n == 2 || e.n == 3 then note s ⟨.extUe, (mkHandle (2 * k) (extAt s (2 * k)).gen).toNat, t⟩ none
  else s

/-- The scrub of one code-store Granule of a core: 512 KiB are 16,384 Granules (R229, R403). -/
def scrubCode (s : State) (core : Nat) : State :=
  let k := smGet 0 s.scrub.code core
  let s := { s with scrub := { s.scrub with code := smSet 0 s.scrub.code core ((k + 1) % 16384) } }
  modCore s core (fun c => if (smGet noErr c.codeErr k).n == 1 then { c with codeErr := smSet noErr c.codeErr k noErr } else c)

/-- SCRUB_ROW (R403): the work of cycle 4,048 of this Beat, once, whatever later cycle of the Beat a command has reached. -/
def execScrubRow (s : State) : Host.Outcome State Fault Refusal :=
  let t := s.beat.start + 4048
  if s.scrub.last == some s.beat.b then .next s
  else
    let s := { s with scrub := { s.scrub with last := some s.beat.b, fixed := [] } }
    let s := (List.range (32 * s.build.ncore)).foldl (scrubBank t) s
    .next (touch ((List.range s.build.ncore).foldl scrubCode (scrubExt t s)) t)

/-- STACK_SCRUB (R404): the running MC scrubs the next stack Granule in a burst slot that no core request takes (R20, R22, R290), with what
GC-288 finds there: `err`, or what stands there already. One symbol in error is corrected in place. -/
def execStackScrub (g : Nat) (err : SymErr) (s : State) : Host.Outcome State Fault Refusal :=
  let n := stackGrans s.build
  if !mcUp s || s.stk.out || n == 0 || g != s.stk.scrub || !mgmtSlot s g then .next s
  else
    let e := foundErr s g err
    let s := if e.n == 1 then note s ⟨.stackCe, stackDetail g e true, s.now⟩ none
      else if e.n == 2 || e.n == 3 then enterRec { bareRec s ⟨.scrubUe, g + 2 ^ 41, s.now⟩ none with dfmt := 5 } s
      else s
    let s := { s with stk := { s.stk with errs := smSet noErr s.stk.errs g (if e.n == 1 then noErr else e) } }
    .next { s with stk := { s.stk with scrub := (g + 1) % n, passes := if g + 1 == n then s.stk.passes + 1 else s.stk.passes } }

/-! ### Thermal stop (R407 to R409) -/

/-- Thermal stop begins in this Beat: THERM_STOP with sensor and temperature. -/
def thermalStop (s : State) (sensor temp : Nat) : State :=
  if s.therm.stop.isSome then s
  else
    let s' := note s ⟨.thermStop, reasonDetail 0 sensor temp, s.now⟩ none
    { s' with therm := { s'.therm with stop := some (idxOf s s', s.beat.b), cool := 0, clear := false } }

/-- TWARN as applied. -/
def tWarn (s : State) : Nat := bitsOf (liveReg s rFLT_THERM).toNat 16 8

/-- R407: THERM_WARN once, armed again below TWARN − 5. -/
def thermWarn (s : State) (hot : Nat) : State :=
  if hot + 5 < tWarn s then { s with therm := { s.therm with armed := true } }
  else if hot ≥ tWarn s && s.therm.armed then
    note { s with therm := { s.therm with armed := false } } ⟨.thermWarn, reasonDetail 0 (s.therm.temps.findIdx (· == hot)) hot, s.now⟩ none
  else s

/-- R409: every sensor is at or below its clear level. -/
def isCool (s : State) : Bool :=
  s.therm.temps.all (fun x => x + 15 ≤ s.build.tstopd)
    && (List.range s.build.nstack).all (fun p => (getStk s p).temp.toNat + 15 ≤ s.build.tstops)

/-- DIE_SENSOR_SAMPLE: the samples of cycle 4,040 of this Beat, once. -/
def execDieSensorSample (temps : List Nat) (s : State) : Host.Outcome State Fault Refusal :=
  let t := s.beat.start + 4040
  if s.now > t || temps.length != 16 || s.therm.last == some s.beat.b then .next s
  else
    let overs := temps.zipIdx.foldl (fun m (x, i) => smSet 0 m i (if x ≥ s.build.tstopd then smGet 0 s.therm.overs i + 1 else 0)) []
    let s := { touch s t with therm := { s.therm with temps := temps, last := some s.beat.b, overs := overs } }
    let s := thermWarn s (temps.foldl max 0)
    let s := match (List.range 16).find? (fun i => smGet 0 overs i ≥ 4) with
      | some i => thermalStop s i (temps.getD i 0)
      | none => s
    .next { s with therm := { s.therm with cool := if s.therm.stop.isSome && isCool s then s.therm.cool + 1 else 0 } }

/-- STACK_TEMP_CHECK (R407): every 256 Beats the running MC reads each stack's temperature. -/
def execStackTempCheck (temps : List Nat) (s : State) : Host.Outcome State Fault Refusal :=
  if !mcUp s || s.beat.b.toNat % 256 != 0 || temps.length != s.build.nstack then .next s
  else
    let s := temps.zipIdx.foldl (fun s (x, p) => setStk s p { getStk s p with temp := BitVec.ofNat 8 x }) s
    match temps.findIdx? (fun x => x ≥ s.build.tstops) with
    | some p => .next (thermalStop s (16 + p) (temps.getD p 0))
    | none => .next s

/-- THERM_CLEAR (R409): 256 cool Beats in a row. -/
def execThermClear (s : State) : Host.Outcome State Fault Refusal :=
  if s.therm.stop.isNone || s.therm.clear || s.therm.cool < 256 then .next s
  else .next (note { s with therm := { s.therm with clear := true } } ⟨.thermClear, 0, s.now⟩ none)

/-- FLT_CTL.RESUME (R409): accepted after THERM_CLEAR; launches resume at the next boundary. -/
def execResume (f : Func) (s : State) : Host.Outcome State Fault Refusal :=
  if !pfOn s f || s.therm.stop.isNone || !s.therm.clear then .next s
  else .next { s with therm := { s.therm with stop := none, clear := false, cool := 0, resume := true } }

/-! ### The watchdog (R410) -/

/-- A management command in progress. -/
def inMc (s : State) (q : Nat) (c : Cmd) : Bool :=
  s.ext.jobs.any (fun j => j.q == q && j.seq == c.seq) || s.loads.any (fun l => l.cmd == some (q, c.seq))

/-- Management commands in progress fail with the record's index; staged entries are discarded, with a flip asked for, loads, key operations and the digest
jobs of sealing, whose management slots go unused, end (R20, R22). -/
def dropMcWork (idx : FltIdx) (s : State) : State :=
  let cs := (s.host.slots.flatMap (fun e => match e.2 with | some x => x.cmds.map (fun c => (x.q, c)) | none => [])).filter
    (fun x => inMc s x.1 x.2 && !isOver x.2)
  let busy := s.loads.flatMap Load.mask
  let charge (idx : Nat) (e : ExtEnt) : Option (Nat × Nat) :=
    if e.valid && !(extAt s idx).valid then some (e.part, e.len.toNat + 1) else none
  let maps := s.ext.stg.filterMap (fun x => match x.2 with | some g => if g.retained then none else charge g.idx g.ent | none => none)
    ++ s.ext.wait.filterMap (fun w => charge w.1 w.2.1)
  let s := maps.foldl (fun s (p, n) => modPart s p (fun x => { x with stkUse := x.stkUse - n })) s
  let s := { s with
    loads := [],
    ext := { s.ext with
      stg := s.ext.stg.filter (fun x => match x.2 with | some g => g.retained | none => false), flip := false, due := [], jobs := [], unmap := [], wait := [] },
    beat := { s.beat with flipDue := false }, host := { s.host with jobs := s.host.jobs.filter (fun j => j.kind != 4) },
    ports := smMap emptyPort s.ports (fun _ x => { x with keyOps := 0 }),
    slots := smMap emptySlt s.slots (fun k x => if busy.contains k && x.st == 1 then { x with st := 3 } else x),
    mc := { s.mc with words := [] } }
  cs.foldl (fun s x => endCmd s x.1 x.2.seq 1 idx true) s

/-- WATCHDOG_EXPIRY: the MC stops; one that is restarted runs from the next boundary (log 41). `fwOk` is the check of the retained firmware against measurement index 1. A second expiry within 2^20 Beats or a
failed check leaves the MC dead. -/
def execWatchdogExpiry (fwOk : Bool) (s : State) : Host.Outcome State Fault Refusal :=
  if !mcUp s then .next s
  else
    let again := match s.mc.expiry with | some b => recent s b | none => false
    let dead := again || !fwOk
    let s' := note s ⟨if dead then .mcDead else .mcRestart, 0, s.now⟩ none
    let s'' := dropMcWork (idxOf s s') s'
    .next { s'' with
      beat := { s''.beat with latch := smSet 0 s''.beat.latch (reqNo .mc) 0 },
      mc := { s''.mc with
        run := false, reboot := !dead, dead := dead, expiry := some s.beat.b, restarts := if dead then s.mc.restarts else min 255 (s.mc.restarts + 1) } }

/-! ### Functions (R264, R285) -/

/-- Reset every context of a partition and stop its queues; `qs` are the records of its queues that are not resident. -/
def resetPart (qs : List QFound) (s : State) (p : Nat) : State :=
  let s := (liveCtxs s p).foldl (fun s id => resetCtx s id qs) s
  (s.host.slots.filterMap (fun e => match e.2 with | some x => if x.part == p then some x.q else none | none => none)).foldl stopQueue s

/-- A function that is reset drops its mailbox locks (R285) and its BEAT_COUNT latch (R235), and its reset is under way. -/
def resetFunc (f : Func) (s : State) : State :=
  { s with mbx := smMap emptyMbx s.mbx (fun _ x => if x.lock == senderId f then { x with lock := 0 } else x),
           beat := { s.beat with latch := smSet 0 s.beat.latch (reqNo f) 0 },
           host := { s.host with flr := reqNo f :: s.host.flr.filter (· != reqNo f) } }

/-- FUNCTION_LEVEL_RESET (R264): a VF's resets its partition's contexts; the PF's resets every context and stops fetching. It is over when the aborts
are (settleFlr). -/
def execFunctionLevelReset (x : WithQs Func) (s : State) : Host.Outcome State Fault Refusal :=
  match x.on with
  | .mc => .next s
  | .vf n => .next (resetPart x.qs (resetFunc x.on s) (n - 1))
  | .pf =>
    let s := (List.range 16).foldl (resetPart x.qs) (resetFunc x.on s)
    .next { s with regs := { s.regs with live := smSet none s.regs.live rHQ_CTL none, stage := smSet none s.regs.stage rHQ_CTL none } }

/-- POWER_STATE_CHANGE (R264): a function enters D3hot or returns to D0. An idle partition has met its boundary. -/
def execPowerStateChange (f : Func) (d3 : Bool) (s : State) : Host.Outcome State Fault Refusal :=
  let k := reqNo f
  if k > 16 then .next s
  else
    let s := { s with host := { s.host with d3 := smSet false s.host.d3 k d3 } }
    if d3 then
      .next ((List.range 16).foldl (fun s p => if (getPart s p).seg.isNone then latchD3 s p else s) s)
    else .next { s with host := { s.host with d3 := s.host.d3.filter (fun e => e.1 < 32 || (e.1 - 32) / 16 != k) } }

end Sys2Proof.Machine
end

