-- ==== Sys2Proof/Machine/Braid.lean ====
section
/-!
DEFINITION. Braid.lean: the receipt and the landing of cells (R319, R324 to R326, R252), training asked for and lanes lost (R330, R333), the key
operations of a port (R327, R329) and its read-to-clear counts (R14).
-/

namespace Sys2Proof.Machine

/-! ### Received frames (R319, R324 to R326, R252) -/

/-- R251: the usable Beat of the cells of the frames that follow the last Beat block (R318). -/
def usableBeat (s : State) (x : Port) : W64 := x.rxB + BitVec.ofNat 64 (portL s.build x)

/-- A count that saturates. -/
def satAdd (v : W32) (n : Nat) : W32 := BitVec.ofNat 32 (min (2 ^ 32 - 1) (v.toNat + n))

/-- R252: the receipt completes after the cell's usable point. -/
def isLate (s : State) (usable : W64) (cj c : Nat) : Bool :=
  usable.toNat < s.beat.b.toNat || (usable == s.beat.b && cj < c)

/-- R251, R252: a valid cell of a good frame is buffered, or dropped late with LINK_LATE. -/
def takeCell (port c : Nat) (usable : W64) (s : State) (x : Cell) : State :=
  let y := getPort s port
  let cj := sendPoint (cellWidth y) x.cidx
  if !x.valid then s
  else if isLate s usable cj c then
    raiseSeg s y.part ⟨.linkLate, linkDetail port x.cidx usable.toNat cj 0, s.beat.start + c⟩ none
  else modPort s port (fun y => { y with rx := y.rx ++ [⟨x, usable⟩] })

/-- R305, R326: the cells of a frame under the link key of the port's partition: KEYEP is the key's and the tag is right for the Beat that the receiver's own
count less L gives. -/
def frameOpens (s : State) (x : Port) (bytes : List Byte) : Option (List Cell) :=
  match (getPart s x.part).link with
  | some k => if (frameFields bytes).2.1 == k.ep then openFrame k.key (usableBeat s x - BitVec.ofNat 64 (portL s.build x)) bytes else none
  | none => none

/-- R317: the cells of frame k that stand in their places. -/
def placedCells (k : Nat) (cs : List Cell) : List Cell :=
  (cs.zipIdx.filter (fun (c, n) => c.cidx == 32 * k + n)).map Prod.fst

/-- BRAID_FRAME: a frame whose receipt completes in cycle c of this Beat: FEC, tag and KEYEP, then its cells (Table 13.5). -/
def execBraidFrame (port c : Nat) (r : FrameIn) (s : State) : Host.Outcome State Fault Refusal :=
  let x := getPort s port
  let rec_ (f : FCode) (s : State) : State := note s ⟨f, linkDetail port 0 0 0 0, s.beat.start + c⟩ (some x.part)
  if c > 4127 then .fault .noSuchPoint
  else if port ≥ s.build.nbraid || x.st != 2 then .next s
  else
    let s := touch s (s.beat.start + c)
    if !r.fecOk || r.bytes.length != 8344 then .next (rec_ .linkFrame (modPort s port (fun x => { x with lost := satAdd x.lost 1 })))
    else match frameOpens s x r.bytes with
      | none => .next (rec_ .linkAuth (modPort s port (fun x => { x with auth := satAdd x.auth 1 })))
      | some cs => .next ((placedCells (frameFields r.bytes).1 cs).foldl (takeCell port c (usableBeat s x)) s)

/-- Table 13.5: a valid cell without a place; one record a Beat. -/
def cellUnexpected (port j cj : Nat) (s : State) : State :=
  let x := getPort s port
  let s := modPort s port (fun x => { x with unexp := true, unexpB := some s.beat.b })
  if x.unexpB == some s.beat.b then s
  else note s ⟨.cellUnexpected, linkDetail port j s.beat.b.toNat cj 0, s.beat.start + cj⟩ (some x.part)

/-- Table 13.5: a cell of another Segment; one record a Beat. -/
def cellTagged (port j cj : Nat) (s : State) : State :=
  let x := getPort s port
  let s := modPort s port (fun x => { x with tagerr := true, tagB := some s.beat.b })
  if x.tagB == some s.beat.b then s
  else note s ⟨.cellSegtag, linkDetail port j s.beat.b.toNat cj 0, s.beat.start + cj⟩ (some x.part)

/-- R324: n, the number of cells that an entry has covered before cell j of Beat offset o. -/
def coveredBefore (e : STEnt) (o j : Nat) : Nat := (o - e.phase) / e.period * e.count + (j - e.first)

/-- R324: a cell lands in its receive ring and signals its counter; an entry whose CORE names no core of the partition is an access outside it (R7). -/
def landCell (s : State) (p : Nat) (e : STEnt) (o j t : Nat) (payload : List Byte) : State :=
  let a := e.base + 256 * (coveredBefore e o j % e.ringlen)
  match coreAt s p e.core with
  | none => raiseSeg s p ⟨.outOfPartition, scratchDetail e.core (a % 2 ^ 23) 0 0 8, t⟩ none
  | some core =>
    let (s1, f1) := writeRow s core .control 8 a (payload.take 128) t
    let (s2, f2) := writeRow s1 core .control 8 (a + 128) ((payload.drop 128).take 128) t
    let s3 := match orFlt f1 f2 with
      | some f => raiseUnit s2 p f core .control
      | none => s2
    modSeg (if e.sigen then addCtr s3 core e.sc t 1 else s3) p (fun g => { g with linked := true })

/-- CELL_LANDING: the usable point (b, c_j) of a buffered cell (R324, R325). What a hold that has ended lets go comes first (R178). -/
def execCellLanding (port cidx : Nat) (s : State) : Host.Outcome State Fault Refusal :=
  let s := settleHeld s
  let x := getPort s port
  match x.rx.find? (fun r => r.cell.cidx == cidx && r.usable == s.beat.b) with
  | none => .next s
  | some r =>
    let s := modPort s port (fun x => { x with rx := x.rx.filter (fun y => y != r) })
    let cj := sendPoint (cellWidth x) cidx
    match x.tab, (getPart s x.part).seg with
    | some t, some g =>
      let o := beatOff x s.beat.b
      (match t.ents.find? (fun e => e.recv && covers e o cidx) with
       | none => .next (cellUnexpected port cidx cj s)
       | some e =>
         if r.cell.segtag != BitVec.ofNat 16 g.beat.toNat then .next (cellTagged port cidx cj s)
         else .next (landCell (touch s (s.beat.start + cj)) x.part e o cidx (s.beat.start + cj) r.cell.payload))
    | _, _ => .next (cellUnexpected port cidx cj s)

/-! ### Training (R330 to R333) -/

/-- R379: an extended index takes a digest. -/
def extendMeas (s : State) (i : Nat) (d : List Byte) : State :=
  let m := getMeas s i
  setMeas s i { value := sha384 (dig48 m.value ++ d), extcnt := m.extcnt + 1, valid := true, ext := true }

/-- R378: the state of a target on a management bus (Table 15.10): unreachable on an isolated bus or segment, absent where neither attempt is
acknowledged. -/
def targetState (s : State) (bus : Nat) (chan : Option Nat) (ack1 ack2 : Bool) : Nat :=
  let cut := s.mc.i3c.getLsbD bus || (match chan with | some c => s.mc.i3c.getLsbD (8 + 8 * bus + c) | none => false)
  if cut then 2 else if ack1 || ack2 then 0 else 1

/-- R378: a bus that stays stuck: its segment behind the last channel, or the whole bus, is isolated. I3C_STUCK names bus and segment;
reason 1 for a whole bus (log 35). -/
def takeBus (s : State) (b : BusObs) : State :=
  if !b.stuck || b.bus > 1 then s
  else
    let (bit, d) := match b.channel with
      | some c => (8 + 8 * b.bus + c % 8, reasonDetail 0 b.bus (c % 8))
      | none => (b.bus, reasonDetail 1 b.bus 0)
    note { s with mc := { s.mc with i3c := s.mc.i3c ||| (1 <<< bit) } } ⟨.i3cStuck, d, s.now⟩ none

/-- R377: the module advertises an application with four host lanes at 212.5 Gb/s. -/
def suited (m : ModObs) : Bool := m.apps.contains (4, 2125)

/-- R376, R377: the inventory entry of a Braid module, on the bus and segment that MODTOP names: 74 bytes of its pages; unsuited where it advertises no
application with four host lanes. -/
def modEntry (s : State) (m : ModObs) : InvEnt :=
  let w := match s.boot.params with | some p => p.modtop.getD m.port 0 | none => 0
  let st := targetState s (bitsOf w 0 1) (if bitsOf w 1 7 == 0 then none else some (bitsOf w 8 3)) m.ack1 m.ack2
  ⟨2, m.port, if st == 0 && !suited m then 3 else st, if st == 0 then m.lower.take 3 ++ m.upper.take 71 else []⟩

/-- R376, R378: a module that the MC has read again replaces its entry, and the inventory's measurement is extended; a bus found stuck meanwhile is isolated
first. -/
def rereadModule (s : State) (port : Nat) (m : ModObs) : State :=
  if !mcUp s then s
  else
    let s := match m.stuck with | some b => takeBus s b | none => s
    let e := modEntry s { m with port := port }
    let hit (x : InvEnt) : Bool := x.type == 2 && x.index == port
    let inv := if s.mc.inv.any hit then s.mc.inv.map (fun x => if hit x then e else x) else s.mc.inv ++ [e]
    let s := { s with mc := { s.mc with inv := inv } }
    extendMeas s 6 (dig48 (sha384 (inventoryRec s)))

/-- BRD_CTL.TRAIN (R330, R376): the port begins to train, and finds `o`; `m` is its module as read again. -/
def execBrdCtlTrain (f : Func) (port : Nat) (o : TrainObs) (m : ModObs) (s : State) : Host.Outcome State Fault Refusal :=
  if !pfOn s f || port ≥ s.build.nbraid then .next s else .next (trainPort (rereadModule s port m) port o)

/-- LANE_LOST (R333): frames in flight on the lane are lost (Table 13.5), and the port begins to retrain. -/
def execLaneLost (port frames : Nat) (o : TrainObs) (s : State) : Host.Outcome State Fault Refusal :=
  let x := getPort s port
  if port ≥ s.build.nbraid || x.st != 2 then .next s
  else
    let s := modPort s port (fun x => { x with lost := satAdd x.lost frames })
    let s := (List.range frames).foldl (fun s _ => note s ⟨.linkFrame, linkDetail port 0 0 0 0, s.now⟩ (some x.part)) s
    .next (trainPort s port o)

/-! ### BRD_KEY (Table 13.7) -/

/-- A write of one bit of BRD_KEY: the operation is in progress until the MC has carried it out. -/
def askKey (f : Func) (port k : Nat) (s : State) : State :=
  if !pfOn s f || port ≥ s.build.nbraid then s
  else keyWork (modPort s port (fun x => { x with keyOps := x.keyOps ||| (1 <<< k) }))

/-- BRD_KEY.NEW. -/
def execBrdKeyNew (f : Func) (port : Nat) (s : State) : Host.Outcome State Fault Refusal := .next (askKey f port 0 s)

/-- BRD_KEY.OFFER. -/
def execBrdKeyOffer (f : Func) (port : Nat) (s : State) : Host.Outcome State Fault Refusal := .next (askKey f port 1 s)

/-- BRD_KEY.ACCEPT (R329). -/
def execBrdKeyAccept (f : Func) (port : Nat) (s : State) : Host.Outcome State Fault Refusal := .next (askKey f port 2 s)

/-! ### Registers read to clear (R14) -/

/-- BRD_LOST read. -/
def execBrdLostRead (f : Func) (port : Nat) (s : State) : Host.Outcome State Fault Refusal :=
  if !fnOn s f then .next s
  else if (vfPart f).isSome || port ≥ s.build.nbraid then .next (post s (.answer 0))
  else .next (modPort (post s (.answer (getPort s port).lost)) port (fun x => { x with lost := 0 }))

/-- BRD_AUTH read. -/
def execBrdAuthRead (f : Func) (port : Nat) (s : State) : Host.Outcome State Fault Refusal :=
  if !fnOn s f then .next s
  else if (vfPart f).isSome || port ≥ s.build.nbraid then .next (post s (.answer 0))
  else .next (modPort (post s (.answer (getPort s port).auth)) port (fun x => { x with auth := 0 }))

end Sys2Proof.Machine
end

