-- ==== Sys2Proof/Machine/Ecc.lean ====
section
/-!
DEFINITION. Ecc.lean: ECDSA over NIST P-384 (FIPS 186-5; R351, R367), HMAC-SHA-384 and HKDF-Expand (IETF RFC 2104, RFC 5869; R380) and AES key
unwrapping (IETF RFC 3394; R351, R367).
-/

namespace Sys2Proof.Machine

/-! ### The curve P-384 -/

/-- The prime of the field, 2^384 - 2^128 - 2^96 + 2^32 - 1. -/
def p384P : Nat := 0xFFFFFFFFFFFFFFFFFFFFFFFFFFFFFFFFFFFFFFFFFFFFFFFFFFFFFFFFFFFFFFFEFFFFFFFF0000000000000000FFFFFFFF
/-- The order of the group. -/
def p384N : Nat := 0xFFFFFFFFFFFFFFFFFFFFFFFFFFFFFFFFFFFFFFFFFFFFFFFFC7634D81F4372DDF581A0DB248B0A77AECEC196ACCC52973
/-- The coefficient b; the coefficient a is -3. -/
def p384B : Nat := 0xB3312FA7E23EE7E4988E056BE3F82D19181D9C6EFE8141120314088F5013875AC656398D8A2ED19D2A85C8EDD3EC2AEF
/-- The base point. -/
def p384G : Nat × Nat :=
  (0xAA87CA22BE8B05378EB1C71EF320AD746E1D3B628BA79B9859F741E082542A385502F25DBF55296C3A545E3872760AB7,
   0x3617DE4A96262C6F5D9E98BF9292DC29F8F41DBD289A147CE9DA3113B5F0B8C00A60B1CE1D7E819D7A431D7C90EA0E5F)

/-- Powers modulo m, by the bits of the exponent from the highest of `n` down. -/
def powMod (m b e : Nat) : Nat → Nat → Nat
  | 0, acc => acc
  | n + 1, acc => powMod m b e n (if e.testBit n then acc * acc % m * b % m else acc * acc % m)

/-- The inverse modulo a prime of at most 384 bits. -/
def invMod (m a : Nat) : Nat := powMod m (a % m) (m - 2) 384 1

/-- The sum of two points with the slope of their line. -/
def chord (l : Nat) (a b : Nat × Nat) : Nat × Nat :=
  let x := (l * l + 2 * p384P - a.1 - b.1) % p384P
  (x, (l * (a.1 + p384P - x) + p384P - a.2) % p384P)

/-- The sum of two points of the curve; none is the point at infinity. -/
def ecAdd (a b : Option (Nat × Nat)) : Option (Nat × Nat) :=
  match a, b with
  | none, q => q
  | p, none => p
  | some p, some q =>
    if p.1 == q.1 then
      if p.2 == q.2 && p.2 != 0 then
        some (chord ((3 * p.1 * p.1 + (p384P - 3)) * invMod p384P (2 * p.2) % p384P) p q)
      else none
    else some (chord ((q.2 + p384P - p.2) * invMod p384P (q.1 + p384P - p.1) % p384P) p q)

/-- A point in Jacobian coordinates; z = 0 is the point at infinity. -/
structure Jac where
  x : Nat
  y : Nat
  z : Nat
deriving DecidableEq, Repr

/-- The double of a point. -/
def jacDouble (p : Jac) : Jac :=
  let zz := p.z * p.z % p384P
  let yy := p.y * p.y % p384P
  let b := p.x * yy % p384P
  let a := 3 * (p.x + p384P - zz) * (p.x + zz) % p384P
  let x := (a * a + 8 * p384P - 8 * b) % p384P
  ⟨x, (a * (4 * b + p384P - x) + 8 * p384P - 8 * (yy * yy % p384P)) % p384P, 2 * p.y * p.z % p384P⟩

/-- The sum of a point and an affine point. -/
def jacAdd (p : Jac) (q : Nat × Nat) : Jac :=
  if p.z == 0 then ⟨q.1, q.2, 1⟩
  else
    let zz := p.z * p.z % p384P
    let h := (q.1 * zz + p384P - p.x) % p384P
    let r := (q.2 * p.z % p384P * zz + p384P - p.y) % p384P
    if h == 0 then (if r == 0 then jacDouble p else ⟨1, 1, 0⟩)
    else
      let hh := h * h % p384P
      let hhh := h * hh % p384P
      let v := p.x * hh % p384P
      let x := (r * r + 3 * p384P - hhh - 2 * v) % p384P
      ⟨x, (r * (v + p384P - x) + p384P - p.y * hhh % p384P) % p384P, p.z * h % p384P⟩

/-- The affine point. -/
def jacAffine (p : Jac) : Option (Nat × Nat) :=
  if p.z == 0 then none
  else
    let i := invMod p384P p.z
    some (p.x * (i * i % p384P) % p384P, p.y * (i * i % p384P * i % p384P) % p384P)

/-- A multiple of a point, by the bits of the factor from the highest of `n` down. -/
def ecMulFrom (k : Nat) (q : Nat × Nat) : Nat → Jac → Jac
  | 0, acc => acc
  | n + 1, acc => ecMulFrom k q n (if k.testBit n then jacAdd (jacDouble acc) q else jacDouble acc)

/-- A multiple of a point. -/
def ecMul (k : Nat) (p : Option (Nat × Nat)) : Option (Nat × Nat) := p.bind (fun q => jacAffine (ecMulFrom k q 384 ⟨1, 1, 0⟩))

/-- A point as an uncompressed point of 97 bytes. -/
def ecBytes (p : Nat × Nat) : List Byte := 4 :: (natBe 48 p.1 ++ natBe 48 p.2)

/-- The point of the curve that 97 bytes hold. -/
def ecPoint (b : List Byte) : Option (Nat × Nat) :=
  let x := beNat ((b.drop 1).take 48)
  let y := beNat ((b.drop 49).take 48)
  if b.length == 97 && b.head? == some 4 && x < p384P && y < p384P && y * y % p384P == (x * x * x + (p384P - 3) * x + p384B) % p384P then
    some (x, y)
  else none

/-- The signature r then s of 96 bytes is valid for a digest under a public key. -/
def ecdsaOk (pub sig : List Byte) (d : BitVec 384) : Bool :=
  let r := beNat (sig.take 48)
  let s := beNat ((sig.drop 48).take 48)
  match ecPoint pub with
  | none => false
  | some q =>
    if r == 0 || r ≥ p384N || s == 0 || s ≥ p384N then false
    else
      let w := invMod p384N s
      match ecAdd (ecMul (d.toNat * w % p384N) (some p384G)) (ecMul (r * w % p384N) (some q)) with
      | none => false
      | some p => p.1 % p384N == r

/-- The signature (r, s) of a digest under a private key with a nonce. -/
def ecdsaSign (d : Nat) (z : BitVec 384) (k : Nat) : Nat × Nat :=
  let r := match ecMul k (some p384G) with | some p => p.1 % p384N | none => 0
  (r, invMod p384N k * (z.toNat + r * d) % p384N)

/-! ### HMAC and HKDF with SHA-384 -/

/-- HMAC-SHA-384 under a key of at most 128 bytes. -/
def hmac384 (key msg : List Byte) : List Byte :=
  let k := key ++ List.replicate (128 - key.length) 0
  dig48 (sha384 (k.map (· ^^^ 0x5C) ++ dig48 (sha384 (k.map (· ^^^ 0x36) ++ msg))))

/-- HKDF-Expand to 56 bytes with no further information. -/
def hkdf56 (prk : List Byte) : List Byte :=
  let t1 := hmac384 prk [1]
  (t1 ++ hmac384 prk (t1 ++ [2])).take 56

/-! ### AES key wrap -/

/-- A step of unwrapping: the register A and the four halves of a key, at step `t` of 24 down to 1. -/
def unwrapStep (ks : List (List Byte)) (v : List Byte × List (List Byte)) (t : Nat) : List Byte × List (List Byte) :=
  let i := (t - 1) % 4
  let b := aesDec ks (xorBytes v.1 (natBe 8 t) ++ v.2.getD i [])
  (b.take 8, v.2.set i (b.drop 8))

/-- The 256-bit key that 40 bytes wrap under a key-encryption key, if its integrity value is right. -/
def aesUnwrap (kek : List Byte) (w : List Byte) : Option (BitVec 256) :=
  let v := ((List.range 24).map (24 - ·)).foldl (unwrapStep (roundKeys kek)) (w.take 8, pieces 8 4 (w.drop 8))
  if v.1 == List.replicate 8 0xA6 then some (BitVec.ofNat 256 (beNat v.2.flatten)) else none

end Sys2Proof.Machine
end

