-- ==== Sys2Proof/Machine/Slots.lean ====
section
/-!
DEFINITION. Slots.lean: the frame loader: SLOT_ISOLATE, SLOT_FRAME, SLOT_READBACK, SLOT_READY, FRAME_PORT_TIMEOUT (R350 to R355, R425), and the
counts of a slot port (R346).
-/

namespace Sys2Proof.Machine

/-! ### The frame loader -/

/-- A load ends without success (R350, R353, R355): a LOAD_SLOT fails, a start-up stream leaves a record. A load that has not isolated its
slots changes none of them, but for a start-up stream, whose slots are FAILED. -/
def failLoad (s : State) (l : Load) (reason : Nat) : State :=
  let d := reasonDetail reason (l.mask.headD 0) 0
  let fail (s : State) (k : Nat) : State := modSlt s k (fun x => { x with st := 3, iso := true, srst := true, ident := none, reason := reason })
  let s := { s with loads := s.loads.tail }
  let s := if l.stage == 0 && l.cmd.isSome then s else l.mask.foldl fail s
  match l.cmd with
  | some (q, seq) => mcWork (failCmd s q seq ⟨.slotLoad, d, s.now⟩)
  | none => note s ⟨.slotBootload, d, s.now⟩ none

/-- The load in progress changes. -/
def modLoad (s : State) (f : Load → Load) : State :=
  { s with loads := match s.loads with | l :: r => f l :: r | [] => [] }

/-- The load in progress, if the loader may work: the MC runs, or this is a start-up stream (R410). -/
def activeLoad (s : State) : Option Load :=
  match s.loads with
  | l :: _ => if mcUp s || l.cmd.isNone then some l else none
  | [] => none

/-- R352: SIGNER is in the slot-signer list of the parameter block. -/
def signerListed (s : State) (d : BitVec 384) : Bool :=
  match paramBlk s with
  | some p => d != 0 && p.signers.contains d
  | none => false

/-- The image key that the fuses select (R363, R364); none where the key store gives none or KEYSRC is reserved. -/
def imageKey (f : Fuses) : Option (BitVec 256) := if f.keysrc == 0 then some f.imgkey else if f.keysrc == 1 then f.store else none

/-- A key wrapped under the image key (R351, R367). -/
def unwrapKey (s : State) (w : List Byte) : Option (BitVec 256) :=
  (s.boot.fuses.bind imageKey).bind (fun k => aesUnwrap (keyBytes k) w)

/-- R352: the checks of the 384 bytes of a stream header (Table 14.5) in order; the reason of Table 14.7, 0 for none. -/
def hdrReason (s : State) (b : List Byte) : Nat :=
  let at_ (k n : Nat) : List Byte := (b.drop k).take n
  let nz (k n : Nat) : Bool := (at_ k n).any (· != 0)
  if leNat (at_ 0 4) != 0x4D5A5342 then 1
  else if leNat (at_ 5 1) != 1 then 2
  else if leNat (at_ 20 2) != s.build.frmu || nz 6 2 || nz 22 10 || nz 217 39 || nz 352 32 then 1
  else if sha384 (at_ 120 97) != BitVec.ofNat 384 (beNat (at_ 72 48)) || !signerListed s (BitVec.ofNat 384 (beNat (at_ 72 48)))
      || !ecdsaOk (at_ 120 97) (at_ 256 96) (sha384 (at_ 0 256)) then 3
  else if (unwrapKey s (at_ 32 40)).isNone then 4
  else 0

/-- R351: FRM_BYTES. -/
def frmBytes (s : State) : Nat := 32 * s.build.frmu

/-- R351: first byte and length of what the loader reads next: the header, or a frame with its header and tag. -/
def unitSpan (s : State) (l : Load) : Nat × Nat :=
  if l.stage == 0 then (0, 384) else (384 + l.next * (48 + frmBytes s), 48 + frmBytes s)

/-- What a read of the loader meets: nothing yet, a source that fails, or the bytes. -/
inductive Got
  | wait | fail | bytes (b : List Byte)
deriving DecidableEq, Repr

/-- R350: bytes [k, k + n) of the stream [off, off + len) of an Extent by the management path: the lookup of the whole stream under the current epoch, slots that
no core request takes, the Extent's key. -/
def extentRead (s : State) (h : W32) (p off len k n : Nat) : State × Got :=
  let a := off + k
  match lookup s h p s.ext.epoch off len false with
  | .bad _ => (lookupCe s h s.now, .fail)
  | .ok e =>
    if s.stk.out then (s, .fail)
    else if !(stkSpan (e.addr + a) n).all (mgmtSlot s) then (s, .wait)
    else match stkCheck (fun s f => note s f (some p)) (e.addr + a) n s.now (lookupCe s h s.now) with
      | (s, some _) => (s, .fail)
      | (s, none) => (s, .bytes (stkBytes s (partKey s p) (e.addr + a) n))

/-- A read of the loader from its source; `r` is how the host read completes. Beyond LENGTH there is nothing to read; a section of the image is read as far
as its frames have been accepted (R369). -/
def loadRead (s : State) (l : Load) (r : HostCpl) : State × Got :=
  let (k, n) := unitSpan s l
  match l.src with
  | .host _ len =>
    if k + n > len then (s, .fail)
    else match r with
      | .ok bs => (s, if bs.length == n then .bytes bs else .wait)
      | _ => (s, .fail)
  | .extent h p off len => if k + n > len then (s, .fail) else extentRead s h p off len k n
  | .image t =>
    let sec := section_ s t
    let all := match s.boot.hdr with | some h => (h.secs.find? (fun x => x.type == t)).map ImgSec.bytes | none => none
    (s, if k + n ≤ sec.length then .bytes ((sec.drop k).take n) else if all == some sec.length then .fail else .wait)

/-- Table 14.7, SOURCE: the stream ends before LENGTH. -/
def streamShort (s : State) (l : Load) : Bool :=
  let n := 384 + l.nfrm * (48 + frmBytes s)
  match l.src with
  | .host _ len => n < len
  | .extent _ _ _ len => n < len
  | .image _ => false

/-- The frames of a stream are still to come, or have all been written. -/
def nextStage (l : Load) : Nat := if l.next < l.nfrm then 2 else 3

/-- R354, R425: the slot of the mask whose window frame 0 is to be read back next. -/
def nextBack (l : Load) : Option Nat := l.mask.find? (fun k => !l.ids.any (fun e => e.1 == k))

/-- R425: FP_RREQ, with the one slot selected that is to be read back next. -/
def askBack (s : State) : State :=
  match s.loads with
  | l :: _ => match (if l.stage == 3 then nextBack l else none) with
    | some k => post s (.readback k)
    | none => s
  | [] => s

/-- The load in progress enters a stage. -/
def enterStage (n : Nat) (s : State) : State := askBack (modLoad s (fun l => { l with stage := n, since := s.now }))

/-- SLOT_ISOLATE (R10, R352): a boundary after the header passed at which no Segment of the slot's partition runs. -/
def execSlotIsolate (slot : Nat) (s : State) : Host.Outcome State Fault Refusal :=
  let x := getSlt s slot
  match activeLoad s with
  | none => .next s
  | some l =>
    if !atEdge s || l.stage != 1 || s.beat.start ≤ l.since || !l.mask.contains slot || (x.iso && x.st == 1) || (x.en && (getPart s x.part).seg.isSome) then .next s
    else
      let s := modSlt s slot (fun x => { x with iso := true, srst := true, st := 1, ident := none })
      let all := l.mask.all (fun k => (getSlt s k).iso && (getSlt s k).st == 1)
      .next (if all then enterStage (nextStage l) s else s)

/-- The header checks are passed (R352): SID, NFRM and the stream key are taken, and isolation begins. -/
def takeHeader (s : State) (l : Load) (b : List Byte) : State :=
  if hdrReason s b != 0 then failLoad s l (hdrReason s b)
  else modLoad s (fun l => { l with
    stage := 1, since := s.now, sid := leNat ((b.drop 8).take 8), nfrm := leNat ((b.drop 16).take 4), skey := (unwrapKey s ((b.drop 32).take 40)).getD 0, bytes := b })

/-- R353: the plain text of a frame whose tag and CRC pass. -/
def openSlotFrame (l : Load) (b : List Byte) : Option (List Byte) :=
  let n := b.length - 48
  match gcmOpen (roundKeys (keyBytes l.skey)) (l.sid * 2 ^ 32 + leNat (b.take 4)) (b.take 32) ((b.drop 32).take n) (b.drop (32 + n)) with
  | some p => if crc32c p == BitVec.ofNat 32 (leNat ((b.drop 12).take 4)) then some p else none
  | none => none

/-- R353: a frame that has been opened: its order, its windows, then the frame port, the slots of the mask in parallel. After the last frame a stream that
ends before LENGTH fails. -/
def takeFrame (s : State) (l : Load) (b payload : List Byte) : State :=
  let woff := leNat ((b.drop 4).take 4)
  if leNat (b.take 4) != l.next || leNat ((b.drop 8).take 4) != frmBytes s || ((b.drop 16).take 16).any (· != 0) then failLoad s l 6
  else if l.mask.any (fun k => woff ≥ s.build.wlen.getD k 0) then failLoad s l 7
  else
    let l := { l with next := l.next + 1, tries := 0, zero := if woff == 0 then some payload else l.zero, bytes := l.bytes ++ payload }
    let s := modLoad (post s (.frame l.mask woff payload)) (fun _ => l)
    if nextStage l == 2 then s
    else if streamShort s l then failLoad s { l with stage := 3 } 9
    else enterStage 3 s

/-- A frame as read: opened and taken, or read again, three times at most (R353). -/
def readFrame (s : State) (l : Load) (b : List Byte) : State :=
  match openSlotFrame l b with
  | some p => takeFrame s l b p
  | none => if l.tries + 1 == 4 then failLoad s l 5 else modLoad s (fun l => { l with tries := l.tries + 1 })

/-- SLOT_FRAME (R352, R353): the loader reads what comes next, the stream header or a frame; `r` is how the host read completes, where the source lies in
host memory. -/
def execSlotFrame (r : HostCpl) (s : State) : Host.Outcome State Fault Refusal :=
  match activeLoad s with
  | none => .next s
  | some l =>
    if l.stage != 0 && l.stage != 2 then .next s
    else match loadRead s l r with
      | (s, .wait) => .next s
      | (s, .fail) => .next (failLoad s l 9)
      | (s, .bytes b) => .next (if l.stage == 0 then takeHeader s l b else readFrame s l b)

/-- Table 14.3, R348: the identity that 64 bytes hold, if the record is valid. -/
def parseIdent (b : List Byte) : Option Ident :=
  let v := leNat (b.take 64)
  let lat := bitsOf v 112 13
  let lo := bitsOf v 144 12
  let hi := bitsOf v 160 12
  if b.length ≥ 64 && bitsOf v 0 32 == 0x44495A4D && crc32c (b.take 60) == BitVec.ofNat 32 (bitsOf v 480 32) && bitsOf v 40 8 == 1
      && 1 ≤ lat && lat ≤ 4096 && lo ≤ hi && bitsOf v 48 16 == 0 && bitsOf v 125 3 == 0 && bitsOf v 131 13 == 0 && bitsOf v 156 4 == 0
      && bitsOf v 172 20 == 0 && bitsOf v 448 32 == 0 then
    some { funcid := BitVec.ofNat 32 (bitsOf v 64 32), version := bitsOf v 96 16, latency := lat, ratio := bitsOf v 128 2 + 1,
           det := bitsOf v 130 1 == 1, lo := lo, hi := hi }
  else none

/-- SLOT_READBACK (R348, R354): window frame 0 of the slot of the mask that FP_RREQ selected, as read back. Its record must be valid; the identity is that of the
last frame of WOFF 0 written. -/
def execSlotReadback (slot : Nat) (bytes : List (BitVec 8)) (s : State) : Host.Outcome State Fault Refusal :=
  match activeLoad s with
  | none => .next s
  | some l =>
    if l.stage != 3 || nextBack l != some slot then .next s
    else match parseIdent bytes, l.zero.bind parseIdent with
      | some _, some d =>
        let l' := { l with ids := l.ids ++ [(slot, d)] }
        .next (enterStage (if (nextBack l').isSome then 3 else 4) (modLoad s (fun _ => l')))
      | _, _ => .next (failLoad s l 8)

/-- A slot of a load that succeeded (R354, R355): out of isolation, READY, its reset low for slot cycles 0 to 15 of this Beat, its digest and
its measurement. -/
def readySlot (sha : BitVec 256) (d : List Byte) (s : State) (e : Nat × Ident) : State :=
  extendMeas (modSlt s e.1 (fun x => { x with
    st := 2, iso := false, srst := false, reason := 0, ident := some e.2, dig := sha, rstTo := s.beat.start + 16 * e.2.ratio, inTo := 0 })) (8 + e.1) d

/-- SLOT_READY (R10, R354): the boundary after the read-backs. -/
def execSlotReady (s : State) : Host.Outcome State Fault Refusal :=
  match activeLoad s with
  | none => .next s
  | some l =>
    if !atEdge s || l.stage != 4 || s.beat.start ≤ l.since then .next s
    else
      let s := l.ids.foldl (readySlot (sha256 l.bytes) (dig48 (sha384 l.bytes))) { s with loads := s.loads.tail }
      .next (match l.cmd with
        | some (q, seq) => mcWork (doneCmd s q seq)
        | none => s)

/-- FRAME_PORT_TIMEOUT (R425): the load ends with SOURCE. -/
def execFramePortTimeout (s : State) : Host.Outcome State Fault Refusal :=
  match activeLoad s with
  | none => .next s
  | some l => if l.stage == 2 || l.stage == 3 then .next (failLoad s l 9) else .next s

/-! ### SLT_ERR (R346, R358) -/

/-- SLOT_SPURIOUS_OUTPUT: counted while the port takes the slot's outputs (R344, R352). -/
def execSlotSpuriousOutput (slot : Nat) (s : State) : Host.Outcome State Fault Refusal :=
  let x := getSlt s slot
  if slot ≥ s.build.nslot || !x.en || x.iso || !s.cfgDone || x.spur == 0xFFFF then .next s
  else .next (modSlt s slot (fun x => { x with spur := x.spur + 1 }))

/-- SLT_ERR read (R14). -/
def execSltErrRead (f : Func) (slot : Nat) (s : State) : Host.Outcome State Fault Refusal :=
  if !fnOn s f then .next s
  else if (vfPart f).isSome || slot ≥ s.build.nslot then .next (post s (.answer 0))
  else .next (modSlt (post s (.answer ((getSlt s slot).spur.zeroExtend 32))) slot (fun x => { x with spur := 0 }))

end Sys2Proof.Machine
end

