-- ==== Sys2Proof/Machine/Twin.lean ====
section
/-!
DEFINITION. Twin.lean: attach, detach and takeover (R334, R335, R338, R339), the journal and agreement messages as they arrive (R336 to
R338), TWN_RESOLVE (R337) and a twin link that goes down (R339).
-/

namespace Sys2Proof.Machine

/-! ### Attach (R335) -/

/-- The two groups of the twin port are ports 16 and 17. -/
def twinGroups (o : AttachObs) : List (Nat × TrainObs) := [(16, o.groupA), (17, o.groupB)]

/-- R335: the first step that fails and its code. A group that does not train at full width is a lane fault; BRD delay is checked with
L = 1 (R334). -/
def attachFault (s : State) (o : AttachObs) : Option (Nat × FCode) :=
  let gs := [o.groupA, o.groupB]
  if gs.any (fun g => trainWidth g != 4 || !g.align || !delayOk s false g) then some (1, .twinLanes)
  else if !o.sameEng || o.groupA.peng != o.groupB.peng then some (1, .twinMiswire)
  else if gs.any (fun g => g.maj != 1) then some (2, .twinVersion)
  else if o.build != glbBuild s.build || o.stepping != glbStepping s.build || o.beat != s.beat.b
      || o.cores != (List.range 16).map (fun p => liveReg64 s (rPART p 0)) || o.groupA.peng == engId s then some (3, .twinMismatch)
  else if !o.authOk || gs.any (fun g => !g.auth || !rootListed s g.root) || !mcUp s then some (4, .twinAuth)
  else none

/-- A group at an attach: what it sends in its training (Table 13.8), and its state after it. -/
def trainGroup (s : State) (x : Nat × TrainObs) : State :=
  let r := if trainWidth x.2 != 4 then 1 else if !x.2.align then 2 else if x.2.maj != 1 then 3 else 0
  modPort (sendIds (sendWords s x.1 x.2) x.1 r) x.1 (fun p => { trained (if trainWidth x.2 == 4 then 0 else 1) false x.2 p with en := true })

/-- R335 step 5 on the twin: the entries of the primary become its own, under its own Owners (log 33). -/
def takeExt (s : State) (x : SyncExt) : State :=
  let e : ExtEnt := { emptyExt with
    valid := x.valid, part := x.part, oepoch := (getPart s x.part).oepoch, gen := x.gen, base := x.base, len := x.len,
    packed := x.packed, ro := x.ro, dgv := x.dgv, keyslot := x.part }
  { s with ext := { s.ext with tab := smSet emptyExt s.ext.tab x.idx e, roots := smSet none s.ext.roots x.idx x.root } }

/-- The key under which a stack byte address is written: that of the partition whose Extent holds it. -/
def keyAt (s : State) (a : Nat) : Nat :=
  match s.ext.tab.find? (fun e => e.2.valid && e.2.addr ≤ a && a < e.2.addr + e.2.size) with
  | some e => partKey s e.2.part
  | none => 0

/-- A row received: its write port is used once (R135), its check symbols are fresh (R131), and a residency that it lies in is intact no more (R387). -/
def takeRow (s : State) (x : Nat × List Byte) : State :=
  let r := getRow s x.1
  clearRes { s with
    spad := memWrite s.spad (x.1 * 128) (x.2.take 128), rows := smSet emptyRow s.rows x.1 { r with tag := r.tag + 1 },
    errs := (List.range 4).foldl (fun m k => smSet noErr m (4 * x.1 + k) noErr) s.errs } x.1

/-- R335 step 5 on the twin: Extent Table, stack bytes under its own Owner keys, rows; the units charged follow. -/
def takeImage (s : State) (m : SyncImage) : State :=
  let s := m.exts.foldl takeExt { s with ext := { s.ext with tab := [], stg := [], roots := [] } }
  let s := m.mem.foldl (fun s x => stkWrite s (keyAt s x.1) x.1 x.2) s
  let s := m.rows.foldl takeRow s
  (List.range 16).foldl (fun s p => modPart s p (fun x => { x with
    stkUse := ((s.ext.tab.filter (fun e => e.2.valid && e.2.part == p)).map (fun e => e.2.len.toNat + 1)).sum })) s

/-- TWN_CTL.ATTACH: MODE and PRIMARY are the applied ones. -/
def execTwnAttach (f : Func) (o : AttachObs) (s : State) : Host.Outcome State Fault Refusal :=
  let v := (liveReg s rTWN_CTL).toNat
  let mode := bitsOf v 0 2
  if !pfOn s f || !s.build.twin || s.twin.st != 0 || mode == 0 || mode == 3 then .next s
  else
    let s := (twinGroups o).foldl trainGroup s
    let bad := attachFault s o
    let past (n : Nat) : Bool := match bad with | some (k, _) => k > n | none => true
    let s := { s with twin := { s.twin with
      primary := bitsOf v 2 1 == 1, linkup := past 1, crossed := o.crossed, minor := 0,
      step := (match bad with | some (k, _) => k | none => 5),
      peer := if past 1 then some o.groupA.peng else s.twin.peer } }
    match bad with
    | some (_, c) => .next (note s ⟨c, 0, s.now⟩ none)
    | none =>
      let s := { s with twin := { s.twin with st := 1, key := some o.key, sync := some (o.syncOk, mode) } }
      .next (if s.twin.primary || !o.syncOk then s else takeImage s o.image)

/-! ### Detach, takeover, link down -/

/-- TWN_CTL.DETACH (R339): it takes effect at the next boundary. -/
def execTwnDetach (f : Func) (s : State) : Host.Outcome State Fault Refusal :=
  if !pfOn s f || !(s.twin.st == 2 || s.twin.st == 3) then .next s
  else .next { s with twin := { s.twin with detach := true } }

/-- TWN_CTL.TAKEOVER (R338), written to a STANDBY twin; it completes at the boundary after the last published command has run. -/
def execTwnTakeover (f : Func) (s : State) : Host.Outcome State Fault Refusal :=
  if !pfOn s f || s.twin.st != 3 || s.twin.primary then .next s
  else .next { s with twin := { s.twin with st := 4, takeover := true } }

/-- TWIN_LINK_DOWN (R339). A sync under way fails (R335). -/
def execTwinLinkDown (s : State) : Host.Outcome State Fault Refusal :=
  if !s.twin.linkup then .next s
  else
    let down (p : Port) : Port := { p with st := 0, width := 0 }
    .next (note (modPort (modPort { s with twin := { s.twin with
      linkup := false, sync := s.twin.sync.map (fun x => (false, x.2)) } } 16 down) 17 down) ⟨.twinLink, 0, s.now⟩ none)

/-! ### Divergence (R337) -/

/-- The oldest held divergent command of a queue. -/
def divergentCmd (s : State) (q : Nat) : Option Cmd := (queueAt s q).bind (fun x => x.cmds.find? (fun c => c.diverged && !isOver c))

/-- R337: the divergent command of a queue fails, with the index of its TWIN_DIVERGE (R397), and stops its queue. -/
def failDivergent (s : State) (q : Nat) : State :=
  match divergentCmd s q with
  | none => s
  | some c => endCmd (modCmd s q c.seq (fun c => { c with diverged := false })) q c.seq 1 c.dvIdx true

/-- TWN_RESOLVE FAIL, written to the primary: the command completes with status FAULT; the twin, told over the journal (log 33), discards its
result. -/
def execTwnResolveFail (f : Func) (q : Nat) (s : State) : Host.Outcome State Fault Refusal :=
  if !pfOn s f || twinSide s || (divergentCmd s q).isNone then .next s
  else .next (failDivergent (journal s (.resolve q false)) q)

/-- TWN_RESOLVE PUBLISH_PRIMARY, written to the primary: the twin is detached and the primary's result publishes. -/
def execTwnResolvePublishPrimary (f : Func) (q : Nat) (s : State) : Host.Outcome State Fault Refusal :=
  if !pfOn s f || twinSide s then .next s
  else match divergentCmd s q with
    | none => .next s
    | some c =>
      let s := journal s (.resolve q true)
      let s := { s with twin := { s.twin with detach := s.twin.detach || s.twin.st == 2 || s.twin.st == 3 } }
      .next (modCmd s q c.seq (fun c => { c with diverged := false, stage := .met s.beat.b }))

/-! ### What arrives over the twin link -/

/-- TWIN_JOURNAL (R334, R336): an entry from the primary, in cell order over both groups. A frame whose tag is wrong is counted at its group, and its cells are
dropped (Table 13.5). -/
def execTwinJournal (x : JCell) (s : State) : Host.Outcome State Fault Refusal :=
  if !twinSide s || s.twin.st == 4 then .next s
  else if !x.opens then
    .next (note (modPort s (16 + x.group) (fun y => { y with auth := satAdd y.auth 1 })) ⟨.linkAuth, linkDetail (16 + x.group) 0 0 0 0, s.now⟩ none)
  else match x.e with
    | .owner p own => .next (applyOwn p own s)
    | .mapHandle q h => .next (matchHandle s q h)
    | .resolve q pub =>
      .next (if pub then { s with twin := { s.twin with detach := true } } else failDivergent s q)
    | e => .next { s with twin := { s.twin with journal := s.twin.journal ++ [e] } }

/-- AGREEMENT_MESSAGE at its usable point (R337, R338): in MIRROR it meets the engine's own value; in STANDBY it tells the twin that the
primary has published. -/
def execAgreementMessage (m : Agree) (s : State) : Host.Outcome State Fault Refusal :=
  if s.twin.st == 2 then
    let s := { s with twin := { s.twin with heard := s.twin.heard + 1 } }
    let keep (s : State) : State := { s with twin := { s.twin with agrees := s.twin.agrees ++ [m] } }
    match cmdAt s m.q m.seq, queueAt s m.q with
    | some c, some x => match c.value with
      | some v => if c.peer.isSome then .next s else .next (compareAgree s x.part m.q c v m.value)
      | none => .next (keep s)
    | _, _ => .next (keep s)
  else if (s.twin.st == 3 || s.twin.st == 4) && !s.twin.primary then
    let s := { s with twin := { s.twin with done := smSet 0 s.twin.done m.q (m.seq + 1) } }
    match s.twin.made.find? (fun y => y.q == m.q && y.seq == m.seq) with
    | some y =>
      .next (checkOwn { s with twin := { s.twin with made := s.twin.made.filter (fun z => z != y) } }
        (match queueAt s m.q with | some x => x.part | none => 16) m.q y.value m.value)
    | none => .next { s with twin := { s.twin with agrees := s.twin.agrees ++ [m] } }
  else .next s

end Sys2Proof.Machine
end

