-- ==== Sys2Proof/Machine/Boot.lean ====
section
/-!
DEFINITION. Boot.lean: resets (R359, R360, R428), the phases of start-up (R361 to R373), repair apply (R146, R374, R375), inventory (R292,
R376 to R378), measurement (R379, R380) and CFG_DONE (R362, R399).
-/

namespace Sys2Proof.Machine

/-! ### Resets -/

/-- What lies outside the block, or is the model's own, outlives a reset: what was sent, the flash's repair areas, the free-value counters,
the queue. -/
def resetState (s : State) : State :=
  let r := State.resetOf s.build
  { r with free := s.free, nextKey := s.nextKey, posts := s.posts, pending := s.pending, mc := { r.mc with areas := s.mc.areas } }

/-- PORST_N (R359): everything but the fuses' content begins anew; every key is overwritten. -/
def execPorst (s : State) : Host.Outcome State Fault Refusal := .next (resetState s)

/-- SRST_N taken (R360): as PORST_N, but latched fuses and the MC's retained records stay. -/
def softReset (s : State) : State :=
  let r := resetState s
  { r with boot := { r.boot with fuses := s.boot.fuses, soft := true }, flt := { r.flt with retained := s.flt.retained } }

/-- SRST (R428): a pulse of `ns` nanoseconds. From 100 ns to 1 µs it may or may not be taken (log 11). -/
def execSrst (ns : Nat) (s : State) : Host.Outcome State Fault Refusal :=
  if ns < 100 then .next s
  else if ns ≥ 1000 then .next (softReset s)
  else
    let s' := { s with free := s.free + 1 }
    .next (if Config.shortReset s.free then softReset s' else s')

/-! ### Failure and read units (R372, R373) -/

/-- The unit index of CFGSTAT in a phase (R373); 0 where no unit is read. -/
def cfgUnit (b : BootSt) : W32 :=
  if b.phase == 2 then 0xFFFFFFFF else if b.phase == 3 then 0xFFFFFFFE else if b.phase == 4 then BitVec.ofNat 32 b.frame else 0

/-- R373: the 64 bits that CFGSTAT returns: the phase, the reason of Table 15.8, the unit index. -/
def cfgStat (b : BootSt) : W64 := BitVec.ofNat 64 (b.phase % 16 + b.reason % 256 * 2 ^ 4 + b.unit.toNat * 2 ^ 12)

/-- The configuration fails: CFG_ERR_N low until a reset, loaded firmware, microcode, keys and start-up slot loads gone, ports back in the quiet state (R373). -/
def bootFail (s : State) (reason : Nat) : State :=
  let b := { s.boot with err := true, reason := reason, unit := cfgUnit s.boot, secs := [], retry := false, started := false,
                         books := [], params := none, hdr := none, dice := none, phy := ⟨false, [], []⟩ }
  { s with loads := [], boot := b, mkey := 0, mc := { s.mc with run := false },
           cores := smMap emptyCore s.cores (fun _ c => { c with ucode := [] }) }

/-- Start-up stands in a phase and has not failed. -/
def inPhase (s : State) (n : Nat) : Bool := s.boot.phase == n && !s.boot.err

/-- A reading of a unit (R371): a leader whose flash does not respond fails with SOURCE; a follower sees nothing. -/
def withUnit (s : State) (r : UnitRead) (go : List Byte → State) : State :=
  match r.data with
  | some b => go b
  | none => if (match s.boot.fuses with | some f => f.leader | none => false) then bootFail s 0x0A else s

/-- R372: one read of a unit. `reason` is why this block rejects it, 0 if it accepts; `take` what acceptance does; `adv` what the next unit
is. The same unit is read again while CFG_RETRY_N is low, at most three times; a block that rejects the fourth read fails, and one whose rejection is `final`
(R369) at once. -/
def readUnit (s : State) (reason : Nat) (final groupLow : Bool) (take adv : State → State) : State :=
  let n := s.boot.reads + 1
  let ok := s.boot.acc || reason == 0
  if !ok && (final || n ≥ 4) then bootFail s reason
  else
    let s := if !s.boot.acc && reason == 0 then take s else s
    if (!ok || groupLow) && n < 4 then { s with boot := { s.boot with reads := n, acc := ok, retry := !ok } }
    else adv { s with boot := { s.boot with reads := 0, acc := false, retry := false } }

/-- A measurement index takes its value (R379). -/
def fixMeas (s : State) (i : Nat) (v : BitVec 384) : State := setMeas s i { value := v, extcnt := 0, valid := true, ext := false }

/-! ### Phases 2 to 4 -/

/-- BOOT_ROM_START (R360, R363 to R365): fuses are sensed, after SRST_N their latched values stand; SFDP and the key store are read each time. -/
def execBootRomStart (fz : Fuses) (s : State) : Host.Outcome State Fault Refusal :=
  if !inPhase s 1 then .next s
  else
    let f := match s.boot.fuses with | some f => if s.boot.soft then { f with store := fz.store, sfdpOk := fz.sfdpOk } else fz | none => fz
    let s := fixMeas (setPhase { s with boot := { s.boot with fuses := some f } } 2) 0 Config.romIdentity
    let fail (r : Nat) : State := { bootFail s r with boot := { (bootFail s r).boot with unit := 0 } }
    if !f.checkOk || f.pkhash == 0 then .next (fail 1)
    else if !f.sfdpOk then .next (fail 2)
    else .next s

/-- Table 15.4. -/
def parseDesc4 (b : List Byte) : BootDesc :=
  let w (k : Nat) : Nat := leNat ((b.drop k).take 4)
  { freq := leNat ((b.drop 5).take 1), imgbase := w 8, rsize := w 12, repbase := (List.range 8).map (fun p => w (16 + 4 * p)),
    certbase := w 48 }

/-- R366: the boot descriptor's MAGIC, DVER and CRC. -/
def descOk (b : List Byte) : Bool :=
  b.length == 64 && leNat (b.take 4) == 0x54445342 && leNat ((b.drop 4).take 1) == 1
    && crc32c (b.take 60) == BitVec.ofNat 32 (leNat (b.drop 60))

/-- BOOT_DESCRIPTOR (R366): one read of it, and of the position's certificate chain at CERTBASE, which R380 uses. -/
def execBootDescriptor (r : UnitRead) (cert : List (BitVec 8)) (s : State) : Host.Outcome State Fault Refusal :=
  if !inPhase s 2 then .next s
  else .next (withUnit s r (fun b => readUnit s (if descOk b then 0 else 2) false r.groupLow
    (fun s => { s with boot := { s.boot with desc := some (parseDesc4 b), cert := cert } }) (fun s => setPhase s 3)))

/-- R369: a section's place and size, the frames before it being `n`; one of default codebooks holds at most 64, of 32 bytes each (R72). -/
def secsOk : Nat → Option Nat → List ImgSec → Option Nat
  | n, _, [] => some n
  | n, last, x :: xs =>
    let typeOk := (1 ≤ x.type && x.type ≤ 4) || (0x10 ≤ x.type && x.type ≤ 0x17)
    let up := match last with | some t => t < x.type | none => true
    if typeOk && up && x.first == n && x.count ≥ 1 && 4096 * (x.count - 1) + 1 ≤ x.bytes && x.bytes ≤ 4096 * x.count
        && (x.type != 4 || x.bytes ≤ 2048) then
      secsOk (n + x.count) (some x.type) xs
    else none

/-- Table 15.5: entry i of the section table of a header. -/
def parseSec (b : List Byte) (i : Nat) : ImgSec :=
  let w (k n : Nat) : Nat := leNat ((b.drop (192 + 64 * i + k)).take n)
  { type := w 0 1, first := w 4 4, count := w 8 4, bytes := w 12 4, digest := BitVec.ofNat 384 (beNat ((b.drop (208 + 64 * i)).take 48)) }

/-- NSEC of a header. -/
def nsecOf (b : List Byte) : Nat := leNat ((b.drop 176).take 4)

/-- Table 15.5: what start-up keeps of a header, its content key unwrapped under the image key. -/
def parseImgHdr (s : State) (b : List Byte) : ImgHdr :=
  let w (k n : Nat) : Nat := leNat ((b.drop k).take n)
  { imgid := BitVec.ofNat 64 (w 8 8), svn := BitVec.ofNat 64 (w 16 8), nfrm := w 28 4, secs := (List.range (nsecOf b)).map (parseSec b),
    ckey := (unwrapKey s ((b.drop 32).take 40)).getD 0 }

/-- R368 step 1: MAGIC, FMT_MAJ, IMGLEN, NFRM, NSEC and reserved bytes; section entries beyond NSEC are zero. -/
def hdrFormBad (b : List Byte) : Bool :=
  let w (k n : Nat) : Nat := leNat ((b.drop k).take n)
  let nz (k n : Nat) : Bool := ((b.drop k).take n).any (· != 0)
  b.length != 4096 || w 0 4 != 0x47494D4E || w 5 1 != 1 || w 24 4 != 4096 + 4128 * w 28 4 || w 24 4 > 2 ^ 29 || nsecOf b < 3 || nsecOf b > 16
    || nz 6 2 || nz 169 7 || nz 180 12 || (List.range 16).any (fun i => nz (193 + 64 * i) 3) || nz (192 + 64 * nsecOf b) (1024 - 64 * nsecOf b)
    || nz 1312 2784

/-- R368: the checks of the 4,096 bytes of a header in order; the reason of Table 15.8, 0 for none. -/
def headerReason (s : State) (f : Fuses) (b : List Byte) : Nat :=
  let ones := ((List.range 64).filter (fun k => f.svnbits.getLsbD k)).length
  let h := parseImgHdr s b
  let pub := (b.drop 72).take 97
  if hdrFormBad b then 3
  else if sha384 pub != f.pkhash || !ecdsaOk pub ((b.drop 1216).take 96) (sha384 (b.take 1216)) then 4
  else if h.svn.toNat < ones then 5
  else if (unwrapKey s ((b.drop 32).take 40)).isNone then 6
  else if secsOk 0 none h.secs != some h.nfrm || !([1, 2, 3].all (fun t => h.secs.any (fun x => x.type == t))) then 3
  else 0

/-- IMAGE_HEADER (R368): one read of it; SHA-384 over its bytes 0 to 1,311 is measurement index 5. -/
def execImageHeader (data : Option (List (BitVec 8))) (groupLow : Bool) (s : State) : Host.Outcome State Fault Refusal :=
  match s.boot.fuses with
  | none => .next s
  | some f =>
    if !inPhase s 3 then .next s
    else .next (withUnit s ⟨data, groupLow⟩ (fun b => readUnit s (headerReason s f b) false groupLow
      (fun s => fixMeas { s with boot := { s.boot with hdr := some (parseImgHdr s b) } } 5 (sha384 (b.take 1312))) (fun s => setPhase s 4)))

/-- The section of frame k. -/
def secOf (h : ImgHdr) (k : Nat) : Option ImgSec := h.secs.find? (fun x => x.first ≤ k && k < x.first + x.count)

/-- LEN of frame k of a section (R369). -/
def frameLen (x : ImgSec) (k : Nat) : Nat := if k + 1 == x.first + x.count then x.bytes - 4096 * (x.count - 1) else 4096

/-- R369: the plain text of the 4,128 bytes of an image frame whose tag and CRC pass. -/
def openImgFrame (h : ImgHdr) (b : List Byte) : Option (List Byte) :=
  match gcmOpen (roundKeys (keyBytes h.ckey)) (h.imgid.toNat * 2 ^ 32 + leNat (b.take 4)) (b.take 16) ((b.drop 16).take 4096) (b.drop 4112) with
  | some p =>
    if b.length == 4128 && crc32c (p.take (leNat ((b.drop 6).take 2))) == BitVec.ofNat 32 (leNat ((b.drop 8).take 4)) then some p else none
  | none => none

/-- R369: why frame k is not accepted: 7 FRAME, 8 ORDER, 0 accepted. -/
def frameReason (h : ImgHdr) (x : ImgSec) (k : Nat) (b : List Byte) : Nat :=
  let w (k n : Nat) : Nat := leNat ((b.drop k).take n)
  match openImgFrame h b with
  | none => 7
  | some p =>
    if w 0 4 != k || w 4 1 != x.type || w 6 2 != frameLen x k || (p.drop (w 6 2)).any (· != 0) || w 5 1 != 0 || w 12 4 != 0 then 8 else 0

/-- An accepted frame is routed to its section; microcode to the store of every control core; the first frame of a slot stream starts a load (R355). -/
def routeFrame (h : ImgHdr) (x : ImgSec) (k : Nat) (b : List Byte) (s : State) : State :=
  let p := ((openImgFrame h b).getD []).take (frameLen x k)
  let s := { s with boot := { s.boot with secs := smMod [] s.boot.secs x.type (fun d => d ++ p) } }
  let s := if x.type == 2 then (List.range s.build.ncore).foldl (fun s c => modCore s c (fun y => { y with ucode := y.ucode ++ p })) s else s
  if x.type ≥ 0x10 && k == x.first && x.type - 0x10 < s.build.nslot then
    { s with loads := s.loads ++ [newLoad none (.image x.type) [x.type - 0x10]] }
  else s

/-- IMAGE_FRAME (R369): one read of the next frame. -/
def execImageFrame (r : UnitRead) (s : State) : Host.Outcome State Fault Refusal :=
  let k := s.boot.frame
  match s.boot.hdr with
  | none => .next s
  | some h => match secOf h k with
    | none => .next s
    | some x =>
      if !inPhase s 4 then .next s
      else .next (withUnit s r (fun b => readUnit s (frameReason h x k b) (frameReason h x k b == 8) r.groupLow (routeFrame h x k b) (fun s =>
        let s := { s with boot := { s.boot with frame := k + 1 } }
        if k + 1 == h.nfrm then setPhase s 5 else s)))

/-- FOLLOWER_TIMEOUT (R371): a follower sees no read command for 10 ms. -/
def execFollowerTimeout (s : State) : Host.Outcome State Fault Refusal :=
  match s.boot.fuses with
  | none => .next s
  | some f => if !f.leader && (inPhase s 2 || inPhase s 3 || inPhase s 4) then .next (bootFail s 0x0A) else .next s

/-! ### Phase 5 -/

/-- R370: the parameter block is bad. -/
def paramBad (b : List Byte) : Bool :=
  let nz (k n : Nat) : Bool := ((b.drop k).take n).any (fun x => x != 0)
  leNat (b.take 4) != 0x4B524150 || leNat ((b.drop 5).take 1) != 1 || nz 6 2 || nz 34 30
    || (List.range 16).any (fun p => nz (66 + 8 * p) 6) || (parseParams b).cethr == 0

/-- DIGEST of a section, zero if the image has none. -/
def secDigest (h : ImgHdr) (t : Nat) : BitVec 384 := match h.secs.find? (fun x => x.type == t) with | some x => x.digest | none => 0

/-- R379: the configuration measurement, over indices 0 to 5. -/
def configMeas (s : State) : BitVec 384 := sha384 ((List.range 6).flatMap (fun i => dig48 (getMeas s i).value))

/-- R380: a P-384 private key from a secret and a label: the 56 bytes that HKDF-Expand forms, modulo n - 1, plus 1. -/
def diceKey (secret label : List Byte) : Nat := beNat (hkdf56 (hmac384 secret label)) % (p384N - 1) + 1

/-- The characters of a label. -/
def labelBytes (x : String) : List Byte := x.toList.map (fun c => BitVec.ofNat 8 c.toNat)

/-- R380: a DER chain carries the DeviceID public key. -/
def certHas (pub : Option (Nat × Nat)) (cert : List Byte) : Bool :=
  match pub with
  | some p => (List.range cert.length).any (fun k => (cert.drop k).take 97 == ecBytes p)
  | none => false

/-- A DER length. -/
def derLen (n : Nat) : List Byte :=
  if n < 128 then natLe 1 n else if n < 256 then 0x81 :: natLe 1 n else 0x82 :: natBe 2 n

/-- A DER element. -/
def derTlv (tag : Byte) (body : List Byte) : List Byte := tag :: derLen body.length ++ body

/-- A DER sequence. -/
def derSeq (xs : List (List Byte)) : List Byte := derTlv 0x30 xs.flatten

/-- A DER object identifier. -/
def derOid (b : List Byte) : List Byte := derTlv 0x06 b

/-- A DER integer of a number of at most 48 bytes. -/
def derInt (v : Nat) : List Byte :=
  let b := (natBe 48 v).dropWhile (· == 0)
  derTlv 0x02 (match b with | [] => [0] | x :: _ => if x.toNat ≥ 128 then 0 :: b else b)

/-- A DER bit string of whole bytes. -/
def derBits (b : List Byte) : List Byte := derTlv 0x03 (0 :: b)

/-- The subjectPublicKeyInfo of a P-384 key (log 36). -/
def derSpki (p : Nat × Nat) : List Byte :=
  derSeq [derSeq [derOid [0x2A, 0x86, 0x48, 0xCE, 0x3D, 0x02, 0x01], derOid [0x2B, 0x81, 0x04, 0x00, 0x22]], derBits (ecBytes p)]

/-- The TCG DICE TcbInfo extension with the configuration measurement as its one FWID (R380, log 36). -/
def derTcb (conf : BitVec 384) : List Byte :=
  let fwid := derSeq [derOid [0x60, 0x86, 0x48, 0x01, 0x65, 0x03, 0x04, 0x02, 0x02], derTlv 0x04 (dig48 conf)]
  derSeq [derOid [0x67, 0x81, 0x05, 0x05, 0x04, 0x01], derTlv 0x04 (derSeq [derTlv 0xA6 fwid])]

/-- R380: the Alias certificate: the Alias public key and the configuration measurement in TcbInfo, signed with the DeviceID private key `d`. What R380 does not
give of it is free (log 36). -/
def aliasCert (d : Nat) (conf : BitVec 384) (leaf : Nat × Nat) : List Byte :=
  let tbs := derSeq [Config.certFields false conf leaf, derSpki leaf, derTlv 0xA3 (derSeq [derTcb conf, Config.certFields true conf leaf])]
  let sig := ecdsaSign d (sha384 tbs) (Config.certNonce conf % (p384N - 1) + 1)
  derSeq [tbs, derSeq [derOid [0x2A, 0x86, 0x48, 0xCE, 0x3D, 0x04, 0x03, 0x03]], derBits (derSeq [derInt sig.1, derInt sig.2])]

/-- R380: the identity that layer 0 forms from UDS and the configuration measurement: the DeviceID key pair, of which the private key is erased, and the
Alias key pair from CDI with its certificate. A certificate area that does not match is ignored. -/
def diceOf (uds : BitVec 256) (conf : BitVec 384) (cert : List Byte) : DiceId :=
  let d := diceKey (keyBytes uds) (labelBytes "NELOD DeviceID")
  let device := ecMul d (some p384G)
  let secret := diceKey (hmac384 (keyBytes uds) (dig48 conf)) (labelBytes "NELOD Alias")
  let leaf := ecMul secret (some p384G)
  { device := device, secret := secret, leaf := leaf, chain := if certHas device cert then cert else [],
    cert := match leaf with | some p => aliasCert d conf p | none => [] }

/-- MEASUREMENT (R361, R369, R370, R379, R380): digests compared, measurements set, the DICE identity derived, UDS locked, MC firmware started, which ends phase 5. -/
def execMeasurement (s : State) : Host.Outcome State Fault Refusal :=
  match s.boot.hdr, s.boot.fuses with
  | some h, some f =>
    if !inPhase s 5 || s.boot.started then .next s
    else if h.secs.any (fun x => sha384 (section_ s x.type) != x.digest) then .next (bootFail s 9)
    else if paramBad (section_ s 3) then .next (bootFail s 0x0B)
    else
      let s := [1, 2, 3, 4].foldl (fun s t => fixMeas s t (secDigest h t)) s
      let s := setPhase (fixMeas s 16 (configMeas s)) 6
      .next { s with
        mkey := s.nextKey, nextKey := s.nextKey + 1,
        boot := { s.boot with started := true, uds := true, params := some (parseParams (section_ s 3)),
                              books := pieces 32 (section_ s 4).length (section_ s 4), dice := some (diceOf f.uds (getMeas s 16).value s.boot.cert) },
        mc := { s.mc with run := true, svn := h.svn, imgid := h.imgid, fwver := Config.fwVersion (secDigest h 1) } }
  | _, _ => .next s

/-- FIRMWARE_START_TIMEOUT (R373, Table 15.1): MC firmware has not come to run within 10 ms of its start; the start is of phase 5. -/
def execFirmwareStartTimeout (s : State) : Host.Outcome State Fault Refusal :=
  if inPhase s 6 && s.boot.started then .next (bootFail (setPhase s 5) 0x0C) else .next s

/-! ### Phase 6 -/

/-- R292: what the MC finds at a stack port; geometry is height and die density (Table 12.8). -/
def takeStack (o : InvObs) (s : State) (p : Nat) : State :=
  let none_ : StkObs := ⟨false, 0, 0, 0, 0⟩
  let x := o.stks.getD p none_
  let geo (y : StkObs) : Nat := bitsOf y.id1.toNat 0 16
  let mis := x.present && geo x != geo (o.stks.getD 0 none_)
  let bad := !x.present || mis
  let s := setStk s p { getStk s p with
    present := x.present, failed := bad, mismatch := mis, id := if x.present then [x.id0, x.id1, x.id2, x.id3] else [] }
  if bad then note { s with stk := { s.stk with out := true } } ⟨.stackDown, reasonDetail 0 p 0, s.now⟩ none
  else putLive (rSTK p 0) 1 s

/-- Table 15.10: the entry of a stack. -/
def stackEntry (o : InvObs) (p : Nat) : InvEnt :=
  match o.stks[p]? with
  | some x => if x.present then ⟨1, p, 0, [x.id0, x.id1, x.id2, x.id3].flatMap (fun v => natLe 4 v.toNat)⟩ else ⟨1, p, 1, []⟩
  | none => ⟨1, p, 1, []⟩

/-- What the module of a port answers; nothing where none was read. -/
def modOf (o : InvObs) (p : Nat) : ModObs := (o.mods.find? (fun m => m.port == p)).getD ⟨p, false, false, [], [], [], none⟩

/-- Table 15.10: the entry of a slot: its identity frame as read back, absent where that holds no valid record (R348). -/
def slotEntry (o : InvObs) (k : Nat) : InvEnt :=
  let b := (o.slots.getD k []).take 64
  if (parseIdent b).isSome then ⟨3, k, 0, b⟩ else ⟨3, k, 1, []⟩

/-- Table 15.10: the entry of the board identity memory, where BOARDMEM says that it is present (Table 15.6). -/
def boardEntry (s : State) (o : InvObs) : List InvEnt :=
  let w := match s.boot.params with | some p => p.board | none => 0
  if bitsOf w 9 1 == 0 then []
  else
    let st := targetState s (bitsOf w 0 1) none o.board.ack1 o.board.ack2
    [⟨4, 0, st, if st == 0 then o.board.bytes.take 124 else []⟩]

/-- R377: the I3C targets whose static addresses the parameter block names: the board management controller and the board identity memory (Table 15.6). -/
def i3cTargets (s : State) : List (Nat × Nat) :=
  match s.boot.params with
  | none => []
  | some p =>
    (if bitsOf p.bmc 8 1 == 1 then [(bitsOf p.bmc 0 1, bitsOf p.bmc 1 7)] else [])
      ++ (if bitsOf p.board 9 1 == 1 && bitsOf p.board 1 1 == 0 then [(bitsOf p.board 0 1, bitsOf p.board 2 7)] else [])

/-- R378: the management bus of the board management controller is not isolated. -/
def bmcBus (s : State) : Bool := !s.mc.i3c.getLsbD (match s.boot.params with | some p => bitsOf p.bmc 0 1 | none => 0)

/-- R377: an in-band interrupt of a target is accepted: it has its address, and is the board management controller. -/
def takesIbi (s : State) (t : Nat × Nat) : Bool := bmcBus s && s.mc.dyn.contains t && match s.boot.params with
  | some p => bitsOf p.bmc 8 1 == 1 && t == (bitsOf p.bmc 0 1, bitsOf p.bmc 1 7)
  | none => false

/-- INVENTORY (R376 to R378): MC firmware takes stock; SETAASA makes each I3C target's static address its dynamic one; the stacks' PHYs leave their reset
(R428). It never fails the configuration. -/
def execInventory (o : InvObs) (s : State) : Host.Outcome State Fault Refusal :=
  if !inPhase s 6 || !mcUp s then .next s
  else
    let s := setPhase { s with boot := { s.boot with phy := { s.boot.phy with stk := List.range s.build.nstack } } } 7
    let s := (List.range s.build.nstack).foldl (takeStack o) s
    let s := o.buses.foldl takeBus s
    .next { s with mc := { s.mc with
      dyn := (i3cTargets s).filter (fun t => !s.mc.i3c.getLsbD t.1),
      inv := (List.range s.build.nstack).map (stackEntry o) ++ (List.range s.build.nbraid).map (fun p => modEntry s (modOf o p))
        ++ (List.range s.build.nslot).map (slotEntry o) ++ boardEntry s o } }

/-! ### Phase 7 -/

/-- R146: a remap takes the lowest free entry of its bank; a field remap of a row already remapped is skipped. -/
def putRemap (fld : Bool) (core bank row : Nat) (s : State) : State :=
  let c := getCore s core
  let known := (List.range 32).any (fun i => match smGet none c.remap (32 * bank + i) with | some r => r.lrow == row | none => false)
  match freeRemap s core bank with
  | some i => if (fld && known) || core ≥ s.build.ncore then s
    else setCore s core { c with remap := smSet none c.remap (32 * bank + i) (some ⟨fld, row⟩) }
  | none => s

/-- A fused repair (Table 15.2). -/
def putFused (s : State) : TestRep → State
  | .remap core bank row => putRemap false core bank row s
  | .rowmap core wafer u => if core ≥ s.build.ncore then s else modCore s core (fun c => { c with rowmap := smSet 32 c.rowmap wafer u })

/-- The fused row map of a Wafer. -/
def fusedMap (f : Fuses) (core wafer : Nat) : Nat :=
  f.testrep.foldl (fun u r => match r with
    | .rowmap c w v => if c == core && w == wafer then v else u
    | _ => u) 32

/-- R375: one entry of the active half. A torn one is skipped with REPAIR_TORN; a lane repair is made in the stack of its port. -/
def putRepair (f : Fuses) (s : State) (e : RepEnt) : State :=
  if !e.crcOk then note s ⟨.repairTorn, 0, s.now⟩ none
  else if e.kind == 3 then
    let p := e.unit % 8
    if p ≥ s.build.nstack || e.val % 512 > 287 then s
    else setStk s p { getStk s p with lanes := (getStk s p).lanes ++ [(e.sub, e.val % 512)] }
  else if e.unit ≥ s.build.ncore then s
  else match e.kind with
    | 1 => putRemap true e.unit e.sub e.val s
    | 2 =>
      if fusedMap f e.unit e.sub == 32 then modCore s e.unit (fun c => { c with rowmap := smSet 32 c.rowmap e.sub e.val })
      else modCore s e.unit (fun c => { c with tstat := smSet 0 c.tstat (e.sub / 4) 2 })
    | _ => s

/-- R101, R118: the array self-test of a core. -/
def putSelfTest (s : State) (x : SelfTest) : State :=
  if x.core ≥ s.build.ncore then s
  else modCore s x.core (fun c => { c with
    sout := x.sout,
    tstat := x.tstat.zipIdx.foldl (fun m (v, t) => if t < s.build.ntorte then smSet 0 m t (max (smGet 0 m t) v) else m) c.tstat })

/-- REPAIR_APPLY (R146, R154, R374, R375): the two halves of this position's area as read, and what the array self-test found. -/
def execRepairApply (r : AreaRead) (st : List SelfTest) (s : State) : Host.Outcome State Fault Refusal :=
  match s.boot.fuses with
  | none => .next s
  | some f =>
    if !inPhase s 7 then .next s
    else
      let a := activeHalf r.half0 r.half1
      let s := { s with mc := { s.mc with
        areas := smSet ⟨[], 0⟩ s.mc.areas f.cfgpos a,
        seq := BitVec.ofNat 32 (a.ents.foldl (fun m e => max m (e.seq.toNat + 1)) 0) } }
      let remaps := f.testrep.filter (fun r => match r with | .remap _ _ _ => true | _ => false)
      let maps := f.testrep.filter (fun r => match r with | .rowmap _ _ _ => true | _ => false)
      let s := (sortKey (fun e => e.seq.toNat) a.ents).foldl (putRepair f) ((remaps ++ maps).foldl putFused s)
      let s := st.foldl putSelfTest s
      .next (skipPhases (setPhase { s with spad := [], rows := [], errs := [] } 8))

/-! ### Phases 8 to 11 -/

/-- BRAID_TRAINING (R330, R428, Table 15.1): a cabled port's PHY leaves its reset; the port is put in service, with LR from the parameter block, and trains. -/
def execBraidTraining (port : Nat) (o : TrainObs) (s : State) : Host.Outcome State Fault Refusal :=
  match s.boot.params with
  | none => .next s
  | some pb =>
    if !inPhase s 8 || !(cabled s).contains port || s.boot.trained.contains port then .next s
    else
      let v := BitVec.ofNat 32 (1 + (if pb.brdlr.getLsbD port then 2 else 0))
      let b := { s.boot with trained := port :: s.boot.trained, phy := { s.boot.phy with bl := port :: s.boot.phy.bl } }
      let s := putLive (rBRD port 0) v { s with boot := b }
      .next (skipPhases (trainPort (modPort s port (fun x => { x with en := true, part := 0 })) port o))

/-- TWIN_HANDSHAKE (R361): groups trained, version and identities exchanged, a peer of another major being refused (R2, R331); the mode stays SOLO. The inventory entry of the twin holds the peer's ENGID,
GLB_BUILD, GLB_STEPPING and configuration measurement (Table 15.10). -/
def execTwinHandshake (reach : Bool) (peng : Nat) (minor : Nat) (id : TwinId) (s : State) :
    Host.Outcome State Fault Refusal :=
  if !inPhase s 9 then .next s
  else
    let ok := reach && id.maj == 1 && peng != engId s
    let body := natLe 2 peng ++ natLe 8 id.build.toNat ++ natLe 1 id.stepping ++ dig48 id.meas
    let e : InvEnt := ⟨5, 0, if ok then 0 else 2, if ok then body else []⟩
    let up (p : Port) : Port := { p with st := if ok then 2 else 0, width := if ok then 4 else 0 }
    let s := modPort (modPort s 16 up) 17 up
    .next (setPhase { s with
      twin := { s.twin with linkup := ok, minor := min 0 minor, peer := if ok then some peng else none },
      mc := { s.mc with inv := s.mc.inv ++ [e] } } 10)

/-- HOST_LINK_UP (R361): L0, or 100 ms have gone by, and training goes on after CFG_DONE. -/
def execHostLinkUp (l0 : Bool) (s : State) : Host.Outcome State Fault Refusal :=
  if inPhase s 10 then .next (setPhase { s with boot := { s.boot with l0 := l0 } } 11)
  else if inPhase s 11 && l0 then .next { s with boot := { s.boot with l0 := true } }
  else .next s

/-- CFG_DONE (R362, R376, R399): the inventory is measured; after SRST_N the retained records are entered again. -/
def execCfgDone (s : State) : Host.Outcome State Fault Refusal :=
  if !inPhase s 11 || s.cfgDone then .next s
  else
    let s := extendMeas { s with cfgDone := true } 6 (dig48 (sha384 (inventoryRec s)))
    .next (if s.boot.soft then s.flt.retained.foldl (fun s r => enterRec { r with retained := true } s) s else s)

end Sys2Proof.Machine
end

