-- ==== Sys2Proof/Machine/Spdm.lean ====
section
/-!
DEFINITION. Spdm.lean: the SPDM responder (R362, R381, R410, Table 15.12). Each transport keeps its own connection state. An answer is a
Post: the response code of DMTF DSP0274, and of its body what the spec determines (log 36).
-/

namespace Sys2Proof.Machine

/-- A transport before any request. -/
def emptySpdm : Spdm := ⟨0, none, false, 0, 0⟩

/-- The number of a transport. -/
def tportNo : Tport → Nat
  | .doe => 0 | .mctp => 1

/-- The connection state of a transport. -/
def getSpdm (s : State) (t : Tport) : Spdm := smGet emptySpdm s.spdm (tportNo t)

/-- Replace the connection state of a transport. -/
def setSpdm (s : State) (t : Tport) (c : Spdm) : State := { s with spdm := smSet emptySpdm s.spdm (tportNo t) c }

/-- R362, R378, R410: the responder answers: the MC runs, on MCTP from phase 6, while the bus of the board management controller is not isolated, and on DOE from
phase 10. -/
def spdmUp (s : State) (t : Tport) : Bool :=
  mcUp s && !s.boot.err && (match t with | .mctp => s.boot.phase ≥ 6 && bmcBus s | .doe => s.boot.phase ≥ 10)

/-- Table 15.12, R381: the DOE data object type, or the MCTP message type, of a message, secured or not. -/
def msgType (t : Tport) (sec : Bool) : Nat :=
  match t with
  | .doe => if sec then 2 else 1
  | .mctp => if sec then 6 else 5

/-- An answer: its two parameter bytes, then what follows them (log 36). -/
def reply (t : Tport) (sec : Bool) (code p1 p2 : Nat) (body : List Byte) (s : State) : State :=
  post s (.spdm t (msgType t sec) code (natLe 1 p1 ++ natLe 1 p2 ++ body))

/-- ERROR: 1 invalid request, 4 unexpected request, 6 decrypt error, 10 session limit exceeded. -/
def spdmError (t : Tport) (sec : Bool) (e : Nat) (s : State) : State := reply t sec 0x7F e 0 [] s

/-- `n` bytes of an answer that rest on draws, on the session's transcript or on what the spec does not give, from place k (log 36). -/
def freeBytes (s : State) (k n : Nat) : List Byte := (List.range n).map (fun i => Config.spdmByte s.free (k + i))

/-- A signature of 96 bytes under the Alias key, of the digest of a transcript that the commands do not carry (log 36). -/
def aliasSign (s : State) (k : Nat) : List Byte :=
  match s.boot.dice with
  | some d =>
    let sig := ecdsaSign d.secret (BitVec.ofNat 384 (beNat (freeBytes s k 48))) (beNat (freeBytes s (k + 48) 48) % (p384N - 1) + 1)
    natBe 48 sig.1 ++ natBe 48 sig.2
  | none => []

/-- The next answer draws anew. -/
def drawn (s : State) : State := { s with free := s.free + 1 }

/-- A request on a transport: it needs the connection step `need`. -/
def ask (t : Tport) (sec : Bool) (need : Nat) (go : Spdm → State → State) (s : State) : Host.Outcome State Fault Refusal :=
  if !spdmUp s t then .next s
  else if (getSpdm s t).step < need then .next (spdmError t sec 4 s)
  else .next (go (getSpdm s t) s)

/-- A request inside an established session. -/
def askSession (t : Tport) (go : Spdm → State → State) (s : State) : Host.Outcome State Fault Refusal :=
  ask t true 3 (fun c s => if c.sess.isNone || c.shake then spdmError t true 4 s else go c s) s

/-- GET_VERSION: 1.2 and 1.3; the connection begins anew. -/
def execGetVersion (t : Tport) (s : State) : Host.Outcome State Fault Refusal :=
  ask t false 0 (fun _ s => reply t false 0x04 0 0 (natLe 1 0 ++ natLe 1 2 ++ natLe 2 0x1200 ++ natLe 2 0x1300)
    (setSpdm s t { emptySpdm with step := 1 })) s

/-- What the messages of Table 15.12 make the responder capable of: certificates, challenge, signed and fresh measurements, encryption and MAC, key exchange,
heartbeat, key update, Alias certificate (log 36). -/
def capFlags : Nat := 2 + 4 + 16 + 32 + 64 + 128 + 512 + 8192 + 16384 + 262144

/-- GET_CAPABILITIES. -/
def execGetCapabilities (t : Tport) (s : State) : Host.Outcome State Fault Refusal :=
  ask t false 1 (fun c s => reply t false 0x61 0 0 (natLe 1 0 ++ freeBytes s 0 1 ++ natLe 2 0 ++ natLe 4 capFlags ++ freeBytes s 1 8)
    (setSpdm (drawn s) t { c with step := max c.step 2 })) s

/-- The algorithms of Table 15.12 as ALGORITHMS selects them: measurement hash SHA-384, ECDSA P-384, SHA-384, then DHE secp384r1, AES-256-GCM and the SPDM key
schedule (log 36). -/
def algBytes : List Byte :=
  natLe 2 48 ++ natLe 1 1 ++ natLe 1 2 ++ natLe 4 4 ++ natLe 4 0x80 ++ natLe 4 2 ++ natLe 12 0 ++ natLe 4 0
    ++ natLe 4 0x00102002 ++ natLe 4 0x00022003 ++ natLe 4 0x00012005

/-- NEGOTIATE_ALGORITHMS: `common` says that the requester offers the algorithms of Table 15.12. -/
def execNegotiateAlgorithms (t : Tport) (common : Bool) (s : State) : Host.Outcome State Fault Refusal :=
  ask t false 2 (fun c s => if common then reply t false 0x63 3 0 algBytes (setSpdm s t { c with step := 3 }) else spdmError t false 1 s) s

/-- The certificates of slot 0 (R380): the DeviceID chain as far as it matches, then the Alias certificate. -/
def certs (s : State) : List Byte :=
  match s.boot.dice with
  | some d => d.chain ++ d.cert
  | none => []

/-- The bytes of the DER element that a list begins with. -/
def derFirst (b : List Byte) : List Byte :=
  match b with
  | _ :: n :: r =>
    if n.toNat < 128 then b.take (2 + n.toNat)
    else b.take (2 + (n.toNat - 128) + beNat (r.take (n.toNat - 128)))
  | _ => b

/-- The certificate chain of slot 0: its length, the digest of its first certificate, its certificates (log 36). -/
def chain (s : State) : List Byte :=
  let c := certs s
  natLe 2 (52 + c.length) ++ natLe 2 0 ++ dig48 (sha384 (derFirst c)) ++ c

/-- GET_DIGESTS: slot 0 alone. -/
def execGetDigests (t : Tport) (s : State) : Host.Outcome State Fault Refusal :=
  ask t false 3 (fun _ s => reply t false 0x01 1 1 (dig48 (sha384 (chain s))) s) s

/-- GET_CERTIFICATE: the chain of slot 0, whole. -/
def execGetCertificate (t : Tport) (slot : Nat) (s : State) : Host.Outcome State Fault Refusal :=
  ask t false 3 (fun _ s => if slot == 0 then reply t false 0x02 0 0 (natLe 2 (chain s).length ++ natLe 2 0 ++ chain s) s
    else spdmError t false 1 s) s

/-- CHALLENGE: the digest of the chain, the responder's nonce, no opaque data, the signature, whose digest covers the request's nonce (log 36). -/
def execChallenge (t : Tport) (_nonce : BitVec 256) (s : State) : Host.Outcome State Fault Refusal :=
  ask t false 3 (fun _ s => reply t false 0x03 0 1
    (dig48 (sha384 (chain s)) ++ digBytes (Config.random s.free) ++ natLe 2 0 ++ aliasSign s 0) (drawn s)) s

/-- The measurement indices that Table 15.11 lists. -/
def measIndices : List Nat := [0, 1, 2, 3, 4, 5, 6, 8, 9, 10, 11, 12, 13, 14, 15, 16]

/-- Table 15.12: the value type of a measurement index: 0 immutable ROM, 1 mutable firmware, 2 hardware configuration, 3 firmware configuration. -/
def measType (i : Nat) : Nat := if i == 0 then 0 else if i == 6 then 2 else if i == 1 || i == 2 || (8 ≤ i && i ≤ 15) then 1 else 3

/-- One measurement as an answer carries it: SPDM index i + 1 for index i (R381), the DMTF specification, its size, then its value type, size and value as it
stands (log 36). -/
def measBlock (s : State) (i : Nat) : List Byte :=
  natLe 1 (i + 1) ++ natLe 1 1 ++ natLe 2 51 ++ natLe 1 (measType i) ++ natLe 2 48 ++ dig48 (getMeas s i).value

/-- MEASUREMENTS: the number of indices where that was asked for, the blocks, the responder's nonce, no opaque data, the signature. -/
def measReply (t : Tport) (total : Nat) (is : List Nat) (s : State) : State :=
  let body := is.flatMap (measBlock s)
  reply t false 0x60 total 0 (natLe 1 is.length ++ natLe 3 body.length ++ body ++ digBytes (Config.random s.free) ++ natLe 2 0 ++ aliasSign s 0)
    (drawn s)

/-- GET_MEASUREMENTS: 0 asks for the number of indices, 255 for all of them. -/
def execGetMeasurements (t : Tport) (idx : Nat) (s : State) : Host.Outcome State Fault Refusal :=
  ask t false 3 (fun _ s =>
    if idx == 0 then measReply t measIndices.length [] s
    else if idx == 255 then measReply t 0 measIndices s
    else if measIndices.contains (idx - 1) then measReply t 0 [idx - 1] s
    else spdmError t false 1 s) s

/-- KEY_EXCHANGE: a session begins its handshake; one at a time on a transport. The answer: session identifier, random data, exchange data, signature, verify
data (log 36). -/
def execKeyExchange (t : Tport) (reqSid : BitVec 16) (s : State) : Host.Outcome State Fault Refusal :=
  ask t false 3 (fun c s =>
    if c.sess.isSome then spdmError t false 10 s
    else
      let sid : BitVec 16 := (Config.random s.free).truncate 16
      reply t false 0x64 0 0 (natLe 2 sid.toNat ++ natLe 2 0 ++ freeBytes s 96 128 ++ natLe 2 0 ++ aliasSign s 0 ++ freeBytes s 224 48)
        (setSpdm (drawn s) t { c with sess := some (reqSid, sid), shake := true })) s

/-- FINISH: it completes the handshake if its MAC holds, else the session is gone. -/
def execFinish (t : Tport) (macOk : Bool) (s : State) : Host.Outcome State Fault Refusal :=
  ask t true 3 (fun c s =>
    if c.sess.isNone || !c.shake then spdmError t true 4 s
    else if macOk then reply t true 0x65 0 0 [] (setSpdm s t { c with shake := false, kReq := 0, kRsp := 0 })
    else spdmError t true 6 (setSpdm s t { c with sess := none, shake := false })) s

/-- HEARTBEAT. -/
def execHeartbeat (t : Tport) (s : State) : Host.Outcome State Fault Refusal :=
  askSession t (fun _ s => reply t true 0x68 0 0 [] s) s

/-- KEY_UPDATE: the requester's direction, or both. -/
def execKeyUpdate (t : Tport) (both : Bool) (s : State) : Host.Outcome State Fault Refusal :=
  askSession t (fun c s => reply t true 0x69 (if both then 2 else 1) 0 []
    (setSpdm s t { c with kReq := c.kReq + 1, kRsp := if both then c.kRsp + 1 else c.kRsp })) s

/-- END_SESSION. -/
def execEndSession (t : Tport) (s : State) : Host.Outcome State Fault Refusal :=
  askSession t (fun c s => reply t true 0x6C 0 0 [] (setSpdm s t { c with sess := none, kReq := 0, kRsp := 0 })) s

end Sys2Proof.Machine
end

