-- ==== Sys2Proof/Machine/Streams.lean ====
section
/-!
DEFINITION. Streams.lean: the meanings of the stream commands and of the accesses that take open ports (LANDING, STORE_READ): first the commands that wait on the
streams and need wait no longer go on, since each of them issues before what is given after it (R30, R31, R178), then the command's own effect.
-/

namespace Sys2Proof.Machine

/-- SET: goSet, once what waits has gone on. -/
def execSet (i : Iss) (dst : Reg) (src : Src) (hi : Bool) (s : State) : Host.Outcome State Fault Refusal := goSet i dst src hi (settleHeld s)

/-- ADD: goAdd, once what waits has gone on. -/
def execAdd (i : Iss) (dst : Reg) (src : Src) (s : State) : Host.Outcome State Fault Refusal := goAdd i dst src (settleHeld s)

/-- SUB: goSub, once what waits has gone on. -/
def execSub (i : Iss) (dst : Reg) (src : Src) (s : State) : Host.Outcome State Fault Refusal := goSub i dst src (settleHeld s)

/-- LOOP: goLoop, once what waits has gone on. -/
def execLoop (i : Iss) (cnt : Reg) (reserve : W32) (s : State) : Host.Outcome State Fault Refusal := goLoop i cnt reserve (settleHeld s)

/-- ENDLOOP: goEndloop, once what waits has gone on. -/
def execEndloop (i : Iss) (s : State) : Host.Outcome State Fault Refusal := goEndloop i (settleHeld s)

/-- WAITSC: goWaitsc, once what waits has gone on. -/
def execWaitsc (i : Iss) (w : Option WaitNext) (c : Cond) (s : State) : Host.Outcome State Fault Refusal := goWaitsc i w c (settleHeld s)

/-- SIGNALSC: goSignalsc, once what waits has gone on. -/
def execSignalsc (i : Iss) (remote : Option Nat) (g : Sig) (s : State) : Host.Outcome State Fault Refusal := goSignalsc i remote g (settleHeld s)

/-- REALIGN: goRealign, once what waits has gone on. -/
def execRealign (i : Iss) (group : Nat) (s : State) : Host.Outcome State Fault Refusal := goRealign i group (settleHeld s)

/-- LAUNCH: goLaunch, once what waits has gone on. -/
def execLaunch (i : Iss) (eng : Strm) (block boff cyc : Nat) (ps : List (Option Nat)) (sig : Option Sig) (s : State) : Host.Outcome State Fault Refusal := goLaunch i eng block boff cyc ps sig (settleHeld s)

/-- CMP: goCmp, once what waits has gone on. -/
def execCmp (i : Iss) (flag cond x : Nat) (y : CmpSrc) (s : State) : Host.Outcome State Fault Refusal := goCmp i flag cond x y (settleHeld s)

/-- SKIPIF: goSkipif, once what waits has gone on. -/
def execSkipif (i : Iss) (sense : Bool) (flag : Nat) (nextBad : Bool) (s : State) : Host.Outcome State Fault Refusal := goSkipif i sense flag nextBad (settleHeld s)

/-- SEGEND: goSegend, once what waits has gone on. -/
def execSegend (i : Iss) (s : State) : Host.Outcome State Fault Refusal := goSegend i (settleHeld s)

/-- MBXSEND: goMbxsend, once what waits has gone on. -/
def execMbxsend (i : Iss) (mbx lo hi : Nat) (s : State) : Host.Outcome State Fault Refusal := goMbxsend i mbx lo hi (settleHeld s)

/-- BEATREAD: goBeatread, once what waits has gone on. -/
def execBeatread (i : Iss) (sb sc : Nat) (s : State) : Host.Outcome State Fault Refusal := goBeatread i sb sc (settleHeld s)

/-- HALT: goHalt, once what waits has gone on. -/
def execHalt (i : Iss) (code : W32) (s : State) : Host.Outcome State Fault Refusal := goHalt i code (settleHeld s)

/-- LDS: goLds, once what waits has gone on. -/
def execLds (i : Iss) (o : LdOps) (s : State) : Host.Outcome State Fault Refusal := goLds i o (settleHeld s)

/-- LDH: goLdh, once what waits has gone on. -/
def execLdh (i : Iss) (o : LdOps) (s : State) : Host.Outcome State Fault Refusal := goLdh i o (settleHeld s)

/-- LDW: goLdw, once what waits has gone on. -/
def execLdw (i : Iss) (o : LdOps) (s : State) : Host.Outcome State Fault Refusal := goLdw i o (settleHeld s)

/-- STS: goSts, once what waits has gone on. -/
def execSts (i : Iss) (o : StOps) (s : State) : Host.Outcome State Fault Refusal := goSts i o (settleHeld s)

/-- STH: goSth, once what waits has gone on. -/
def execSth (i : Iss) (o : StOps) (s : State) : Host.Outcome State Fault Refusal := goSth i o (settleHeld s)

/-- DIGEST_OPEN: goDigestOpen, once what waits has gone on. -/
def execDigestOpen (i : Iss) (aOff pObj dstr : Nat) (s : State) : Host.Outcome State Fault Refusal := goDigestOpen i aOff pObj dstr (settleHeld s)

/-- DIGEST_CLOSE: goDigestClose, once what waits has gone on. -/
def execDigestClose (i : Iss) (aRoot dstr : Nat) (s : State) : Host.Outcome State Fault Refusal := goDigestClose i aRoot dstr (settleHeld s)

/-- MVM: goMvm, once what waits has gone on. -/
def execMvm (i : Iss) (aSrc aDst rows : Nat) (x : Ext) (s : State) : Host.Outcome State Fault Refusal := goMvm i aSrc aDst rows x (settleHeld s)

/-- MVB: goMvb, once what waits has gone on. -/
def execMvb (i : Iss) (aSrc port cells : Nat) (x : Ext) (s : State) : Host.Outcome State Fault Refusal := goMvb i aSrc port cells x (settleHeld s)

/-- FILLC: goFillc, once what waits has gone on. -/
def execFillc (i : Iss) (aDst rows : Nat) (v : W32) (s : State) : Host.Outcome State Fault Refusal := goFillc i aDst rows v (settleHeld s)

/-- COPYR: goCopyr, once what waits has gone on. -/
def execCopyr (i : Iss) (aSrc aDst rows : Nat) (x : Ext) (s : State) : Host.Outcome State Fault Refusal := goCopyr i aSrc aDst rows x (settleHeld s)

/-- HOLD: goHold, once what waits has gone on. -/
def execHold (i : Iss) (o : HoldOps) (x : Ext) (s : State) : Host.Outcome State Fault Refusal := goHold i o x (settleHeld s)

/-- MMA: goMma, once what waits has gone on. -/
def execMma (i : Iss) (o : MmaOps) (x : Ext) (s : State) : Host.Outcome State Fault Refusal := goMma i o x (settleHeld s)

/-- DRAIN: goDrain, once what waits has gone on. -/
def execDrain (i : Iss) (o : DrainOps) (x : Ext) (s : State) : Host.Outcome State Fault Refusal := goDrain i o x (settleHeld s)

/-- SPILL: goSpill, once what waits has gone on. -/
def execSpill (i : Iss) (o : SpillOps) (x : Ext) (s : State) : Host.Outcome State Fault Refusal := goSpill i o x (settleHeld s)

/-- RELOAD: goReload, once what waits has gone on. -/
def execReload (i : Iss) (o : SpillOps) (x : Ext) (s : State) : Host.Outcome State Fault Refusal := goReload i o x (settleHeld s)

/-- ACCUMULATE: goAccumulate, once what waits has gone on. -/
def execAccumulate (i : Iss) (o : SpillOps) (x : Ext) (s : State) : Host.Outcome State Fault Refusal := goAccumulate i o x (settleHeld s)

/-- EWM: goEwm, once what waits has gone on. -/
def execEwm (i : Iss) (o : EwmOps) (x : Ext) (s : State) : Host.Outcome State Fault Refusal := goEwm i o x (settleHeld s)

/-- MERINGUE: goMeringue, once what waits has gone on. -/
def execMeringue (i : Iss) (o : MerOps) (s : State) : Host.Outcome State Fault Refusal := goMeringue i o (settleHeld s)

/-- MVX: goMvx, once what waits has gone on. -/
def execMvx (i : Iss) (o : MvxOps) (x : Ext) (s : State) : Host.Outcome State Fault Refusal := goMvx i o x (settleHeld s)

/-- SDRAIN: goSdrain, once what waits has gone on. -/
def execSdrain (i : Iss) (o : SdrainOps) (x : Ext) (s : State) : Host.Outcome State Fault Refusal := goSdrain i o x (settleHeld s)

/-- VADD: goVadd, once what waits has gone on. -/
def execVadd (i : Iss) (o : GzOps) (x : Ext) (s : State) : Host.Outcome State Fault Refusal := goVadd i o x (settleHeld s)

/-- VMUL: goVmul, once what waits has gone on. -/
def execVmul (i : Iss) (o : GzOps) (x : Ext) (s : State) : Host.Outcome State Fault Refusal := goVmul i o x (settleHeld s)

/-- VFMA: goVfma, once what waits has gone on. -/
def execVfma (i : Iss) (o : GzOps) (x : Ext) (s : State) : Host.Outcome State Fault Refusal := goVfma i o x (settleHeld s)

/-- VMAX: goVmax, once what waits has gone on. -/
def execVmax (i : Iss) (o : GzOps) (x : Ext) (s : State) : Host.Outcome State Fault Refusal := goVmax i o x (settleHeld s)

/-- VSUMX_ADD: goVsumxAdd, once what waits has gone on. -/
def execVsumxAdd (i : Iss) (o : VsOps) (x : Ext) (s : State) : Host.Outcome State Fault Refusal := goVsumxAdd i o x (settleHeld s)

/-- VSUMX_READ: goVsumxRead, once what waits has gone on. -/
def execVsumxRead (i : Iss) (o : VsOps) (x : Ext) (s : State) : Host.Outcome State Fault Refusal := goVsumxRead i o x (settleHeld s)

/-- VSUMX_SAVE: goVsumxSave, once what waits has gone on. -/
def execVsumxSave (i : Iss) (o : VsOps) (x : Ext) (s : State) : Host.Outcome State Fault Refusal := goVsumxSave i o x (settleHeld s)

/-- VSUMX_MERGE: goVsumxMerge, once what waits has gone on. -/
def execVsumxMerge (i : Iss) (o : VsOps) (x : Ext) (s : State) : Host.Outcome State Fault Refusal := goVsumxMerge i o x (settleHeld s)

/-- VQUANT: goVquant, once what waits has gone on. -/
def execVquant (i : Iss) (o : VqOps) (x : Ext) (s : State) : Host.Outcome State Fault Refusal := goVquant i o x (settleHeld s)

/-- VDEQ: goVdeq, once what waits has gone on. -/
def execVdeq (i : Iss) (o : GzOps) (x : Ext) (s : State) : Host.Outcome State Fault Refusal := goVdeq i o x (settleHeld s)

/-- VEXP2: goVexp2, once what waits has gone on. -/
def execVexp2 (i : Iss) (o : GzOps) (x : Ext) (s : State) : Host.Outcome State Fault Refusal := goVexp2 i o x (settleHeld s)

/-- VLOG2: goVlog2, once what waits has gone on. -/
def execVlog2 (i : Iss) (o : GzOps) (x : Ext) (s : State) : Host.Outcome State Fault Refusal := goVlog2 i o x (settleHeld s)

/-- VRSQRT: goVrsqrt, once what waits has gone on. -/
def execVrsqrt (i : Iss) (o : GzOps) (x : Ext) (s : State) : Host.Outcome State Fault Refusal := goVrsqrt i o x (settleHeld s)

/-- VRECIP: goVrecip, once what waits has gone on. -/
def execVrecip (i : Iss) (o : GzOps) (x : Ext) (s : State) : Host.Outcome State Fault Refusal := goVrecip i o x (settleHeld s)

/-- VTANH: goVtanh, once what waits has gone on. -/
def execVtanh (i : Iss) (o : GzOps) (x : Ext) (s : State) : Host.Outcome State Fault Refusal := goVtanh i o x (settleHeld s)

/-- VSIG: goVsig, once what waits has gone on. -/
def execVsig (i : Iss) (o : GzOps) (x : Ext) (s : State) : Host.Outcome State Fault Refusal := goVsig i o x (settleHeld s)

/-- XOP: goXop, once what waits has gone on. -/
def execXop (i : Iss) (o : XopOps) (x : Ext) (s : State) : Host.Outcome State Fault Refusal := goXop i o x (settleHeld s)

/-- LANDING: goLanding, once what waits has gone on. -/
def execLanding (id c : Nat) (s : State) : Host.Outcome State Fault Refusal := goLanding id c (settleHeld s)

/-- STORE_READ: goStoreRead, once what waits has gone on. -/
def execStoreRead (id c : Nat) (s : State) : Host.Outcome State Fault Refusal := goStoreRead id c (settleHeld s)

end Sys2Proof.Machine
end

