-- ==== Sys2Proof/Machine/Dispatch.lean ====
section
/-!
DEFINITION. Dispatch.lean: the meaning of every command, one arm per constructor of Instr in the order of the opcode table.
-/

namespace Sys2Proof.Machine

/-- The effect of a command on everything but the queue. -/
def exec (i : Instr) (s : State) : Host.Outcome State Fault Refusal :=
  match i with
  | .set iss dst src hi => Sys2Proof.Machine.execSet iss dst src hi s
  | .add iss dst src => Sys2Proof.Machine.execAdd iss dst src s
  | .sub iss dst src => Sys2Proof.Machine.execSub iss dst src s
  | .loop iss cnt reserve => Sys2Proof.Machine.execLoop iss cnt reserve s
  | .endloop iss => Sys2Proof.Machine.execEndloop iss s
  | .waitsc iss w c => Sys2Proof.Machine.execWaitsc iss w c s
  | .signalsc iss remote g => Sys2Proof.Machine.execSignalsc iss remote g s
  | .realign iss group => Sys2Proof.Machine.execRealign iss group s
  | .launch iss eng block boff cyc ps sig => Sys2Proof.Machine.execLaunch iss eng block boff cyc ps sig s
  | .cmp iss flag cond x y => Sys2Proof.Machine.execCmp iss flag cond x y s
  | .skipif iss sense flag nextBad => Sys2Proof.Machine.execSkipif iss sense flag nextBad s
  | .segend iss => Sys2Proof.Machine.execSegend iss s
  | .mbxsend iss mbx lo hi => Sys2Proof.Machine.execMbxsend iss mbx lo hi s
  | .beatread iss sb sc => Sys2Proof.Machine.execBeatread iss sb sc s
  | .halt iss code => Sys2Proof.Machine.execHalt iss code s
  | .lds iss o => Sys2Proof.Machine.execLds iss o s
  | .ldh iss o => Sys2Proof.Machine.execLdh iss o s
  | .ldw iss o => Sys2Proof.Machine.execLdw iss o s
  | .sts iss o => Sys2Proof.Machine.execSts iss o s
  | .sth iss o => Sys2Proof.Machine.execSth iss o s
  | .digestOpen iss aOff pObj dstr => Sys2Proof.Machine.execDigestOpen iss aOff pObj dstr s
  | .digestClose iss aRoot dstr => Sys2Proof.Machine.execDigestClose iss aRoot dstr s
  | .mvm iss aSrc aDst rows x => Sys2Proof.Machine.execMvm iss aSrc aDst rows x s
  | .mvb iss aSrc port cells x => Sys2Proof.Machine.execMvb iss aSrc port cells x s
  | .fillc iss aDst rows v => Sys2Proof.Machine.execFillc iss aDst rows v s
  | .copyr iss aSrc aDst rows x => Sys2Proof.Machine.execCopyr iss aSrc aDst rows x s
  | .hold iss o x => Sys2Proof.Machine.execHold iss o x s
  | .mma iss o x => Sys2Proof.Machine.execMma iss o x s
  | .drain iss o x => Sys2Proof.Machine.execDrain iss o x s
  | .spill iss o x => Sys2Proof.Machine.execSpill iss o x s
  | .reload iss o x => Sys2Proof.Machine.execReload iss o x s
  | .accumulate iss o x => Sys2Proof.Machine.execAccumulate iss o x s
  | .ewm iss o x => Sys2Proof.Machine.execEwm iss o x s
  | .meringue iss o => Sys2Proof.Machine.execMeringue iss o s
  | .mvx iss o x => Sys2Proof.Machine.execMvx iss o x s
  | .sdrain iss o x => Sys2Proof.Machine.execSdrain iss o x s
  | .vadd iss o x => Sys2Proof.Machine.execVadd iss o x s
  | .vmul iss o x => Sys2Proof.Machine.execVmul iss o x s
  | .vfma iss o x => Sys2Proof.Machine.execVfma iss o x s
  | .vmax iss o x => Sys2Proof.Machine.execVmax iss o x s
  | .vsumxAdd iss o x => Sys2Proof.Machine.execVsumxAdd iss o x s
  | .vsumxRead iss o x => Sys2Proof.Machine.execVsumxRead iss o x s
  | .vsumxSave iss o x => Sys2Proof.Machine.execVsumxSave iss o x s
  | .vsumxMerge iss o x => Sys2Proof.Machine.execVsumxMerge iss o x s
  | .vquant iss o x => Sys2Proof.Machine.execVquant iss o x s
  | .vdeq iss o x => Sys2Proof.Machine.execVdeq iss o x s
  | .vexp2 iss o x => Sys2Proof.Machine.execVexp2 iss o x s
  | .vlog2 iss o x => Sys2Proof.Machine.execVlog2 iss o x s
  | .vrsqrt iss o x => Sys2Proof.Machine.execVrsqrt iss o x s
  | .vrecip iss o x => Sys2Proof.Machine.execVrecip iss o x s
  | .vtanh iss o x => Sys2Proof.Machine.execVtanh iss o x s
  | .vsig iss o x => Sys2Proof.Machine.execVsig iss o x s
  | .xop iss o x => Sys2Proof.Machine.execXop iss o x s
  | .run q h b rd bp arch => Sys2Proof.Machine.execRun q h b rd bp arch s
  | .copy q h b => Sys2Proof.Machine.execCopy q h b s
  | .fill q h b => Sys2Proof.Machine.execFill q h b s
  | .signal q h => Sys2Proof.Machine.execSignal q h s
  | .wait q h evt thresh rec => Sys2Proof.Machine.execWait q h evt thresh rec s
  | .publish q h => Sys2Proof.Machine.execPublish q h s
  | .loadSlot q h b => Sys2Proof.Machine.execLoadSlot q h b s
  | .mapExtent q h b => Sys2Proof.Machine.execMapExtent q h b s
  | .mapRegion q h b => Sys2Proof.Machine.execMapRegion q h b s
  | .mapSeal q h b => Sys2Proof.Machine.execMapSeal q h b s
  | .unmap q h handle => Sys2Proof.Machine.execUnmap q h handle s
  | .queryCapability q h b => Sys2Proof.Machine.execQueryCapability q h b s
  | .queryInventory q h b => Sys2Proof.Machine.execQueryInventory q h b s
  | .queryQuota q h b => Sys2Proof.Machine.execQueryQuota q h b s
  | .ctxCreate f id rec => Sys2Proof.Machine.execCtxCreate f id rec s
  | .ctxDestroy f x => Sys2Proof.Machine.execCtxDestroy f x s
  | .ctxReset f x => Sys2Proof.Machine.execCtxReset f x s
  | .qStop f q => Sys2Proof.Machine.execQStop f q s
  | .qRestart f q => Sys2Proof.Machine.execQRestart f q s
  | .qReset f x tail => Sys2Proof.Machine.execQReset f x tail s
  | .evtFree f idx rec => Sys2Proof.Machine.execEvtFree f idx rec s
  | .hqDb f n x tail => Sys2Proof.Machine.execHqDb f n x tail s
  | .hqOvfKick f => Sys2Proof.Machine.execHqOvfKick f s
  | .ovfScan bits atomicEn tails => Sys2Proof.Machine.execOvfScan bits atomicEn tails s
  | .queueResidency p act => Sys2Proof.Machine.execQueueResidency p act s
  | .glbApply f w => Sys2Proof.Machine.execGlbApply f w s
  | .beatBoundaryApply => Sys2Proof.Machine.execBeatBoundaryApply s
  | .regWrite f off v acc => Sys2Proof.Machine.execRegWrite f off v acc s
  | .beatCountLoRead f => Sys2Proof.Machine.execBeatCountLoRead f s
  | .mbxLockRead f n => Sys2Proof.Machine.execMbxLockRead f n s
  | .mbxLockWrite f n w => Sys2Proof.Machine.execMbxLockWrite f n w s
  | .mbxTxWrite f n hi w => Sys2Proof.Machine.execMbxTxWrite f n hi w s
  | .mbxRxRead f n => Sys2Proof.Machine.execMbxRxRead f n s
  | .mbxTake n => Sys2Proof.Machine.execMbxTake n s
  | .repairRelay n w0 w1 w2 fl => Sys2Proof.Machine.execRepairRelay n w0 w1 w2 fl s
  | .scrubPeriod n w0 => Sys2Proof.Machine.execScrubPeriod n w0 s
  | .beatCtlAcquire f w => Sys2Proof.Machine.execBeatCtlAcquire f w s
  | .acquisitionStart => Sys2Proof.Machine.execAcquisitionStart s
  | .acquisitionTimeout => Sys2Proof.Machine.execAcquisitionTimeout s
  | .beatEdge src c => Sys2Proof.Machine.execBeatEdge src c s
  | .beatEdgeTimeout => Sys2Proof.Machine.execBeatEdgeTimeout s
  | .holdoverEdge => Sys2Proof.Machine.execHoldoverEdge s
  | .beatLost => Sys2Proof.Machine.execBeatLost s
  | .pinFrame first rest => Sys2Proof.Machine.execPinFrame first rest s
  | .beatBlock port c bytes offer => Sys2Proof.Machine.execBeatBlock port c bytes offer s
  | .guardHold => Sys2Proof.Machine.execGuardHold s
  | .realignCheck p g => Sys2Proof.Machine.execRealignCheck p g s
  | .segmentStart x => Sys2Proof.Machine.execSegmentStart x s
  | .descriptorPop core strm c => Sys2Proof.Machine.execDescriptorPop core strm c s
  | .segmentEnd p => Sys2Proof.Machine.execSegmentEnd p s
  | .segLimit p => Sys2Proof.Machine.execSegLimit p s
  | .abortComplete p => Sys2Proof.Machine.execAbortComplete p s
  | .landing id c => Sys2Proof.Machine.execLanding id c s
  | .storeRead id c => Sys2Proof.Machine.execStoreRead id c s
  | .stackBurst core pch => Sys2Proof.Machine.execStackBurst core pch s
  | .stackReadData g err => Sys2Proof.Machine.execStackReadData g err s
  | .hostReadCompletion id r => Sys2Proof.Machine.execHostReadCompletion id r s
  | .digestLeafDone job data => Sys2Proof.Machine.execDigestLeafDone job data s
  | .publication q => Sys2Proof.Machine.execPublication q s
  | .commandRetire q => Sys2Proof.Machine.execCommandRetire q s
  | .eventSignal rec => Sys2Proof.Machine.execEventSignal rec s
  | .eventAbandon idx rec => Sys2Proof.Machine.execEventAbandon idx rec s
  | .quotaReset x => Sys2Proof.Machine.execQuotaReset x s
  | .extStageCmd f w => Sys2Proof.Machine.execExtStageCmd f w s
  | .extFlip f w => Sys2Proof.Machine.execExtFlip f w s
  | .extFlipEffect => Sys2Proof.Machine.execExtFlipEffect s
  | .retainedRelease => Sys2Proof.Machine.execRetainedRelease s
  | .ownerGrant p => Sys2Proof.Machine.execOwnerGrant p s
  | .ownerRelease x => Sys2Proof.Machine.execOwnerRelease x s
  | .coreMove core => Sys2Proof.Machine.execCoreMove core s
  | .bankPowerChange core bank => Sys2Proof.Machine.execBankPowerChange core bank s
  | .bankWakeDone core bank => Sys2Proof.Machine.execBankWakeDone core bank s
  | .portBindEffect port => Sys2Proof.Machine.execPortBindEffect port s
  | .slotBindEffect slot => Sys2Proof.Machine.execSlotBindEffect slot s
  | .fieldRemap appendOk => Sys2Proof.Machine.execFieldRemap appendOk s
  | .mcRecordRead => Sys2Proof.Machine.execMcRecordRead s
  | .ringWrite => Sys2Proof.Machine.execRingWrite s
  | .fltHeadWrite f w => Sys2Proof.Machine.execFltHeadWrite f w s
  | .faultnClear f => Sys2Proof.Machine.execFaultnClear f s
  | .scrubRow => Sys2Proof.Machine.execScrubRow s
  | .stackScrub g err => Sys2Proof.Machine.execStackScrub g err s
  | .dieSensorSample temps => Sys2Proof.Machine.execDieSensorSample temps s
  | .stackTempCheck temps => Sys2Proof.Machine.execStackTempCheck temps s
  | .thermClear => Sys2Proof.Machine.execThermClear s
  | .resume f => Sys2Proof.Machine.execResume f s
  | .watchdogExpiry fwOk => Sys2Proof.Machine.execWatchdogExpiry fwOk s
  | .functionLevelReset x => Sys2Proof.Machine.execFunctionLevelReset x s
  | .powerStateChange f d3 => Sys2Proof.Machine.execPowerStateChange f d3 s
  | .brdCtlTrain f port o m => Sys2Proof.Machine.execBrdCtlTrain f port o m s
  | .laneLost port frames o => Sys2Proof.Machine.execLaneLost port frames o s
  | .braidFrame port c r => Sys2Proof.Machine.execBraidFrame port c r s
  | .cellLanding port cidx => Sys2Proof.Machine.execCellLanding port cidx s
  | .brdKeyNew f port => Sys2Proof.Machine.execBrdKeyNew f port s
  | .brdKeyOffer f port => Sys2Proof.Machine.execBrdKeyOffer f port s
  | .brdKeyAccept f port => Sys2Proof.Machine.execBrdKeyAccept f port s
  | .brdLostRead f port => Sys2Proof.Machine.execBrdLostRead f port s
  | .brdAuthRead f port => Sys2Proof.Machine.execBrdAuthRead f port s
  | .sltErrRead f slot => Sys2Proof.Machine.execSltErrRead f slot s
  | .twnAttach f o => Sys2Proof.Machine.execTwnAttach f o s
  | .twnDetach f => Sys2Proof.Machine.execTwnDetach f s
  | .twnTakeover f => Sys2Proof.Machine.execTwnTakeover f s
  | .twnResolveFail f q => Sys2Proof.Machine.execTwnResolveFail f q s
  | .twnResolvePublishPrimary f q => Sys2Proof.Machine.execTwnResolvePublishPrimary f q s
  | .twinJournal x => Sys2Proof.Machine.execTwinJournal x s
  | .agreementMessage m => Sys2Proof.Machine.execAgreementMessage m s
  | .twinLinkDown => Sys2Proof.Machine.execTwinLinkDown s
  | .slotIsolate slot => Sys2Proof.Machine.execSlotIsolate slot s
  | .slotFrame r => Sys2Proof.Machine.execSlotFrame r s
  | .slotReadback slot bytes => Sys2Proof.Machine.execSlotReadback slot bytes s
  | .slotReady => Sys2Proof.Machine.execSlotReady s
  | .framePortTimeout => Sys2Proof.Machine.execFramePortTimeout s
  | .slotSpuriousOutput slot => Sys2Proof.Machine.execSlotSpuriousOutput slot s
  | .porst => Sys2Proof.Machine.execPorst s
  | .srst ns => Sys2Proof.Machine.execSrst ns s
  | .bootRomStart fz => Sys2Proof.Machine.execBootRomStart fz s
  | .bootDescriptor r cert => Sys2Proof.Machine.execBootDescriptor r cert s
  | .imageHeader data groupLow => Sys2Proof.Machine.execImageHeader data groupLow s
  | .imageFrame r => Sys2Proof.Machine.execImageFrame r s
  | .followerTimeout => Sys2Proof.Machine.execFollowerTimeout s
  | .measurement => Sys2Proof.Machine.execMeasurement s
  | .inventory o => Sys2Proof.Machine.execInventory o s
  | .repairApply r st => Sys2Proof.Machine.execRepairApply r st s
  | .braidTraining port o => Sys2Proof.Machine.execBraidTraining port o s
  | .twinHandshake reach peng minor id => Sys2Proof.Machine.execTwinHandshake reach peng minor id s
  | .hostLinkUp l0 => Sys2Proof.Machine.execHostLinkUp l0 s
  | .cfgDone => Sys2Proof.Machine.execCfgDone s
  | .getVersion t => Sys2Proof.Machine.execGetVersion t s
  | .getCapabilities t => Sys2Proof.Machine.execGetCapabilities t s
  | .negotiateAlgorithms t common => Sys2Proof.Machine.execNegotiateAlgorithms t common s
  | .getDigests t => Sys2Proof.Machine.execGetDigests t s
  | .getCertificate t slot => Sys2Proof.Machine.execGetCertificate t slot s
  | .challenge t nonce => Sys2Proof.Machine.execChallenge t nonce s
  | .getMeasurements t idx => Sys2Proof.Machine.execGetMeasurements t idx s
  | .keyExchange t reqSid => Sys2Proof.Machine.execKeyExchange t reqSid s
  | .finish t macOk => Sys2Proof.Machine.execFinish t macOk s
  | .heartbeat t => Sys2Proof.Machine.execHeartbeat t s
  | .keyUpdate t both => Sys2Proof.Machine.execKeyUpdate t both s
  | .endSession t => Sys2Proof.Machine.execEndSession t s
  | .firmwareStartTimeout => Sys2Proof.Machine.execFirmwareStartTimeout s

end Sys2Proof.Machine
end

