-- ==== Sys2Proof/Machine/Step.lean ====
section
/-!
DEFINITION. Step.lean: one step takes the command at the front of the queue; on an empty queue the block idles but for the stream
commands that wait, which are tried again (log 2).
-/

namespace Sys2Proof.Machine

/-- One step: the front command runs with the queue's rest. On an empty queue every waiting stream command that can go on goes on, and where none waits, nothing
changes. -/
def step (s : State) : Host.Outcome State Fault Refusal :=
  match s.pending with
  | [] => .next (settleHeld s)
  | c :: rest => exec c { s with pending := rest }

/-- The table gives its rows no bits, so no word spells a command and nothing is put in front (log 3). -/
def State.withFetchWord (s : State) (nbits w : Nat) : State :=
  match Sys2Proof.decodeTableWord nbits w with
  | some c => { s with pending := c :: s.pending }
  | none => s

end Sys2Proof.Machine
end

