-- ==== Sys2Proof/Safety.lean ====
section
/-!
DEFINITION. Safety.lean: what counts as a good state of the block and a safe step, and the conditions under which a stream instruction
issues, in the terms the statements use.
-/

namespace Sys2Proof.Machine

/-- The two memories of the block keep the canonical form of a sparse memory. -/
def memoriesWf (s : State) : Bool := Memory.wf s.spad && Memory.wf s.stk.mem

/-- The uses of every row stand in the order of their cycles. -/
def usesOrdered (s : State) : Bool := s.rows.all (fun e => decide ((e.2.uses.map Prod.fst).Pairwise (· ≤ ·)))

/-- What has happened to every entry of the cores since their last Beat edge stands in the order of its cycles (R112). -/
def entsOrdered (s : State) : Bool :=
  s.cores.all (fun c => c.2.ent.all (fun e => decide ((e.2.evs.map Prod.fst).Pairwise (· ≤ ·))))

/-- No landing condition has moved a placement in this Beat: every claim stands where it was placed, and the stream's placements do too (R31). -/
def noHolds (s : State) (core : Nat) (k : Strm) : Prop :=
  (∀ c ∈ s.claims, c.shifted = false) ∧ (getStrm s core k).shift = 0

/-- The resident slots of the scheduler stand in canonical form. -/
def slotsWf (s : State) : Bool := smWf none s.host.slots

/-- Queue q may fetch the entry with header h and body `ent`, and the entry passes the checks of every command (R267, R274, R254): `x` is the queue as it stands,
its publication group has not failed, and its entry counts are distinct. -/
def fetches (s : State) (q : Nat) (h : CmdHdr) (ent : EntBody) (x : QSlot) : Prop :=
  slotsWf s = true ∧ mayFetch s q h ent = some x ∧ x.grpBad = false ∧ (∀ c ∈ x.cmds, c.seq ≠ x.qr.head) ∧ h.rsvNZ = false
    ∧ (h.sigen = true → evtFault s h.evt h.evtRec = none)

/-- In u the queue has fetched one entry more than in x: HEAD is one higher, and a command with the body and the stage given, of the Beat and the
context, stands at the end of its commands (R266, R267). -/
def newCmd (s u : State) (q : Nat) (x : QSlot) (body : CmdBody) (st : Stage) : Prop :=
  ∃ y c, queueAt u q = some y ∧ y.cmds = x.cmds ++ [c] ∧ y.qr = { x.qr with head := x.qr.head + 1 } ∧ c.seq = x.qr.head
    ∧ c.body = body ∧ c.stage = st ∧ c.fetched = s.beat.b ∧ c.ctx = x.qr.context

/-- No fetched command of the queue stops it, and no WAIT of it is unfinished: its next command may be carried out (R36, R257). -/
def clearAhead (x : QSlot) : Prop := x.halted = false ∧ ∀ c ∈ x.cmds, stopsQueue c = false ∧ (isWait c = true → isOver c = true)

/-- A queue stands in one slot at most. -/
def ownSlots (s : State) : Prop := ∀ m n x y, getSlot s m = some x → getSlot s n = some y → x.q = y.q → m = n

/-- The queues but q stand as they did, save that one whose slot a reset has freed may have left it (R283). -/
def othersStay (s u : State) (q : Nat) : Prop :=
  ∀ n, n ≠ q → (queueAt s n = none → queueAt u n = none) ∧ ∀ z, queueAt s n = some z → z.leaving = false → queueAt u n = some z

/-- The built-in Segment `g` of the command with entry count `seq` of queue q runs in partition p: `x` is its work, and `d` the command (R274). -/
def bulkRuns (s : State) (p q : Nat) (seq : W32) (d : Cmd) (g : Seg) (x : Bulk) : Prop :=
  (getPart s p).seg = some g ∧ g.q = q ∧ g.seq = seq ∧ g.abort = none ∧ g.bulk = some x ∧ cmdAt s q seq = some d ∧ d.stage = .running
    ∧ (x.done = true → g.roots = [(0, treeRoot x.data)])

/-- From s to u the built-in Segment `g` of partition p has handed its bytes to the Store engine: one write for each Granule in a stack slot of the
partition's first core, or one posted write with Relaxed Ordering for the function of its queue, but from the twin (R261, R262, R290, R295, R336). -/
def handsOn (s u : State) (p : Nat) (g : Seg) (x : Bulk) : Prop :=
  match x.dst with
  | .stack a k => u.stk = { s.stk with greqs := s.stk.greqs ++ (List.range (x.data.length / 32)).map (fun n =>
      ⟨bulkCore s p, a / 32 + n, k, x.id, false, 32 * n, false, some (segTag u p, (x.data.drop (32 * n)).take 32), []⟩) }
  | .host a => u.stk = s.stk ∧ (twinSide s = false → x.data ≠ [] → Post.write (queueFn s g.q) true (BitVec.ofNat 64 a) x.data ∈ u.posts)

/-- A unit of stream k can make the row reads in state s: each falls in the build and before the guard window, meets no claim moved by a hold, and its
row is ON, has no landing outstanding, no guarded write in the cycle, the tag expected and Granules that can be corrected (R6, R29, R131, R132, R136 to
R138, R150). -/
def canRead (s : State) (core : Nat) (k : Strm) (exp : Option Nat) (rs : List RdReq) : Prop := ∀ r ∈ rs, readFault s core k exp r = none

/-- A unit of stream k can write bytes [a, a + len) of a core in cycle t: they lie in the build, the cycle before the guard window, and each row is ON,
its write meets no claim moved by a hold and, on a guarded row, no read of the cycle (R6, R29, R132, R138, R150). -/
def canWrite (s : State) (core : Nat) (k : Strm) (a len t : Nat) : Prop :=
  late s k t = false ∧ localOk s.build a len = true ∧ ∀ x ∈ spansOf a len,
    bankAt s core x.1 = .on ∧ claimClash s (mkClaim s core k x.1 t true) = false
      ∧ (guarded s core x.1 = true → t ∉ (getRow s (rowNo core x.1)).rds)

/-- Bytes [a, a + n) and [b, b + m) share none. -/
def apart (a n b m : Nat) : Prop := a + n ≤ b ∨ b + m ≤ a

/-- No other flit has a slot that a flit from core src to core dst, injected in cycle t, takes (R142, R144). -/
def meshFree (s : State) (src dst t : Nat) : Prop :=
  ∀ e, ∀ x ∈ flitSlots s.build src dst t e, ∀ y ∈ s.mesh, ¬ (y.link = x.link ∧ y.at_ = x.at_)

/-- The command c ends the Beat of s, in which no command waits and no acquisition is asked for: an edge of the source in use in the window, its absence at 4,127, or the
accumulator's edge in HOLDOVER (R241 to R243). -/
def endsBeat (c : Instr) (s : State) : Prop :=
  s.held = [] ∧ s.beat.acq = none
    ∧ ((s.beat.st = .locked ∧ ∃ cyc e, c = .beatEdge s.beat.active cyc ∧ edgeCycle s s.beat.active cyc = some e ∧ 4064 ≤ e ∧ e ≤ 4127)
      ∨ (s.beat.st = .locked ∧ s.beat.active ≠ .loc ∧ c = .beatEdgeTimeout) ∨ (s.beat.st = .holdover ∧ c = .holdoverEdge))

/-- From s to u the configuration has failed with a reason: CFG_ERR, nothing loaded, no key and no identity kept, the firmware stopped, the PHYs back in their
reset, no stream load, and nothing else differs (R373). -/
def failedAs (s u : State) (reason : Nat) : Prop :=
  u.boot.err = true ∧ u.boot.reason = reason ∧ u.boot.secs = [] ∧ u.boot.started = false ∧ u.boot.books = [] ∧ u.boot.params = none
    ∧ u.boot.hdr = none ∧ u.boot.dice = none ∧ u.boot.phy = ⟨false, [], []⟩ ∧ (∀ n, (getCore u n).ucode = [])
    ∧ (smWf emptyCore s.cores = true → ∀ n, getCore u n = { getCore s n with ucode := [] })
    ∧ u = { s with boot := u.boot, loads := [], mkey := 0, mc := { s.mc with run := false }, cores := u.cores }

/-- A step that goes on. -/
def goesOn (o : Host.Outcome State Fault Refusal) : Prop := ∃ t, o = .next t

/-- The stream may issue the instruction now: its point exists (R9), its Segment and its block run (R155), no wait, barrier or skip
stands before it (R31, R156, R166, R170, R180), its code Granule reads and holds no reserved word (R188, R229), it issues before the guard window (R29) and not moved past a waiting
SEGEND (R31), and its core has nothing left to do before it: no pass of an MMA is due (R104) and no change of activity is unchecked (R116). -/
def opensAt (i : Iss) (s : State) : Bool :=
  decide (i.at_ ≤ 4127) && mayIssue s i && !blocked s i.core i.strm && !codeUe s i && !reservedWord s i
    && decide ((getStrm s i.core i.strm).skip = 0) && !(getStrm s i.core i.strm).skipNext
    && !(late s i.strm (issueCycle s i) || pastEnd s i (issueCycle s i)) && quietAt s i.core (issueCycle s i)

/-- Where a stream instruction with landing condition `cond` issues in state s, once what waited has gone on: its cycle, and the state with the hold's shift
applied (R31, R109, R187). None where it does not issue now. -/
def issueHere (i : Iss) (cond : Option Cond) (s : State) : Option (Nat × State) :=
  if opensAt i s then
    match cond with
    | none => some (issueCycle s i, s)
    | some c =>
      if ownBit i.strm c.hg then
        match waitCycle (getCtr s i.core c.sc) c.v (issueCycle s i) with
        | none => none
        | some t =>
          if late s i.strm t || pastEnd s i t then none
          else some (t, shiftGroup s i.core (holdGroup i.strm c.hg) (t - issueCycle s i))
      else none
  else none

/-- Where a stream instruction with landing condition `cond` issues, and the state in which it does: first the stream commands that wait, and need wait no
longer, go on (R30, R178). None where it does not issue now. -/
def issuePoint (i : Iss) (cond : Option Cond) (s : State) : Option (Nat × State) := issueHere i cond (settleHeld s)

/-- The state in which the body of an instruction issued in cycle t runs. -/
def issued (i : Iss) (t : Nat) (s : State) : State :=
  touch (modStrm s i.core i.strm (fun x => { x with lastIss := t })) t

/-- What follows a body that is done in cycle `done` without a fault: the location of the records it entered (R394), and the end of the block
where the instruction carries the mark (R155, R162), in any case with it where the end is `sharp`. `s0` is the state before the body. -/
def completedAs (sharp : Bool) (i : Iss) (s0 : State) (fin : Bool) (s1 : State) (done : Nat) : State :=
  finishInstr (locate (locOf s0 i) s0.flt.next s0.claims.length s1) i sharp fin done

/-- What follows a body whose end is not sharp. -/
def completed (i : Iss) (s0 : State) (fin : Bool) (s1 : State) (done : Nat) : State := completedAs false i s0 fin s1 done

/-- What follows a body that stops with fault f in state s1: its records are located, and the fault is raised with the instruction's location
(R394). `s0` is the state before the body. -/
def raised (i : Iss) (s0 s1 : State) (f : Flt) : State :=
  raiseLoc (locate (locOf s0 i) s0.flt.next s0.claims.length s1) (locOf s0 i) f

/-- Nothing but the cores, the Segments of the partitions, the fault unit and the model's latest cycle differs. -/
def sameOutside (s t : State) : Prop :=
  t.build = s.build ∧ t.beat = s.beat ∧ t.spad = s.spad ∧ t.rows = s.rows ∧ t.errs = s.errs ∧ t.mesh = s.mesh ∧ t.flitErrs = s.flitErrs
    ∧ t.claims = s.claims ∧ t.lands = s.lands ∧ t.stores = s.stores ∧ t.nextId = s.nextId ∧ t.nextKey = s.nextKey ∧ t.mkey = s.mkey
    ∧ t.stk = s.stk ∧ t.ext = s.ext ∧ t.host = s.host ∧ t.mbx = s.mbx ∧ t.ports = s.ports ∧ t.twin = s.twin ∧ t.slots = s.slots
    ∧ t.xouts = s.xouts ∧ t.loads = s.loads ∧ t.boot = s.boot ∧ t.meas = s.meas ∧ t.spdm = s.spdm ∧ t.mc = s.mc ∧ t.therm = s.therm
    ∧ t.scrub = s.scrub ∧ t.posts = s.posts ∧ t.free = s.free ∧ t.regs = s.regs ∧ t.cfgDone = s.cfgDone ∧ t.held = s.held
    ∧ t.pending = s.pending

/-- The cores other than the instruction's, and the other streams of its core, are as they were. -/
def otherStreams (i : Iss) (s t : State) : Prop :=
  (∀ c, c ≠ i.core → getCore t c = getCore s c) ∧ (∀ k, k ≠ i.strm → getStrm t i.core k = getStrm s i.core k)

/-- Accumulators, wide sums, held operands, digest streams and flags F of the instruction's core are as they were. -/
def arraysKept (i : Iss) (s t : State) : Prop :=
  (getCore t i.core).ent = (getCore s i.core).ent ∧ (getCore t i.core).ws = (getCore s i.core).ws
    ∧ (getCore t i.core).waf = (getCore s i.core).waf ∧ (getCore t i.core).dig = (getCore s i.core).dig
    ∧ (getCore t i.core).f = (getCore s i.core).f

/-- Every register of the stream (R188, R191) but those listed is as it was. -/
def regsKept (i : Iss) (s t : State) (except : List Reg) : Prop :=
  ∀ r, regLegal i.strm r = true → r ∉ except → regVal t i r = regVal s i r

end Sys2Proof.Machine
end

