-- ==== Sys2Proof/WellFormed.lean ====
section
/-!
DEFINITION. WellFormed.lean: which commands are well formed: every operand lies in the field that carries it (Tables 8.3 to 8.9, R207,
R210 to R212 for stream instructions; Tables 11.2 to 11.9, 13.4, 14.4, 15.2, 17 and 18 for the rest). A well-formed command may
still fault: the meanings in Machine/ decide that.
-/

namespace Sys2Proof

/-! ### Stream instructions -/

/-- A core number of 6 bits (R7) and a cycle that a point can have (R9). -/
def Iss.wf (i : Iss) : Bool := i.core < 64 && i.at_ ≤ 4127

/-- An engine of a stream instruction is the one given. -/
def Iss.wfOn (i : Iss) (k : Strm) : Bool := i.wf && i.strm == k

/-- COND of Table 8.3: a counter of 6 bits. -/
def Cond.wf (c : Cond) : Bool := c.sc < 64
/-- SIGNAL of Table 8.3. -/
def Sig.wf (g : Sig) : Bool := g.sc < 64
/-- The extension words of an instruction. -/
def Ext.wf (x : Ext) : Bool := x.cond.all Cond.wf && x.sig.all Sig.wf

/-- Register numbers of Table 8.4. -/
def Reg.wf : Reg → Bool
  | .s n => n < 16
  | .l n => n < 8
  | .sd n => n < 4
  | .an n => n < 8
  | .a n => n < 16
  | .d n lvl => n < 16 && lvl < 4
  | .p n => n < 4

/-- A source of SET, ADD or SUB. -/
def Src.wf : Src → Bool
  | .reg r => r.wf
  | _ => true

/-- A second operand of CMP (Table 8.6). -/
def CmpSrc.wf : CmpSrc → Bool
  | .s n => n < 16
  | .imm _ => true
  | .sc n => n < 64

/-- Operands of LDS, LDH, LDW (Table 8.7). -/
def LdOps.wf (o : LdOps) : Bool := o.aDst < 16 && o.aOff < 16 && o.pObj < 4 && o.sc < 64 && o.len < 2 ^ 32
/-- Operands of STS, STH (Table 8.7). -/
def StOps.wf (o : StOps) : Bool := o.aSrc < 16 && o.aOff < 16 && o.pObj < 4 && o.dstr < 8 && o.len < 2 ^ 32
/-- A run of units or Wafers: first and count, each field of 5 bits (Table 8.8). -/
def unitsWf (first count : Nat) : Bool := first < 32 && 1 ≤ count && count ≤ 32
/-- Fields of an output: format, seed register, index register, pitch (Table 8.8). -/
def outWf (ofmt seed pIdx opitch : Nat) : Bool := ofmt < 16 && seed < 4 && pIdx < 4 && opitch < 65536

/-- HOLD (Table 8.8). -/
def HoldOps.wf (o : HoldOps) : Bool :=
  o.aBase < 16 && o.aDesc < 16 && unitsWf o.unit o.units && o.pitch < 65536 && 1 ≤ o.k && o.k ≤ 65536
    && 1 ≤ o.kg && o.kg ≤ 2
/-- MMA (Table 8.8). -/
def MmaOps.wf (o : MmaOps) : Bool :=
  o.aBase < 16 && o.aDesc < 16 && unitsWf o.unit o.units && o.anchor < 8 && o.pitch < 65536 && 1 ≤ o.m && o.m ≤ 4096
    && 1 ≤ o.n && o.n ≤ 4096 && 1 ≤ o.k && o.k ≤ 65536 && o.aOut < 16 && o.aRec < 16 && outWf o.ofmt o.seed o.pIdx o.opitch
/-- DRAIN (Table 8.8). -/
def DrainOps.wf (o : DrainOps) : Bool :=
  o.aOut < 16 && o.aRec < 16 && unitsWf o.wafer o.wafers && o.e0 < 64 && o.e1 < 64 && outWf o.ofmt o.seed o.pIdx o.opitch
/-- SPILL, RELOAD, ACCUMULATE (Table 8.8). -/
def SpillOps.wf (o : SpillOps) : Bool := o.aBase < 16 && unitsWf o.wafer o.wafers && o.e0 < 64 && o.e1 < 64
/-- EWM (Table 8.8). -/
def EwmOps.wf (o : EwmOps) : Bool :=
  o.aX < 16 && o.aY < 16 && unitsWf o.wafer o.wafers && o.e < 64 && o.xfmt < 16 && o.yfmt < 16 && o.anchor < 8
    && 1 ≤ o.cycles && o.cycles ≤ 64
/-- MERINGUE (Table 8.8). -/
def MerOps.wf (o : MerOps) : Bool :=
  o.torte < 8 && 1 ≤ o.tortes && o.tortes ≤ 8 && 1 ≤ o.cycles && o.cycles ≤ 4032 && o.mdens < 16
/-- MVX (Table 8.9). -/
def MvxOps.wf (o : MvxOps) : Bool :=
  o.aW < 16 && o.aX < 16 && o.aDW < 16 && o.aDX < 16 && 1 ≤ o.k && o.k ≤ 65536 && 1 ≤ o.nr && o.nr ≤ 2048 && 1 ≤ o.nb
    && o.nb ≤ 8 && o.e0 < 64 && o.anchor < 8 && o.aRec < 16 && o.xstride < 65536
/-- SDRAIN (Table 8.9). -/
def SdrainOps.wf (o : SdrainOps) : Bool :=
  o.aOut < 16 && o.aRec < 16 && o.e0 < 64 && o.e1 < 64 && outWf o.ofmt o.seed o.pIdx o.opitch && 1 ≤ o.nb && o.nb ≤ 8
/-- An element count: N − 1 in 24 bits (R207). -/
def countWf (n : Nat) : Bool := 1 ≤ n && n ≤ 2 ^ 24
/-- Glaze element-wise instructions (R207). -/
def GzOps.wf (o : GzOps) : Bool :=
  o.aDst < 16 && o.a1 < 16 && o.a2 < 16 && o.a3 < 16 && o.dfmt < 16 && o.sfmt < 16 && countWf o.n
/-- VSUMX (R210). -/
def VsOps.wf (o : VsOps) : Bool := o.aDst < 16 && o.aSrc < 16 && o.ws < 8 && o.dfmt < 16 && o.sfmt < 16 && countWf o.n
/-- VQUANT (R211). -/
def VqOps.wf (o : VqOps) : Bool :=
  o.seed < 4 && o.aDst < 16 && o.aSrc < 16 && o.aDesc < 16 && o.p < 4 && o.sfmt < 16 && countWf o.n
/-- XOP (R212); what the fabric answers is a Granule of 32 bytes, or nothing. -/
def XopOps.wf (o : XopOps) : Bool :=
  o.aDst < 16 && o.aSrc < 16 && o.slot < 8 && o.code < 4096 && countWf o.n && o.outs.all (fun x => x.all (·.length == 32))

/-! ### Host commands and records -/

/-- Queue and context identifiers have 16 bits, partitions 4 (Table 11.2, R4). -/
def qWf (q : Nat) : Bool := q < 65536
/-- A function of the endpoint: the PF, VF 1 to 16, or the MC (R4). -/
def Func.wf : Func → Bool
  | .vf n => 1 ≤ n && n ≤ 16
  | _ => true
/-- A queue record (Table 11.4). -/
def QRec.wf (r : QRec) : Bool := r.log2size < 16 && r.priority < 8 && r.context < 65536
/-- A context record (Table 11.3). -/
def CtxRec.wf (r : CtxRec) : Bool := r.part < 16 && r.priority < 8
/-- An Event record (Table 10.8). -/
def EvtRec.wf (r : EvtRec) : Bool := r.owner < 65536 && r.vec < 256
/-- A command header (Table 11.7): TYPE is a byte. -/
def CmdHdr.wf (h : CmdHdr) : Bool := h.type < 256 && h.evtRec.all EvtRec.wf
/-- A host read that brings at most n bytes. -/
def HostCpl.wf (r : HostCpl) (n : Nat) : Bool := match r with | .ok bs => bs.length ≤ n | _ => true
/-- The argument block (Table 11.10): 16 scalars and NOBJ objects. -/
def ArgBlk.wf (a : ArgBlk) : Bool := a.s.length == 16 && a.nobj < 256 && a.objs.length == a.nobj
/-- MAP (Table 11.8). -/
def MapBody.wf (b : MapBody) : Bool := b.first < 256 && b.ncore < 256
/-- A queue that the engine finds in the queue table, with its record. -/
def QFound.wf (x : QFound) : Bool := qWf x.q && x.qr.wf
/-- What a training run finds: four lanes of a port (R316), a training word's lane number of two bits and port number of four (Table 13.8). -/
def TrainObs.wf (o : TrainObs) : Bool :=
  o.lanes.length == 4 && o.lanes.all (fun l => l.word.all (fun w => w.lane < 4 && w.port < 16 && w.eng < 16384))
    && o.peerGood.all (· < 4) && o.peng < 16384 && o.pport < 16
/-- How GC-288 finds a Granule: 36 symbols of 8 bits. -/
def SymErr.wf (e : SymErr) : Bool := e.n ≤ 36 && e.sym < 36

/-- A read of a configuration read unit: 64, 4,096 or 4,128 bytes (R366 to R369). -/
def UnitRead.wf (r : UnitRead) : Bool := r.data.all (fun b => b.length ≤ 4128)
/-- A module's answer (R377): at most the pages' bytes. -/
def ModObs.wf (m : ModObs) : Bool := m.port < 16 && m.lower.length ≤ 3 && m.upper.length ≤ 71 && m.stuck.all (fun b => b.bus < 2)

/-- A command is well formed. -/
def Instr.wf : Instr → Bool
  | .set i d r _ => i.wf && d.wf && r.wf
  | .add i d r => i.wf && d.wf && r.wf
  | .sub i d r => i.wf && d.wf && r.wf
  | .loop i c _ => i.wf && c.wf
  | .endloop i => i.wf
  | .waitsc i _ c => i.wf && c.wf
  | .signalsc i r g => i.wf && g.wf && r.all (· < 64)
  | .realign i g => i.wf && g < 4
  | .launch i e b bo c ps g =>
    i.wfOn .control && e != .control && b < 65536 && bo < 4096 && c < 4096 && ps.length == 4 && ps.all (fun p => p.all (· < 16))
      && g.all (fun g => g.wf && g.amt.toNat < 65536)
  | .cmp i f c x y => i.wfOn .control && f < 4 && c < 8 && x < 16 && y.wf
  | .skipif i _ f _ => i.wfOn .control && f < 4
  | .segend i => i.wfOn .control
  | .mbxsend i m lo hi => i.wfOn .control && m < 32 && lo < 16 && hi < 16
  | .beatread i b c => i.wfOn .control && b < 16 && c < 16
  | .halt i _ => i.wfOn .control
  | .lds i o => i.wfOn .load && o.wf
  | .ldh i o => i.wfOn .load && o.wf
  | .ldw i o => i.wfOn .load && o.wf
  | .sts i o => i.wfOn .store && o.wf
  | .sth i o => i.wfOn .store && o.wf
  | .digestOpen i a p d => i.wfOn .store && a < 16 && p < 4 && d < 8
  | .digestClose i a d => i.wfOn .store && a < 16 && d < 8
  | .mvm i a b r x => i.wfOn .move && a < 16 && b < 16 && r < 65536 && x.wf
  | .mvb i a p c x => i.wfOn .move && a < 16 && p < 16 && c < 2 ^ 32 && x.wf
  | .fillc i a r _ => i.wfOn .move && a < 16 && 1 ≤ r && r ≤ 65536
  | .copyr i a b r x => i.wfOn .move && a < 16 && b < 16 && 1 ≤ r && r < 2 ^ 17 && x.wf
  | .hold i o x => i.wfOn .matrix && o.wf && x.wf
  | .mma i o x => i.wfOn .matrix && o.wf && x.wf
  | .drain i o x => i.wfOn .matrix && o.wf && x.wf
  | .spill i o x => i.wfOn .matrix && o.wf && x.wf
  | .reload i o x => i.wfOn .matrix && o.wf && x.wf
  | .accumulate i o x => i.wfOn .matrix && o.wf && x.wf
  | .ewm i o x => i.wfOn .matrix && o.wf && x.wf
  | .meringue i o => i.wfOn .matrix && o.wf
  | .mvx i o x => i.wfOn .strudel && o.wf && x.wf
  | .sdrain i o x => i.wfOn .strudel && o.wf && x.wf
  | .vadd i o x => i.wfOn .glaze && o.wf && x.wf
  | .vmul i o x => i.wfOn .glaze && o.wf && x.wf
  | .vfma i o x => i.wfOn .glaze && o.wf && x.wf
  | .vmax i o x => i.wfOn .glaze && o.wf && x.wf
  | .vsumxAdd i o x => i.wfOn .glaze && o.wf && x.wf
  | .vsumxRead i o x => i.wfOn .glaze && o.wf && x.wf
  | .vsumxSave i o x => i.wfOn .glaze && o.wf && x.wf
  | .vsumxMerge i o x => i.wfOn .glaze && o.wf && x.wf
  | .vquant i o x => i.wfOn .glaze && o.wf && x.wf
  | .vdeq i o x => i.wfOn .glaze && o.wf && x.wf
  | .vexp2 i o x => i.wfOn .glaze && o.wf && x.wf
  | .vlog2 i o x => i.wfOn .glaze && o.wf && x.wf
  | .vrsqrt i o x => i.wfOn .glaze && o.wf && x.wf
  | .vrecip i o x => i.wfOn .glaze && o.wf && x.wf
  | .vtanh i o x => i.wfOn .glaze && o.wf && x.wf
  | .vsig i o x => i.wfOn .glaze && o.wf && x.wf
  | .xop i o x => i.wfOn .glaze && o.wf && x.wf
  | .run q h _ _ _ a => qWf q && h.wf && a.wf 512
  | .copy q h _ => qWf q && h.wf
  | .fill q h _ => qWf q && h.wf
  | .signal q h => qWf q && h.wf
  | .wait q h _ _ r => qWf q && h.wf && r.all EvtRec.wf
  | .publish q h => qWf q && h.wf
  | .loadSlot q h b => qWf q && h.wf && b.src < 256
  | .mapExtent q h b => qWf q && h.wf && b.wf
  | .mapRegion q h b => qWf q && h.wf && b.wf
  | .mapSeal q h b => qWf q && h.wf && b.wf
  | .unmap q h _ => qWf q && h.wf
  | .queryCapability q h _ => qWf q && h.wf
  | .queryInventory q h _ => qWf q && h.wf
  | .queryQuota q h _ => qWf q && h.wf
  | .ctxCreate f id r => f.wf && qWf id && r.body.wf
  | .ctxDestroy f x => f.wf && qWf x.on && x.qs.all QFound.wf
  | .ctxReset f x => f.wf && qWf x.on && x.qs.all QFound.wf
  | .qStop f q => f.wf && qWf q
  | .qRestart f q => f.wf && qWf q
  | .qReset f x _ => f.wf && x.wf
  | .evtFree f x r => f.wf && x < 2 ^ 20 && r.wf
  | .hqDb f n x _ => f.wf && n < 48 && qWf x.q && qWf x.ctx
  | .hqOvfKick f => f.wf
  | .ovfScan b _ t => b.all qWf && t.all (fun x => qWf x.1)
  | .queueResidency p a => p < 16 && (match a with
      | .load n x e os => n < 48 && x.wf && e.wf && os.all QFound.wf
      | .evict n _ x os => n < 48 && x.wf && os.all QFound.wf)
  | .glbApply f _ => f.wf
  | .beatBoundaryApply => true
  | .regWrite f o _ _ => f.wf && o < 2 ^ 24
  | .beatCountLoRead f => f.wf
  | .mbxLockRead f n => f.wf && n < 32
  | .mbxLockWrite f n _ => f.wf && n < 32
  | .mbxTxWrite f n _ _ => f.wf && n < 32
  | .mbxRxRead f n => f.wf && n < 32
  | .mbxTake n => n < 32
  | .repairRelay n _ _ _ _ => n < 32
  | .scrubPeriod n _ => n < 32
  | .beatCtlAcquire f _ => f.wf
  | .acquisitionStart => true
  | .acquisitionTimeout => true
  | .beatEdge _ c => c ≤ 4127
  | .beatEdgeTimeout => true
  | .holdoverEdge => true
  | .beatLost => true
  | .pinFrame _ y => y.length == 127
  | .beatBlock p c b _ => p < 16 && c ≤ 4127 && b.length == 64
  | .guardHold => true
  | .realignCheck p g => p < 16 && g < 4
  | .segmentStart x => x.p < 16 && x.prios.all (fun x => qWf x.1 && x.2 < 8)
  | .descriptorPop c k t => c < 64 && k != .control && t ≤ 4127
  | .segmentEnd p => p < 16
  | .segLimit p => p < 16
  | .abortComplete p => p < 16
  | .landing _ c => c ≤ 4127
  | .storeRead _ c => c ≤ 4127
  | .stackBurst c p => c < 64 && p < 256
  | .stackReadData _ e => e.wf
  | .hostReadCompletion _ _ => true
  | .digestLeafDone _ d => d.length ≤ 4096
  | .publication q => qWf q
  | .commandRetire q => qWf q
  | .eventSignal r => r.wf
  | .eventAbandon x r => x < 2 ^ 20 && r.wf
  | .quotaReset x => x.on < 16 && x.qs.all QFound.wf
  | .extStageCmd f _ => f.wf
  | .extFlip f _ => f.wf
  | .extFlipEffect => true
  | .retainedRelease => true
  | .ownerGrant p => p < 16
  | .ownerRelease x => x.on < 16 && x.qs.all QFound.wf
  | .coreMove c => c < 64
  | .bankPowerChange c b => c < 64 && b < 32
  | .bankWakeDone c b => c < 64 && b < 32
  | .portBindEffect p => p < 16
  | .slotBindEffect n => n < 8
  | .fieldRemap _ => true
  | .mcRecordRead => true
  | .ringWrite => true
  | .fltHeadWrite f _ => f.wf
  | .faultnClear f => f.wf
  | .scrubRow => true
  | .stackScrub _ e => e.wf
  | .dieSensorSample t => t.all (· < 256)
  | .stackTempCheck t => t.length ≤ 8 && t.all (· < 256)
  | .thermClear => true
  | .resume f => f.wf
  | .watchdogExpiry _ => true
  | .functionLevelReset x => x.on.wf && x.qs.all QFound.wf
  | .powerStateChange f _ => f.wf
  | .brdCtlTrain f p o m => f.wf && p < 16 && o.wf && m.wf
  | .laneLost p n o => p < 16 && n ≤ 512 && o.wf
  | .braidFrame p c r => p < 16 && c ≤ 4127 && r.bytes.length ≤ 8344
  | .cellLanding p c => p < 16 && c < 1024
  | .brdKeyNew f p => f.wf && p < 16
  | .brdKeyOffer f p => f.wf && p < 16
  | .brdKeyAccept f p => f.wf && p < 16
  | .brdLostRead f p => f.wf && p < 16
  | .brdAuthRead f p => f.wf && p < 16
  | .sltErrRead f n => f.wf && n < 8
  | .twnAttach f _ => f.wf
  | .twnDetach f => f.wf
  | .twnTakeover f => f.wf
  | .twnResolveFail f q => f.wf && qWf q
  | .twnResolvePublishPrimary f q => f.wf && qWf q
  | .twinJournal x => x.group < 2
  | .agreementMessage m => qWf m.q
  | .twinLinkDown => true
  | .slotIsolate n => n < 8
  | .slotFrame _ => true
  | .slotReadback n b => n < 8 && b.length ≤ 4096
  | .slotReady => true
  | .framePortTimeout => true
  | .slotSpuriousOutput n => n < 8
  | .porst => true
  | .srst _ => true
  | .bootRomStart z => z.keysrc < 4 && z.cfgpos < 256
  | .bootDescriptor r c => r.wf && c.length ≤ 4096
  | .imageHeader d l => UnitRead.wf ⟨d, l⟩
  | .imageFrame r => r.wf
  | .followerTimeout => true
  | .measurement => true
  | .inventory o => o.stks.length ≤ 8 && o.mods.all ModObs.wf
  | .repairApply r st => r.half0.length ≤ 2 ^ 20 && r.half1.length ≤ 2 ^ 20 && st.all (fun x => x.core < 64)
  | .braidTraining p o => p < 16 && o.wf
  | .twinHandshake _ e _ _ => e < 16384
  | .hostLinkUp _ => true
  | .cfgDone => true
  | .getVersion _ => true
  | .getCapabilities _ => true
  | .negotiateAlgorithms _ _ => true
  | .getDigests _ => true
  | .getCertificate _ n => n < 8
  | .challenge _ _ => true
  | .getMeasurements _ n => n < 256
  | .keyExchange _ _ => true
  | .finish _ _ => true
  | .heartbeat _ => true
  | .keyUpdate _ _ => true
  | .endSession _ => true
  | .firmwareStartTimeout => true

end Sys2Proof
end

