-- ==== Sys2Proof/Certificates/Slice0/Obligations.lean ====
section
/-!
DEFINITION. Obligations.lean: the statements about the model. Each docstring names the rules of spec/ it rests on.
-/

open Sys2Proof Sys2Proof.Machine

/-! ### Registers and control (chapters 07, 08) -/

/-- SET (R195): where it issues with a legal destination and source, the destination takes the source's value modulo its width (for an SD register
the half that HI names, which stands with no other destination), every other register keeps its value, and nothing outside the core's stream changes; no fault is raised on a wrap (R164: one that a mark on the instruction raises is the block's). ADD and SUB (R195): the destination takes its value plus, or less, the sign-extended source, modulo its width; the rest is as for SET. An SD
destination is no legal one of theirs. How a source narrower than its destination is extended (srcVal) is the model's choice (log 67). -/
def Obligations.SetAddSubWriteTheirRegister : Prop :=
  (∀ (i : Iss) (dst : Reg) (src : Src) (hi : Bool) (z s : State) (t : Nat),
    issuePoint i none z = some (t, s) → regLegal i.strm dst = true → srcLegal i.strm true dst src = true →
    hiBad dst hi = false →
    ∃ u, exec (.set i dst src hi) z = .next u
      ∧ regVal u i dst = (match dst with
          | .sd _ => if hi then regVal s i dst % 2 ^ 32 + (srcVal s i src).2 % 2 ^ 32 * 2 ^ 32
                     else regVal s i dst / 2 ^ 32 * 2 ^ 32 + (srcVal s i src).2 % 2 ^ 32
          | _ => (srcVal s i src).2 % 2 ^ regWidth dst)
      ∧ regsKept i s u [dst] ∧ otherStreams i s u ∧ arraysKept i s u ∧ sameOutside s u ∧ (i.fin = false → u.flt = s.flt))
  ∧ (∀ (i : Iss) (dst : Reg) (src : Src) (z s : State) (t : Nat),
    issuePoint i none z = some (t, s) → regLegal i.strm dst = true → srcLegal i.strm false dst src = true →
    (∀ n, dst ≠ .sd n) →
    (∃ u, exec (.add i dst src) z = .next u
      ∧ (regVal u i dst : Int) = ((regVal s i dst : Int) + signed (srcVal s i src).1 (srcVal s i src).2) % 2 ^ regWidth dst
      ∧ regsKept i s u [dst] ∧ otherStreams i s u ∧ arraysKept i s u ∧ sameOutside s u ∧ (i.fin = false → u.flt = s.flt))
    ∧ (∃ u, exec (.sub i dst src) z = .next u
      ∧ (regVal u i dst : Int) = ((regVal s i dst : Int) - signed (srcVal s i src).1 (srcVal s i src).2) % 2 ^ regWidth dst
      ∧ regsKept i s u [dst] ∧ otherStreams i s u ∧ arraysKept i s u ∧ sameOutside s u ∧ (i.fin = false → u.flt = s.flt)))

/-- LOOP (R170 to R173): with a legal count register, fewer than four loops open and, in a timed stream, a count within the reserve, a count of
zero makes the stream skip to the matching ENDLOOP, and another count opens a loop with nothing completed; no register changes. ENDLOOP (R172, R174): at the end of an iteration that is not the last, the strides of the loop's level are added to every A register and the
iteration counts; at the last, the loop closes and no register changes. The ENDLOOP of a loop with a count of zero ends the skip and adds
nothing. -/
def Obligations.LoopsOpenIterateAndClose : Prop :=
  (∀ (i : Iss) (cnt : Reg) (reserve : W32) (z s : State) (t : Nat),
    issuePoint i none z = some (t, s) → loopReg i.strm cnt = true → (getStrm s i.core i.strm).loops.length < 4 →
    (isTimed i.strm = true → regVal s i cnt ≤ reserve.toNat) →
    ∃ u, exec (.loop i cnt reserve) z = .next u
      ∧ (regVal s i cnt = 0 → (getStrm u i.core i.strm).skip = 1
          ∧ (getStrm u i.core i.strm).loops = (getStrm s i.core i.strm).loops)
      ∧ (regVal s i cnt ≠ 0 → (getStrm u i.core i.strm).skip = 0
          ∧ (getStrm u i.core i.strm).loops = (getStrm s i.core i.strm).loops ++ [⟨regVal s i cnt, 0⟩])
      ∧ regsKept i s u [] ∧ otherStreams i s u ∧ arraysKept i s u ∧ sameOutside s u)
  ∧ (∀ (i : Iss) (z s : State) (t : Nat) (l : Loop),
    issuePoint i none z = some (t, s) → (getStrm s i.core i.strm).loops.getLast? = some l →
    ∃ u, exec (.endloop i) z = .next u
      ∧ (l.done + 1 < l.count →
          (getStrm u i.core i.strm).loops = (getStrm s i.core i.strm).loops.dropLast ++ [⟨l.count, l.done + 1⟩]
          ∧ ∀ n, n < 16 → smGet 0 (getStrm u i.core i.strm).a n
              = smGet 0 (getStrm s i.core i.strm).a n
                + (smGet 0 (getStrm s i.core i.strm).d (4 * n + ((getStrm s i.core i.strm).loops.length - 1))).signExtend 48)
      ∧ (¬ l.done + 1 < l.count → (getStrm u i.core i.strm).loops = (getStrm s i.core i.strm).loops.dropLast
          ∧ regsKept i s u [])
      ∧ (getStrm u i.core i.strm).d = (getStrm s i.core i.strm).d ∧ (getStrm u i.core i.strm).p = (getStrm s i.core i.strm).p
      ∧ otherStreams i s u ∧ arraysKept i s u ∧ sameOutside s u)
  ∧ (∀ (i : Iss) (z s : State), s = settleHeld z → i.at_ ≤ 4127 → mayIssue s i = true → blocked s i.core i.strm = false →
    codeUe s i = false → quietAt s i.core (issueCycle s i) = true → (getStrm s i.core i.strm).skip ≠ 0 →
    ∃ u, exec (.endloop i) z = .next u ∧ (getStrm u i.core i.strm).skip = (getStrm s i.core i.strm).skip - 1
      ∧ (getStrm u i.core i.strm).loops = (getStrm s i.core i.strm).loops ∧ regsKept i s u [])

/-- WAITSC (R178): in placed mode it goes on in the cycle in which its counter is seen to have reached the value, and does nothing more; in open
mode, where it may stand, likewise, whenever the counter reaches the value, and its block ends with it where it carries the mark; while the counter
has not, it waits, and its stream with it. In another place it is WAIT_PLACE as it issues, and in the control stream one that names a hold group is an
ILLEGAL_OP (R188, R194). REALIGN (R180): a member of the group in the Beat before one of its realign points stands at the barrier, once nothing it
asked for is outstanding, from the cycle of the last landing or read of its block at the earliest. -/
def Obligations.WaitscAndRealignWait : Prop :=
  ((∀ (i : Iss) (c : Cond) (s s0 : State) (t : Nat), issuePoint i (some c) s = some (t, s0) →
    waitBad i c = false → exec (.waitsc i none c) s = .next (completed i s0 i.fin (issued i t s0) t))
  ∧ (∀ (i : Iss) (n : WaitNext) (c : Cond) (z s : State) (t : Nat), issuePoint i none z = some (t, s) → waitBad i c = false →
      (openPlace i n (getStrm s i.core i.strm).loops = true →
        (∀ t', waitCycle (getCtr s i.core c.sc) c.v t = some t' → exec (.waitsc i (some n) c) z
            = .next (completedAs true i s i.fin (modStrm (issued i t s) i.core i.strm (fun x => { x with lastIss := t' })) t'))
        ∧ (waitCycle (getCtr s i.core c.sc) c.v t = none → exec (.waitsc i (some n) c) z
            = .next { s with held := s.held ++ [⟨.waitsc i (some n) c, i.core, [i.strm]⟩] }))
      ∧ (openPlace i n (getStrm s i.core i.strm).loops = false →
          exec (.waitsc i (some n) c) z = .next (raised i s (issued i t s) ⟨.waitPlace, 0, t⟩)))
  ∧ (∀ (i : Iss) (w : Option WaitNext) (c : Cond) (z s : State) (t : Nat), issuePoint i none z = some (t, s) → waitBad i c = true →
      exec (.waitsc i w c) z = .next (raised i s (issued i t s) ⟨.illegalOp, 0, t⟩)))
  ∧ (∀ (i : Iss) (group : Nat) (g : RGroup) (seg : Seg) (z s : State) (t : Nat),
    issuePoint i none z = some (t, s) → runningSeg s (partOf s i.core) = some seg → seg.decl.groups[group]? = some g →
    (coreIdx s (partOf s i.core) i.core, i.strm) ∈ g.members → beforePoint g seg s.beat.b = true → drained s i.core i.strm = true →
    ∃ u, exec (.realign i group) z = .next u ∧ (getStrm u i.core i.strm).realign = some (group, max t (asyncLast s i))
      ∧ blocked u i.core i.strm = true ∧ regsKept i s u [] ∧ otherStreams i s u ∧ arraysKept i s u ∧ sameOutside s u)

/-- SIGNALSC (R143, R175, R176): a local signal adds its amount to the counter of its core in its cycle and does nothing more. A remote one sends a
flit to the core of its partition index, and adds there at the flit's write point where its slots are free. A counter that gains an addition in
cycle t shows it to a waiter from cycle t + 3 on, and the other counters keep their value. -/
def Obligations.SignalscAddsToItsCounter : Prop :=
  (∀ (i : Iss) (g : Sig) (z s : State) (t : Nat), issuePoint i none z = some (t, s) →
    exec (.signalsc i none g) z = .next (completed i s i.fin (addCtr (issued i t s) i.core g.sc t g.amt) t))
  ∧ (∀ (i : Iss) (idx dst : Nat) (g : Sig) (z s : State) (t a : Nat), issuePoint i none z = some (t, s) →
    coreAt s (partOf s i.core) idx = some dst → (getStrm s i.core i.strm).shift = 0 →
    meshFree s i.core dst (t + transit s.build 0x30 + 1) → a = flitArrive s.build i.core dst (t + transit s.build 0x30 + 1) →
    late s i.strm a = false →
    exec (.signalsc i (some idx) g) z = .next (completed i s i.fin
      (addCtr { issued i t s with mesh := flitSlots s.build i.core dst (t + transit s.build 0x30 + 1) (.ctr dst g.sc a) ++ s.mesh }
        dst g.sc a g.amt) a))
  ∧ (∀ (s : State) (core sc t : Nat) (v : W32),
    (∀ d, d ≤ t + 2 → seenAt (getCtr (addCtr s core sc t v) core sc) d = seenAt (getCtr s core sc) d)
    ∧ (∀ d, t + 3 ≤ d → seenAt (getCtr (addCtr s core sc t v) core sc) d = seenAt (getCtr s core sc) d + v)
    ∧ (∀ c n, (c, n) ≠ (core, sc) → getCtr (addCtr s core sc t v) c n = getCtr s c n)
    ∧ sameOutside s (addCtr s core sc t v))

/-- LAUNCH (R158, R159, R196): with room in the engine's queue and a block number within its block table, a descriptor with the placement, the four
P values and the block-end signal joins the queue's end; the other streams keep theirs. SEGEND (R32, R182, R31, R116): where no descriptor waits, no block
runs, no output of an XOP is still expected and no block has ended past the placement by a shift, no pass is left to begin, no digest stream is bound, every change of activity keeps the ramp
rule and no Torte is active at the end of the last block, the core's control stream has ended, in the cycle in which its last block did. MBXSEND (R167,
R284, R287): the word of two S
registers, with the core's sender identifier, joins the end of its own partition's device-to-host queue if that has room. -/
def Obligations.LaunchSegendAndMbxsend : Prop :=
  (∀ (i : Iss) (eng : Strm) (block boff cyc : Nat) (ps : List (Option Nat)) (sig : Option Sig) (z s : State) (t : Nat),
      issuePoint i none z = some (t, s) → i.strm = .control → eng ≠ .control → block < blockCount s i.core eng →
      (getStrm s i.core eng).queue.length < 16 →
      ∃ u d, exec (.launch i eng block boff cyc ps sig) z = .next u
        ∧ (getStrm u i.core eng).queue = (getStrm s i.core eng).queue ++ [d]
        ∧ d.block = block ∧ d.boff = boff ∧ d.cyc = cyc
        ∧ d.p = (List.range 4).map (fun n => match ps.getD n none with | some r => smGet 0 (getCore s i.core).s r | none => 0)
        ∧ d.sig = sig.map (fun g => ⟨g.sc, BitVec.ofNat 32 (g.amt.toNat % 65536)⟩)
        ∧ (∀ k, k ≠ eng → (getStrm u i.core k).queue = (getStrm s i.core k).queue)
        ∧ regsKept i s u [] ∧ arraysKept i s u ∧ sameOutside s u)
  ∧ ((∀ (i : Iss) (z s : State) (t e : Nat), issuePoint i none z = some (t, s) → i.strm = .control →
      (∀ k ∈ engines, (getStrm s i.core k).queue = [] ∧ (getStrm s i.core k).blk = none) →
      (∀ d ∈ (getCore s i.core).dig, d.2 = none) → (∀ x ∈ s.xouts, x.loc.iss.core ≠ i.core) →
      (∀ k ∈ engines, shiftedPast (s.beat.start + i.at_) (getStrm s i.core k) = false) →
      passDue (getCore s i.core) (s.beat.start + 4127) = false →
      (engines.map (getStrm s i.core)).foldl (fun m x => max m x.prevEnd) t = e → activeCount (getCore s i.core).acts e = 0 →
      (rampCheck s i.core (e + 1)).2 = none →
      ∃ u, exec (.segend i) z = .next u ∧ (getCore u i.core).segend = true ∧ (getStrm u i.core .control).prevEnd = e
        ∧ regsKept i s u [] ∧ otherStreams i s u ∧ arraysKept i s u ∧ sameOutside s u)
    ∧ (∀ (i : Iss) (lo hi : Nat) (z s : State) (t : Nat), issuePoint i none z = some (t, s) → i.strm = .control →
      (getMbx s (partOf s i.core)).rx.length < 8 →
      ∃ u, exec (.mbxsend i (partOf s i.core) lo hi) z = .next u
        ∧ (getMbx u (partOf s i.core)).rx = (getMbx s (partOf s i.core)).rx
            ++ [(BitVec.ofNat 64 (regVal s i (.s lo) + regVal s i (.s hi) * 2 ^ 32), coreSender (partOf s i.core) i.core)]
        ∧ (∀ n, n ≠ partOf s i.core → getMbx u n = getMbx s n)
        ∧ regsKept i s u [] ∧ otherStreams i s u ∧ arraysKept i s u ∧ u.spad = s.spad ∧ u.rows = s.rows ∧ u.stk = s.stk))

/-- CMP (R165): the flag takes the outcome of the comparison that Table 7.5 gives the code, counters as seen in the issue cycle; the other flags and
every register keep their value. SKIPIF (R166): where the flag has the sense named, the next instruction is skipped; else nothing is. Nothing else
changes. BEATREAD and HALT (R167). BEATREAD: one S register takes b mod 2^32 and the other c of its point (the second, where both are the same), the
command is timing-tainted, and no other register changes. HALT: its effect is the fault HALTED. The running Segment's abort begins in this Beat,
and where the buffer has room a record with the code, the HALT's operand, its physical PC and the DVIS stream and index that the location map gives it
(R231, R232) enters it. -/
def Obligations.CmpSkipifBeatreadAndHalt : Prop :=
  ((∀ (i : Iss) (flag cond x : Nat) (y : CmpSrc) (b : Bool) (z s : State) (t : Nat),
      issuePoint i none z = some (t, s) → i.strm = .control →
      cmpOutcome cond (smGet 0 (getCore s i.core).s x) (cmpVal s i t y) = some b →
      ∃ u, exec (.cmp i flag cond x y) z = .next u
        ∧ smGet false (getCore u i.core).f flag = b
        ∧ (∀ n, n ≠ flag → smGet false (getCore u i.core).f n = smGet false (getCore s i.core).f n)
        ∧ regsKept i s u [] ∧ otherStreams i s u ∧ (getCore u i.core).ent = (getCore s i.core).ent ∧ sameOutside s u)
    ∧ (∀ (i : Iss) (sense : Bool) (flag : Nat) (z s : State) (t : Nat),
      issuePoint i none z = some (t, s) → i.strm = .control →
      ∃ u, exec (.skipif i sense flag false) z = .next u
        ∧ (getStrm u i.core i.strm).skipNext = (smGet false (getCore s i.core).f flag == sense)
        ∧ regsKept i s u [] ∧ otherStreams i s u ∧ arraysKept i s u ∧ sameOutside s u))
  ∧ ((∀ (i : Iss) (sb sc : Nat) (z s : State) (t : Nat), issuePoint i none z = some (t, s) → i.strm = .control → sb < 16 → sc < 16 →
      ∃ u, exec (.beatread i sb sc) z = .next u
        ∧ regVal u i (.s sc) = (pointOf s t).2 % 2 ^ 32
        ∧ (sb ≠ sc → regVal u i (.s sb) = (pointOf s t).1.toNat % 2 ^ 32)
        ∧ (getPart u (partOf s i.core)).seg.map Seg.taint = (getPart s (partOf s i.core)).seg.map (fun _ => true)
        ∧ regsKept i s u [.s sb, .s sc] ∧ otherStreams i s u ∧ arraysKept i s u ∧ sameOutside s u)
    ∧ (∀ (i : Iss) (code : W32) (g : Seg) (z s : State) (t : Nat), issuePoint i none z = some (t, s) → i.strm = .control →
      runningSeg s (partOf s i.core) = some g → s.flt.buf.length < 64 →
      ∃ u r, exec (.halt i code) z = .next u
        ∧ u.flt = (enterRec r s).flt ∧ r.code = FCode.halted.code ∧ r.detail = code.toNat * 2 ^ 16 ∧ r.loc = true
        ∧ r.part = some (partOf s i.core) ∧ r.strm = (locOf s i).strm ∧ r.dix = (locOf s i).dix
        ∧ r.loops = loopVec (getStrm s i.core i.strm) ∧ r.pc = i.pc ∧ r.context = g.ctx
        ∧ (r.beat, r.cycle) = pointOf s t ∧ (∃ x ∈ u.flt.buf, x.id = s.flt.next ∧ x = { r with id := x.id, seq := x.seq })
        ∧ (getPart u (partOf s i.core)).seg.map Seg.abort = some (some ⟨.seq s.flt.next, recKey r, s.beat.b⟩)
        ∧ regsKept i s u [] ∧ otherStreams i s u ∧ arraysKept i s u ∧ sameOutside s u))

/-! ### Load and Store engines (chapters 06, 08, 12) -/

/-- LDS and LDH (R134, R198, R277): where the destination has Granules of the build, the object holds the bytes named and every row of the destination
has room for one more landing, the load is accepted: each row gains one landing with the counter and the place named, an LDS also its Granule requests
at the Extent's bytes, and an LDH its host address; no scratchpad byte and no stack byte changes. LDW (R309 to R311): where the Extent is PACKED, begins
with a Fondant packing header and holds the blocks named, the packed blocks from offset div 4,096 on are fetched by their index entries, and every row of
a Granule-aligned destination gains one landing of the parts of the blocks that fill it. -/
def Obligations.LoadsAreAccepted : Prop :=
  ((∀ (i : Iss) (o : LdOps) (e : ExtEnt) (z s : State) (t t' : Nat), issuePoint i none z = some (t, s) → i.strm = .load →
    granFault s i (aReg s i o.aDst) (aReg s i o.aOff) o.len 32 t = none →
    lookup s (pReg s i o.pObj) (partOf s i.core) (segEpoch s (partOf s i.core)) (aReg s i o.aOff) o.len false = .ok e →
    acceptCycle s i.core (spansOf (aReg s i o.aDst) o.len) t = some t' →
    ∃ u, exec (.lds i o) z = .next u
      ∧ u.lands.map (fun l => (l.core, l.local_, l.sc, l.data.length)) = s.lands.map (fun l => (l.core, l.local_, l.sc, l.data.length))
          ++ (spansOf (aReg s i o.aDst) o.len).map (fun x => (i.core, x.1, o.sc, x.2))
      ∧ u.stk.greqs.map (fun r => (r.core, r.g, r.key, r.wr)) = s.stk.greqs.map (fun r => (r.core, r.g, r.key, r.wr))
          ++ (spansOf (aReg s i o.aDst) o.len).flatMap (fun x => (List.range (x.2 / 32)).map (fun k =>
              (i.core, (e.addr + aReg s i o.aOff + (x.1 - aReg s i o.aDst)) / 32 + k, partKey s (partOf s i.core), none)))
      ∧ u.spad = s.spad ∧ u.stk.mem = s.stk.mem ∧ u.stores = s.stores ∧ regsKept i s u [] ∧ otherStreams i s u ∧ arraysKept i s u)
  ∧ (∀ (i : Iss) (o : LdOps) (addr : Nat) (z s : State) (t t' : Nat), issuePoint i none z = some (t, s) → i.strm = .load →
    granFault s i (aReg s i o.aDst) (aReg s i o.aOff) o.len 32 t = none →
    hostObj s (partOf s i.core) (pReg s i o.pObj).toNat (aReg s i o.aOff) o.len = some addr →
    acceptCycle s i.core (spansOf (aReg s i o.aDst) o.len) t = some t' →
    ∃ u, exec (.ldh i o) z = .next u
      ∧ u.lands.map (fun l => (l.core, l.local_, l.sc, l.host)) = s.lands.map (fun l => (l.core, l.local_, l.sc, l.host))
          ++ (spansOf (aReg s i o.aDst) o.len).map (fun x => (i.core, x.1, o.sc, some (addr + (x.1 - aReg s i o.aDst))))
      ∧ u.stk = s.stk ∧ u.spad = s.spad ∧ u.stores = s.stores ∧ regsKept i s u [] ∧ otherStreams i s u ∧ arraysKept i s u))
  ∧ (∀ (i : Iss) (o : LdOps) (e : ExtEnt) (hd : Nat) (z s : State) (t t' : Nat), issuePoint i none z = some (t, s) → i.strm = .load →
    granFault s i (aReg s i o.aDst) (aReg s i o.aOff) o.len 4096 t = none → aReg s i o.aOff < 2 ^ 36 →
    lookup s (pReg s i o.pObj) (partOf s i.core) (segEpoch s (partOf s i.core)) 0 32 false = .ok e →
    lookup s (pReg s i o.pObj) (partOf s i.core) (segEpoch s (partOf s i.core)) (32 + 8 * (aReg s i o.aOff / 4096))
      (8 * (o.len / 4096)) false = .ok e →
    (∀ g, (smGet noErr s.stk.errs g).n = 0) →
    hd = leNat (stkBytes s (partKey s (partOf s i.core)) e.addr 16) → e.packed = true → bitsOf hd 0 32 = 0x4B434150 →
    aReg s i o.aOff / 4096 + o.len / 4096 ≤ bitsOf hd 32 32 →
    acceptCycle s i.core (spansOf (aReg s i o.aDst) o.len) t = some t' →
    ∃ u, exec (.ldw i o) z = .next u
      ∧ u.stk.packs.map (fun p => (p.mode, p.bad, p.plen)) = s.stk.packs.map (fun p => (p.mode, p.bad, p.plen))
          ++ (List.range (o.len / 4096)).map (fun j =>
              let x := packEntry e (bitsOf hd 64 64)
                (leNat (stkBytes s (partKey s (partOf s i.core)) (e.addr + 32 + 8 * (aReg s i o.aOff / 4096 + j)) 8))
              (x.2.2.1, x.2.2.2, x.2.1))
      ∧ u.lands.map (fun l => (l.core, l.local_, l.sc, l.pack)) = s.lands.map (fun l => (l.core, l.local_, l.sc, l.pack))
          ++ (spansOf (aReg s i o.aDst) (4096 * (o.len / 4096))).map (fun x =>
              (i.core, x.1, o.sc, packParts s.nextId (x.1 - aReg s i o.aDst) x.2))
      ∧ u.spad = s.spad ∧ u.stk.mem = s.stk.mem ∧ u.stores = s.stores ∧ regsKept i s u [] ∧ otherStreams i s u)

/-- STS and STH (R199, R277, R290, R295): accepted, each row of the source owes one read whose bytes go to the Extent under the partition's key, or to the
host object; an STS takes its places among the core's stack requests at once; with DG the stream of the same object and next offset advances by the length. No scratchpad or stack byte changes yet. -/
def Obligations.StsSthAreAccepted : Prop :=
  (∀ (i : Iss) (o : StOps) (e : ExtEnt) (z s : State) (t : Nat), issuePoint i none z = some (t, s) → i.strm = .store →
    granFault s i (aReg s i o.aSrc) (aReg s i o.aOff) o.len 32 t = none →
    lookup s (pReg s i o.pObj) (partOf s i.core) (segEpoch s (partOf s i.core)) (aReg s i o.aOff) o.len true = .ok e →
    (digStore s i o (aReg s i o.aOff) t).1 = none →
    ∃ u, exec (.sts i o) z = .next u
      ∧ u.stores.map (fun r => (r.core, r.local_, r.len, r.dst)) = s.stores.map (fun r => (r.core, r.local_, r.len, r.dst))
          ++ (spansOf (aReg s i o.aSrc) o.len).map (fun x => (i.core, x.1, x.2,
              Place.stack (e.addr + aReg s i o.aOff + (x.1 - aReg s i o.aSrc)) (partKey s (partOf s i.core))))
      ∧ u.stk.greqs.map (fun r => (r.core, r.g, r.key, r.wr)) = s.stk.greqs.map (fun r => (r.core, r.g, r.key, r.wr))
          ++ (spansOf (aReg s i o.aSrc) o.len).flatMap (fun x => (List.range (x.2 / 32)).map (fun k =>
              (i.core, (e.addr + aReg s i o.aOff + (x.1 - aReg s i o.aSrc)) / 32 + k, partKey s (partOf s i.core),
                some (segTag s (partOf s i.core), []))))
      ∧ (∀ d, (digStore s i o (aReg s i o.aOff) t).2 = some d → getDig u i.core o.dstr = some d)
      ∧ u.spad = s.spad ∧ u.rows = s.rows ∧ u.stk.mem = s.stk.mem ∧ u.lands = s.lands ∧ regsKept i s u [] ∧ otherStreams i s u)
  ∧ (∀ (i : Iss) (o : StOps) (addr : Nat) (z s : State) (t : Nat), issuePoint i none z = some (t, s) → i.strm = .store →
    granFault s i (aReg s i o.aSrc) (aReg s i o.aOff) o.len 32 t = none →
    hostObj s (partOf s i.core) (pReg s i o.pObj).toNat (aReg s i o.aOff) o.len = some addr →
    (digStore s i o (aReg s i o.aOff) t).1 = none →
    ∃ u, exec (.sth i o) z = .next u
      ∧ u.stores.map (fun r => (r.core, r.local_, r.len, r.dst)) = s.stores.map (fun r => (r.core, r.local_, r.len, r.dst))
          ++ (spansOf (aReg s i o.aSrc) o.len).map (fun x => (i.core, x.1, x.2, Place.host (addr + (x.1 - aReg s i o.aSrc))))
      ∧ (∀ d, (digStore s i o (aReg s i o.aOff) t).2 = some d → getDig u i.core o.dstr = some d)
      ∧ u.spad = s.spad ∧ u.rows = s.rows ∧ u.stk = s.stk ∧ u.lands = s.lands ∧ regsKept i s u [] ∧ otherStreams i s u)

/-- DIGEST (R199). OPEN at a 4 KiB-aligned offset binds a free stream to the object. CLOSE, once no store of the stream is outstanding, frees the
stream and adds the root over its bytes to the Segment's output roots, and the root is written in the first cycle `c` in which the write port of its bank is
open (R27), where the root's Granule lies in the build, its bank is ON and no guarded read of its row falls in that cycle. -/
def Obligations.DigestOpensAndCloses : Prop :=
  (∀ (i : Iss) (aOff pObj dstr : Nat) (z s : State) (t : Nat), issuePoint i none z = some (t, s) → i.strm = .store →
    aReg s i aOff % 4096 = 0 → getDig s i.core dstr = none →
    ∃ u, exec (.digestOpen i aOff pObj dstr) z = .next u
      ∧ getDig u i.core dstr = some ⟨pReg s i pObj, aReg s i aOff, aReg s i aOff, []⟩
      ∧ (∀ n, n ≠ dstr → getDig u i.core n = getDig s i.core n)
      ∧ regsKept i s u [] ∧ otherStreams i s u ∧ sameOutside s u)
  ∧ (∀ (i : Iss) (aRoot dstr c : Nat) (d : DigStrm) (z s : State) (t : Nat), issuePoint i none z = some (t, s) → i.strm = .store →
    c = openCycle s (portNo i.core (aReg s i aRoot) true) (max t s.now) →
    localFault s i (aReg s i aRoot) 32 32 t = none → getDig s i.core dstr = some d →
    (∀ r ∈ s.stores, r.core = i.core → r.dig.map Prod.fst ≠ some dstr) →
    bankAt s i.core (aReg s i aRoot) = .on →
    (guarded s i.core (aReg s i aRoot) = true → c ∉ (getRow s (rowNo i.core (aReg s i aRoot))).rds) → usesOrdered s = true →
    ∃ u, exec (.digestClose i aRoot dstr) z = .next u
      ∧ getDig u i.core dstr = none
      ∧ (getPart u (partOf s i.core)).seg.map Seg.roots = (getPart s (partOf s i.core)).seg.map (fun g =>
          g.roots ++ [(8 * coreIdx s (partOf s i.core) i.core + dstr, treeRoot (memRead d.bytes 0 (d.next - d.start)))])
      ∧ readSpan u i.core (aReg s i aRoot) 32 (c + 1)
          = digBytes (treeRoot (memRead d.bytes 0 (d.next - d.start)))
      ∧ regsKept i s u [] ∧ otherStreams i s u ∧ u.spad = s.spad ∧ u.stk = s.stk ∧ u.stores = s.stores)

/-! ### Move (chapter 06) -/

/-- FILLC (R139): where the rows lie in the build and can be written in their cycles, row j of the destination reads as the constant in the cycle after
its write, 32 rows to a cycle from SP_FL after the issue; every other row keeps its record, and no register changes. COPYR (R140): where source and
destination lie apart in the build, the rows can be read and the destination written in their cycles, 32 rows to a cycle, row j of the destination reads as row j of
the source did in its read cycle. MVM (R142, R143): where the destination is a row range of a core of the partition, apart from the source, the rows can
be read, the mesh has the slots of their flits free and the destination's rows can be written, row j of the destination reads as row j of the source
did, and a SIGNAL flit follows. MVB (R31, R320, R323): where the port is the partition's, enabled or not, with a link key and a slot table that has the cells,
and the cells at its issue are those at its placement, the rows fill them. -/
def Obligations.MoveCommandsMoveRows : Prop :=
  (∀ (i : Iss) (aDst rows : Nat) (v : W32) (z s : State) (t : Nat), issuePoint i none z = some (t, s) → i.strm = .move → 1 ≤ rows →
      rows ≤ 65536 → localFault s i (aReg s i aDst) (128 * rows) 128 t = none →
      (∀ j, j < rows → canWrite s i.core .move (aReg s i aDst + 128 * j) 128 (t + transit s.build 0x20 + j / 32)) → usesOrdered s = true →
      ∃ u, exec (.fillc i aDst rows v) z = .next u
        ∧ (∀ j, j < rows → readSpan u i.core (aReg s i aDst + 128 * j) 128 (t + transit s.build 0x20 + j / 32 + 1)
            = (List.replicate 32 (natLe 4 v.toNat)).flatten)
        ∧ (∀ g, (∀ j, j < rows → g ≠ rowNo i.core (aReg s i aDst + 128 * j)) → getRow u g = getRow s g)
        ∧ u.spad = s.spad ∧ u.stk = s.stk ∧ u.lands = s.lands ∧ regsKept i s u [] ∧ otherStreams i s u ∧ arraysKept i s u)
  ∧ (∀ (i : Iss) (aSrc aDst rows : Nat) (x : Ext) (z s : State) (t : Nat), issuePoint i none z = some (t, s) → i.strm = .move → 1 ≤ rows →
      extBad x false false true = false → localFault s i (aReg s i aSrc) (128 * rows) 128 t = none →
      localFault s i (aReg s i aDst) (128 * rows) 128 t = none →
      (aReg s i aSrc + 128 * rows ≤ aReg s i aDst ∨ aReg s i aDst + 128 * rows ≤ aReg s i aSrc) →
      (∀ j, j < rows → canRead s i.core .move (expTag x 0) (spanReads (aReg s i aSrc + 128 * j) 128 (t + transit s.build 0x21 + j / 32))
        ∧ canWrite s i.core .move (aReg s i aDst + 128 * j) 128 (t + transit s.build 0x21 + j / 32 + transit s.build 0x22)) →
      usesOrdered s = true →
      ∃ u, exec (.copyr i aSrc aDst rows x) z = .next u
        ∧ (∀ j, j < rows → readSpan u i.core (aReg s i aDst + 128 * j) 128 (t + transit s.build 0x21 + j / 32 + transit s.build 0x22 + 1)
            = rowData s (rowNo i.core (aReg s i aSrc + 128 * j)) (t + transit s.build 0x21 + j / 32))
        ∧ u.spad = s.spad ∧ u.stk = s.stk ∧ u.lands = s.lands ∧ regsKept i s u [] ∧ otherStreams i s u ∧ arraysKept i s u)
  ∧ (∀ (i : Iss) (aSrc aDst rows dst local_ : Nat) (x : Ext) (z s : State) (t : Nat), issuePoint i none z = some (t, s) →
      i.strm = .move → 1 ≤ rows → extBad x false true true = false → localFault s i (aReg s i aSrc) (128 * rows) 128 t = none →
      meshDest s i (aReg s i aDst) (128 * rows) = some (dst, local_) → local_ % 128 = 0 → (getStrm s i.core .move).shift = 0 →
      (dst = i.core → aReg s i aSrc + 128 * rows ≤ local_ ∨ local_ + 128 * rows ≤ aReg s i aSrc) →
      (∀ y ∈ s.flitErrs, y.core ≠ dst) →
      (∀ j, j < rows → canRead s i.core .move (expTag x 0) (spanReads (aReg s i aSrc + 128 * j) 128 (t + transit s.build 0x30 + 2 * j))
        ∧ (∀ f, f < 2 → meshFree s i.core dst (t + transit s.build 0x30 + 2 * j + 1 + f)
            ∧ canWrite s dst .control (local_ + 128 * j + 64 * f) 64
                (flitArrive s.build i.core dst (t + transit s.build 0x30 + 2 * j + 1 + f)))) →
      late s .move (flitArrive s.build i.core dst (t + transit s.build 0x30 + 2 * rows)) = false →
      (x.sig.isSome = true → meshFree s i.core dst (t + transit s.build 0x30 + 1 + 2 * rows)
        ∧ late s .move (flitArrive s.build i.core dst (t + transit s.build 0x30 + 1 + 2 * rows)) = false) → usesOrdered s = true →
      ∃ u, exec (.mvm i aSrc aDst rows x) z = .next u
        ∧ (∀ j, j < rows → readSpan u dst (local_ + 128 * j) 128 (flitArrive s.build i.core dst (t + transit s.build 0x30 + 2 * j + 2) + 1)
            = rowData s (rowNo i.core (aReg s i aSrc + 128 * j)) (t + transit s.build 0x30 + 2 * j))
        ∧ (∀ g, x.sig = some g → ∀ c, c ≠ i.core → (getCtr u c g.sc).adds = (getCtr s c g.sc).adds
            ++ (if c = dst then [(flitArrive s.build i.core dst (t + transit s.build 0x30 + 1 + 2 * rows), g.amt)] else []))
        ∧ u.spad = s.spad ∧ u.stk = s.stk ∧ u.lands = s.lands ∧ regsKept i s u [] ∧ otherStreams i s u ∧ arraysKept i s u)
  ∧ (∀ (i : Iss) (aSrc port cells : Nat) (x : Ext) (tb : TabMem) (js : List Nat) (z s : State) (t : Nat),
      issuePoint i none z = some (t, s) → i.strm = .move → extBad x false false true = false → port < s.build.nbraid →
      (getPort s port).part = partOf s i.core → (getPart s (partOf s i.core)).link.isSome = true →
      localFault s i (aReg s i aSrc) (256 * cells) 128 t = none → (getPort s port).tab = some tb →
      js = (mvbCells s (getPort s port) tb (coreIdx s (partOf s i.core) i.core) t).take cells → js.length = cells → 1 ≤ cells →
      js = (mvbCells s (getPort s port) tb (coreIdx s (partOf s i.core) i.core) (s.beat.start + i.at_)).take cells →
      (∀ y ∈ js.zipIdx, ∀ h, h < 2 → claimClash s (mkClaim s i.core .move (aReg s i aSrc + 256 * y.2 + 128 * h)
        (s.beat.start + sendPoint tb.width y.1 - 2) false) = false) →
      late s i.strm (s.beat.start + sendPoint tb.width (js.getLastD 0)) = false →
      ∃ u, exec (.mvb i aSrc port cells x) z = .next u
        ∧ (getPort u port).sent = (getPort s port).sent
            ++ js.zipIdx.map (fun (j, n) => (⟨j, i.core, aReg s i aSrc + 256 * n, expTag x 0, locOf s i⟩ : SentCell))
        ∧ smGet 0 (getPort u port).used (coreIdx s (partOf s i.core) i.core) = js.getLastD 0 + 1
        ∧ (∀ p, p ≠ port → getPort u p = getPort s p) ∧ u.spad = s.spad ∧ u.rows = s.rows ∧ regsKept i s u [] ∧ otherStreams i s u)

/-- R142: a flit is written MESH_EJ after the last hop: one hop for each column and each row between the two cores. -/
def Obligations.FlitsTakeTheShortestWay : Prop :=
  ∀ (b : Build) (src dst t : Nat), 0 < meshW b → meshW b ≤ 8 → src < 64 → dst < 64 →
    flitArrive b src dst t = t + transit b 0x31 + transit b 0x33 + transit b 0x32
      * ((src % meshW b - dst % meshW b) + (dst % meshW b - src % meshW b)
        + (src / meshW b - dst / meshW b) + (dst / meshW b - src / meshW b))

/-- R131, R135, R136, R150: a write of at most a row to a bank that is ON, before the guard window where the stream is timed, that meets no claim moved by a hold and
no read of a guarded row in its cycle, is there for every read from the next cycle on, up to the next use of the row. It counts the row's tag on by one, unless the row's
write port is in use in the cycle already, leaves the Granules it writes without symbol errors, and leaves every other row's record. What it stores is its bytes where no
Granule of the row has two or more symbols in error; a Granule so spoilt that it writes in part has free bytes beside them (the model's choice, log 66). -/
def Obligations.RowWritesAreReadBack : Prop :=
  ∀ (s : State) (core : Nat) (k : Strm) (src local_ t : Nat) (bs : List Byte) (w : Nat × List Byte),
    localOk s.build local_ bs.length = true → local_ % 128 + bs.length ≤ 128 → bankAt s core local_ = .on →
    late s k t = false → claimClash s (mkClaim s core k local_ t true) = false →
    (guarded s core local_ = true → t ∉ (getRow s (rowNo core local_)).rds) → usesOrdered s = true →
    w = storedBytes s (rowNo core local_) (local_ % 128) bs t →
    ∃ u, writeRow s core k src local_ bs t = (u, none)
      ∧ (rowView u (rowNo core local_) (t + 1)).data = splice (rowView s (rowNo core local_) (t + 1)).data w.1 w.2
      ∧ (rowView u (rowNo core local_) (t + 1)).tag = (rowView s (rowNo core local_) (t + 1)).tag
          + (if (rowView s (rowNo core local_) (t + 1)).wr = some t then 0 else 1)
      ∧ ((∀ q, q < 4 → (errAt s (rowNo core local_) q t).n < 2) → w = (local_ % 128, bs))
      ∧ (∀ q, onGran q (.write w.1 w.2) = true → errAt u (rowNo core local_) q (t + 1) = noErr)
      ∧ (∀ d, d ≤ t → rowView u (rowNo core local_) d = rowView s (rowNo core local_) d)
      ∧ (∀ g, g ≠ rowNo core local_ → getRow u g = getRow s g)
      ∧ u.spad = s.spad ∧ u.cores = s.cores ∧ u.stk = s.stk ∧ u.lands = s.lands ∧ usesOrdered u = true

/-! ### Matrix and Strudel (chapters 02 to 05) -/

/-- HOLD (R97, R105, R201): with a descriptor in order, units that can run the mode, no shadow still to be consumed and rows that can be read in the
cycle of the first chain step, the shadow registers of each Wafer the load serves take its own columns and Grains of the chunk, decoded as they stand at
that read under what the descriptor named at the issue; their held registers, and the registers of every other Wafer, do not change. -/
def Obligations.HoldLoadsTheShadow : Prop :=
  ∀ (i : Iss) (o : HoldOps) (x : Ext) (d : QDesc) (s s0 s1 : State) (t bands g0 g1 first : Nat) (cs : List Nat) (ws : List (Nat × Nat × Nat)),
    issuePoint i x.cond s = some (t, s0) → i.strm = .matrix → extBad x true false true = false → bands = lastBand s0.build o.mode + 1 →
    cs = loadChans o → (g0, g1) = chunkGrains o bands → first = t + transit s0.build 0x02 →
    ws = loadWafers s0.build o (unitList o.mode o.unit o.units) bands →
    localFault s0 i (aReg s0 i o.aBase) 32 32 t = none →
    openDesc i (fun _ => true) (expTag x 1) (aReg s0 i o.aDesc) (cs.headD 0) cs.length (32 * g0) (min o.k (32 * g1)) o.k t (issued i t s0)
      = ((s1, none), d) →
    localFault s0 i (aReg s0 i o.aBase) (cs.getLastD 0 * (32 * o.pitch) + spanBytes d.fmt (min o.k (32 * g1))) 32 t = none →
    modeOk s0 i.core o.mode (unitList o.mode o.unit o.units) = true →
    (∀ w ∈ ws, shadowBusy s0 i.core w.1 (first + bandOf o.mode w.1) = false) →
    canRead s1 i.core .matrix (expTag x 0) (chanReads d (aReg s0 i o.aBase) (32 * o.pitch) o.k g0 g1 first cs) →
    late s0 i.strm (first + 32 + lastBand s0.build o.mode) = false →
    ∃ u, exec (.hold i o x) s = .next u
      ∧ (∀ w ∈ ws, (smGet emptyWafer (getCore u i.core).waf w.1).shadow = some (cellLoad d (reader s1 i.core t) (reader s1 i.core first)
            (aReg s0 i o.aBase) o t (rowMapOf s0 i.core w.1) w.2.1 w.2.2)
          ∧ (smGet emptyWafer (getCore u i.core).waf w.1).held = (smGet emptyWafer (getCore s0 i.core).waf w.1).held)
      ∧ (∀ w, w ∉ ws.map Prod.fst → smGet emptyWafer (getCore u i.core).waf w = smGet emptyWafer (getCore s0 i.core).waf w)
      ∧ (getCore u i.core).ent = (getCore s0 i.core).ent ∧ u.spad = s0.spad

/-- MMA (R79, R97, R101 to R108): with operands, formats, units, held operand, entries and Anchor in order, the instruction completes in the cycle of its
last entry write or finish: its passes, folded from its first broadcast on, are the core's to run, each in its own cycle, and the Tortes are active with them.
The passes of a unit are its panels, streamed blocks and held chunks, each once, and follow each other by max(33, rows × cycles of a row). A pass
that raises no fault has its front turn the shadow of every Wafer of its unit into the held operand; a Wafer with no shadow keeps what it holds. -/
def Obligations.MmaFoldsItsTile : Prop :=
  (∀ (i : Iss) (o : MmaOps) (x : Ext) (d : QDesc) (h : CellLoad) (s s0 s1 s2 : State) (t sx hx n done : Nat) (us ws ts outs : List Nat)
      (bu : List (Nat × Nat)) (f : Fold) (c : Core) (xs : List Pass) (m : MmaRun) (anchor : Int),
    issuePoint i x.cond s = some (t, s0) → i.strm = .matrix → c = getCore (issued i t s0) i.core → us = unitList o.mode o.unit o.units →
    sx = (if o.aHeld then o.n else o.m) → hx = (if o.aHeld then o.m else o.n) → bu = busyUnits o.mode us hx →
    ws = bu.flatMap (fun u => unitWafers s0.build o.mode u.1) → ts = (us.flatMap (unitTortes s0.build o.mode)).eraseDups →
    localFault s0 i (aReg s0 i o.aBase) 32 32 t = none → nextHeld c (ws.headD 0) = some h →
    openDesc i (fun d => !(d.outl && h.outl)) (expTag x 1) (aReg s0 i o.aDesc) 0 sx 0 o.k o.k t (issued i t s0) = ((s1, none), d) →
    localFault s0 i (aReg s0 i o.aBase) ((sx - 1) * (32 * o.pitch) + spanBytes d.fmt o.k) 32 t = none →
    (o.out = .fused → fmtDrain o.ofmt = true) → modeOk s1 i.core o.mode us = true →
    holdsNothing c ws = false → holdBinds c o hx ws = true →
    f = foldOf s0.build o.mode sx hx o.k (fmtFour d.fmt && fmtFour h.fmt) (fmtWide d.fmt || h.wide) →
    (o.out ≠ .acc → localFault s0 i (aReg s0 i o.aOut) (outLen s0.build o f) (if o.out == .spill then 128 else 32) t = none) →
    (o.out = .acc → f.ns = 1 ∧ f.np ≤ us.length) →
    (∀ q ∈ ts, busyAt c q (t + transit s0.build 0x01 + (match o.mode with | .tier => q | _ => 0)) = false) →
    (o.mode = .solo → soloCount c ts (t + transit s0.build 0x01) ≤ 2) →
    openRec s1 i o.carried (aReg s0 i o.aRec) t = (s2, none) → anchor = passAnchor s2 i o.carried o.anchor (aReg s0 i o.aRec) t →
    outs = (if d.outl then d.outliers (reader s2 i.core t) else if h.outl then h.outIdx else []) →
    n = termCount (fmtWide d.fmt || h.wide) (d.zpmode != 0 || h.zp) outs 0 f.ng o.k →
    entryFault s2 i.core o.clear anchor n t (mmaEntries s0.build o f bu us.length) = none →
    xs = foldPasses f outs us (t + transit s0.build 0x01) → done = foldEnd s0.build f o.out xs →
    m = { loc := locOf (issued i t s0) i, o := o, x := x, f := f, desc := d, base := aReg s0 i o.aBase, anchor := anchor,
          key := sdAt (getCore s2 i.core) o.seed t, tid := (stochRegs s0 i o.pIdx).1, index := (stochRegs s0 i o.pIdx).2.1,
          nt := (stochRegs s0 i o.pIdx).2.2, out := aReg s0 i o.aOut, rec_ := aReg s0 i o.aRec, t := t, done := done, passes := xs, vals := [],
          sat := false } →
    exec (.mma i o x) s = .next (completed i s0 i.fin (catchUp
      ((fun r => if late s0 i.strm done then r else signalAt r i x.sig done)
        (modCore ((passActs s0.build o.mode m.loc xs).foldl (fun s0 a => addAct s0 i.core a) s2) i.core (fun c => { c with mmas := c.mmas ++ [m] })))
      i.core (t + transit s0.build 0x01)) (min done (s0.beat.start + 4031))))
  ∧ (∀ (f : Fold) (n ui p sb kc : Nat), (p, sb, kc) ∈ unitFold f n ui ↔ p < f.np ∧ p % n = ui ∧ sb < f.ns ∧ kc < f.nk)
  ∧ (∀ (f : Fold) (outs : List Nat) (u t : Nat) (l : List (Nat × Nat × Nat)),
      (timePasses f outs u l t).map (fun x => (x.panel, x.blk, x.kc)) = l
      ∧ (∀ x, (timePasses f outs u l t).head? = some x → x.p = t)
      ∧ (∀ k x y, (timePasses f outs u l t)[k]? = some x → (timePasses f outs u l t)[k + 1]? = some y → y.p = x.p + max 33 (x.rows * x.c)))
  ∧ (∀ (m : MmaRun) (x : Pass) (s u : State) (m1 : MmaRun) (w : Nat), runPass m x s = ((u, none), m1) → w ∈ unitWafers s.build m.o.mode x.unit →
      smGet emptyWafer (getCore u m.loc.iss.core).waf w = frontAt (m.o.mode, m.o.unit, m.o.units, m.o.k, m.f.hx) (x.p + bandOf m.o.mode w)
        (smGet emptyWafer (getCore s m.loc.iss.core).waf w))

/-- A pass row (R53 to R57, R104): what an entry holds at any cycle up to the write stays; in the cycle after, a clearing write has made it live under the
Anchor with the terms of the row alone, and another has added them to what the entry held. Each column takes the sum of its terms, and the count of
terms grows by the count given. An entry that a drain has armed and reads later is a DRAIN_RACE, and the write proceeds (R112). -/
def Obligations.PassRowsAccumulate : Prop :=
  ∀ (s : State) (core : Nat) (k : Strm) (w e t : Nat) (clear : Option Int) (n : Nat) (cols : List (List Term)) (u : State) (v r : EntV),
    entsOrdered s = true → late s k t = false → (passWrite s core k w e t clear n cols).1 = u →
    v = entAt (getEntry s core w e) (t + 1) → r = entAt (getEntry u core w e) (t + 1) →
    (∀ d, d ≤ t → entAt (getEntry u core w e) d = entAt (getEntry s core w e) d)
    ∧ r.live = (clear.isSome || v.live) ∧ r.anchor = clear.getD v.anchor ∧ r.terms = (if clear.isSome then 0 else v.terms) + n
    ∧ (∀ c, c < 32 → colOf r c = (addTerms (clear.getD v.anchor) (if clear.isSome then zeroAcc else colOf v c) (cols.getD c [])).1)
    ∧ (passWrite s core k w e t clear n cols).2 = armedRace s core w e t
    ∧ (∀ w' e', 64 * w' + e' ≠ 64 * w + e → getEntry u core w' e' = getEntry s core w' e')
    ∧ u.spad = s.spad ∧ u.rows = s.rows ∧ u.stk = s.stk

/-- R54, R55: the aligned term is floor(X × 2^(e − A)): an exact left shift for e at or above A, else an arithmetic right shift by A − e toward
negative infinity, so that a negative term of magnitude below 2^A becomes −1 and a positive one 0; outside the signed 96-bit range it is replaced
with the nearer limit and one clamp is counted, and then it is added like any other. The flags are ORed in. R38, R54 to R56: the terms of an element may be added in any order: the value, the flags and the clamps counted are the same. -/
def Obligations.TermsAreFlooredClampedAndCommute : Prop :=
  ((∀ x n : Int, (0 ≤ n → floorShift x n = x * 2 ^ n.toNat) ∧ (n < 0 → floorShift x n = x / 2 ^ (-n).toNat)
      ∧ (n < 0 → x < 0 → -x < 2 ^ (-n).toNat → floorShift x n = -1) ∧ (n < 0 → 0 ≤ x → x < 2 ^ (-n).toNat → floorShift x n = 0))
    ∧ (∀ (anchor : Int) (a : Acc) (k : Nat) (x : Term),
      (addTerm anchor (a, k) x).1.n = (a.n || x.n) ∧ (addTerm anchor (a, k) x).1.p = (a.p || x.p)
      ∧ (addTerm anchor (a, k) x).1.m = (a.m || x.m)
      ∧ (-(2 ^ 95) ≤ floorShift x.x (x.e - anchor) → floorShift x.x (x.e - anchor) ≤ 2 ^ 95 - 1 →
          (addTerm anchor (a, k) x).1.v = a.v + BitVec.ofInt 128 (floorShift x.x (x.e - anchor)) ∧ (addTerm anchor (a, k) x).2 = k)
      ∧ (2 ^ 95 - 1 < floorShift x.x (x.e - anchor) →
          (addTerm anchor (a, k) x).1.v = a.v + BitVec.ofInt 128 (2 ^ 95 - 1) ∧ (addTerm anchor (a, k) x).2 = k + 1)
      ∧ (floorShift x.x (x.e - anchor) < -(2 ^ 95) →
          (addTerm anchor (a, k) x).1.v = a.v + BitVec.ofInt 128 (-(2 ^ 95)) ∧ (addTerm anchor (a, k) x).2 = k + 1)))
  ∧ (∀ (anchor : Int) (a : Acc) (k : Nat) (ts us : List Term), ts.Perm us →
      ts.foldl (addTerm anchor) (a, k) = us.foldl (addTerm anchor) (a, k))

/-- DRAIN and SDRAIN (R58, R91, R92, R112, R126): with an output format, entries that are live, and the reads and writes of the record and the writes of the output not
faulting and no count that faults (R95), the drain completes MX_DR, or SV_DR, after its last read. `a` is what reading, rounding and writing the entries one a cycle
comes to. In the cycle after its write each element of the destination reads as its column of the entry, as read, drains (drainElem); a carried record reads as it was with
the drained values noted and, where CLOSE says so, closed. Each entry keeps its contents, or with clear is zeroed under its Anchor as it is read, so that the writes of
that cycle and of later ones start from zero. Without clear the clamps that this drain has counted are counted by no other (the model's reading, log 61). -/
def Obligations.DrainsReadTheirEntries : Prop :=
  (∀ (i : Iss) (o : DrainOps) (x : Ext) (s s0 s1 s2 s3 : State) (t dr done size out len rec_ : Nat) (es ws : List Nat) (rnd : Nat → Nat → Rnd)
      (a : (State × Option Flt) × DrainAcc),
    issuePoint i x.cond s = some (t, s0) → i.strm = .matrix → x.chk = none → es = entRange o.e0 o.e1 →
    ws = (List.range o.wafers).map (o.wafer + ·) → out = aReg s0 i o.aOut → rec_ = aReg s0 i o.aRec → size = fmtBits o.ofmt / 8 →
    dr = transit s0.build 0x05 → done = t + (o.e1 - o.e0) + dr → len = (o.e1 - o.e0) * (32 * o.opitch) + o.wafers * 32 * size →
    localFault s0 i out 32 32 t = none → fmtDrain o.ofmt = true → waferFit s0.build o.wafer o.wafers o.e0 o.e1 = true →
    localFault s0 i out len 32 t = none → (∀ w ∈ ws, ∀ e ∈ es, liveAt s0 i.core w e t = true) →
    openRec (issued i t s0) i o.carried rec_ t = (s1, none) →
    rnd = (fun e c => drawRnd o.stoch (sdAt (getCore s1 i.core) o.seed t) (stochRegs s0 i o.pIdx).1
      (drainIndex o.trans (stochRegs s0 i o.pIdx).2.1 (if o.nt == 0 then (stochRegs s0 i o.pIdx).2.2 else o.nt.toNat) (e - o.e0) c) 0) →
    a = es.foldl (fun acc e => ws.zipIdx.foldl (fun (acc : (State × Option Flt) × DrainAcc) (wf, w) =>
        drainOne i wf e 32 o.ofmt o.oexp.toInt (fun c => rnd e (32 * w + c)) o.clear (out + (e - o.e0) * (32 * o.opitch) + 32 * w * size)
          (t + (e - o.e0)) (t + (e - o.e0) + dr) acc) acc)
      (es.foldl (fun r e => ws.foldl (fun r w => armRead i.core w e t (t + (e - o.e0)) r) r) (s1, none), ⟨[], false⟩) →
    updateRec i o.carried o.close rec_ done a.2 a.1 = (s2, none) → endCheck s2 (locOf s2 i) done = (s3, none) → late s0 i.strm done = false →
    ∃ u, exec (.drain i o x) s = .next u ∧ u = completed i s0 i.fin (signalAt s3 i x.sig done) done
      ∧ (usesOrdered s0 = true → o.carried = false ∨ rec_ + 32 ≤ out ∨ out + len ≤ rec_ →
          (∀ e k c v, o.e0 ≤ e → e ≤ o.e1 → k < o.wafers → c < 32 → v = entAt (getEntry s0 i.core (o.wafer + k) e) (t + (e - o.e0)) →
            readSpan u i.core (out + (e - o.e0) * (32 * o.opitch) + (32 * k + c) * size) size (t + (e - o.e0) + dr + 1)
              = natLe size (drainElem o.ofmt (rnd e (32 * k + c)) o.oexp.toInt (colOf v c) v.anchor).1)
          ∧ (∀ y, o.carried = true → y = noteDrained (recAt s0 i.core rec_ done) a.2.vals a.2.sat →
            readSpan u i.core rec_ 16 (done + 1) = packARec (if o.close then closeRec y else y))))
  ∧ (∀ (i : Iss) (o : SdrainOps) (x : Ext) (s s0 s1 s2 s3 : State) (t dr done size out rec_ : Nat) (es : List Nat) (rnd : Nat → Nat → Rnd)
      (a : (State × Option Flt) × DrainAcc),
    issuePoint i x.cond s = some (t, s0) → i.strm = .strudel → x.chk = none →
    es = (List.range (o.e1 + 1 - o.e0)).map (o.e0 + ·) → out = aReg s0 i o.aOut → rec_ = aReg s0 i o.aRec → size = fmtBits o.ofmt / 8 →
    dr = transit s0.build 0x14 → done = t + (o.e1 - o.e0) + dr →
    localFault s0 i out 32 32 t = none → fmtDrain o.ofmt = true → o.e0 ≤ o.e1 → o.e1 < 64 → localFault s0 i out (sdrainLen o) 32 t = none →
    (∀ e ∈ es, liveAt s0 i.core lanesBank e t = true) → openRec (issued i t s0) i o.carried rec_ t = (s1, none) →
    rnd = (fun j l => drawRnd o.stoch (sdAt (getCore s1 i.core) o.seed t) (stochRegs s0 i o.pIdx).1
      ((stochRegs s0 i o.pIdx).2.1 + j % o.nb * (stochRegs s0 i o.pIdx).2.2 + 32 * (j / o.nb) + l) 0) →
    a = es.foldl (fun (acc : (State × Option Flt) × DrainAcc) e =>
        drainOne i lanesBank e 32 o.ofmt o.oexp.toInt (rnd (e - o.e0)) o.clear
          (out + (e - o.e0) % o.nb * (32 * o.opitch) + 32 * ((e - o.e0) / o.nb) * size) (t + (e - o.e0)) (t + (e - o.e0) + dr) acc)
      (es.foldl (fun r e => armRead i.core lanesBank e t (t + (e - o.e0)) r) (s1, none), ⟨[], false⟩) →
    updateRec i o.carried o.close rec_ done a.2 a.1 = (s2, none) → endCheck s2 (locOf s2 i) done = (s3, none) → late s0 i.strm done = false →
    ∃ u, exec (.sdrain i o x) s = .next u ∧ u = completed i s0 i.fin (signalAt s3 i x.sig done) done
      ∧ (usesOrdered s0 = true → o.carried = false ∨ rec_ + 32 ≤ out ∨ out + sdrainLen o ≤ rec_ →
          (∀ e l v, o.e0 ≤ e → e ≤ o.e1 → l < 32 → v = entAt (getEntry s0 i.core lanesBank e) (t + (e - o.e0)) →
            readSpan u i.core (out + (e - o.e0) % o.nb * (32 * o.opitch) + (32 * ((e - o.e0) / o.nb) + l) * size) size
                (t + (e - o.e0) + dr + 1)
              = natLe size (drainElem o.ofmt (rnd (e - o.e0) l) o.oexp.toInt (colOf v l) v.anchor).1)
          ∧ (∀ y, o.carried = true → y = noteDrained (recAt s0 i.core rec_ done) a.2.vals a.2.sat →
            readSpan u i.core rec_ 16 (done + 1) = packARec (if o.close then closeRec y else y))))
  ∧ (∀ (i : Iss) (w e n fmt : Nat) (oexp : Int) (rnd : Nat → Rnd) (clear : Bool) (addr rd wr : Nat) (s : State) (d : DrainAcc)
      (u : (State × Option Flt) × DrainAcc), entsOrdered s = true → late s i.strm rd = false →
    u = drainOne i w e n fmt oexp rnd clear addr rd wr ((s, none), d) →
    (∀ c, c ≤ rd → entAt (getEntry u.1.1 i.core w e) c = entAt (getEntry s i.core w e) c)
    ∧ (∀ c, rd < c → clear = true → entAt (getEntry u.1.1 i.core w e) c
        = ((getEntry s i.core w e).evs.filter (fun y => decide (rd ≤ y.1) && decide (y.1 < c))).foldl (fun v y => applyOp v y.2)
          (drainedEnt (entAt (getEntry s i.core w e) rd)))
    ∧ (∀ c, rd < c → clear = false →
        { entAt (getEntry u.1.1 i.core w e) c with clp := [] } = { entAt (getEntry s i.core w e) c with clp := [] })
    ∧ (∀ w' e', 64 * w' + e' ≠ 64 * w + e → getEntry u.1.1 i.core w' e' = getEntry s i.core w' e')
    ∧ u.2.vals = d.vals ++ (drainCols (entAt (getEntry s i.core w e) rd) n fmt oexp rnd).vals)

/-- R58, R60, R61: the value that an entry drains. With N, or with P and M, it is NaN; with P alone +Inf, with M alone −Inf, each counting one
NONFIN; else the 128-bit value held to the 96-bit window, a hold counting one WINSAT, times 2^(A + s). SPILL (R113, R204): where the
area's values and trailers of the indices lie in the build, the Wafers exist, the entries are live and the rows can be written in their cycles, they read as the
entries held in their read cycles, and every entry keeps its contents. The record of an entry index, read back, is the entry itself. RELOAD (R113):
where the rows can be read and each record is in form, each index holds what its record spells. ACCUMULATE (R57): where each entry is live under its
record's Anchor with room for its terms, it has the sum of the values and of the terms. -/
def Obligations.DrainsValuesAndSpillsAreExact : Prop :=
  (∀ (fmt : Nat) (rnd : Rnd) (s : Int) (a : Acc) (anchor : Int),
      ((a.n = true ∨ (a.p = true ∧ a.m = true)) → drainValue a anchor s = (.nan, 0, none))
      ∧ (a.n = false → a.p = true → a.m = false → drainValue a anchor s = (.inf false, 0, none))
      ∧ (a.n = false → a.p = false → a.m = true → drainValue a anchor s = (.inf true, 0, none))
      ∧ (a.n = false → a.p = false → a.m = false →
          ∃ v k, drainValue a anchor s = (.fin (ratShift v 1 (anchor + s)).1 (ratShift v 1 (anchor + s)).2, k, some v)
            ∧ (-(2 ^ 95) ≤ a.v.toInt → a.v.toInt ≤ 2 ^ 95 - 1 → v = a.v.toInt ∧ k = 0)
            ∧ (2 ^ 95 - 1 < a.v.toInt → v = 2 ^ 95 - 1 ∧ k = 1) ∧ (a.v.toInt < -(2 ^ 95) → v = -(2 ^ 95) ∧ k = 1))
      ∧ ((drainElem fmt rnd s a anchor).2.1.nonfin = if a.n || a.p || a.m then 1 else 0)
      ∧ ((drainElem fmt rnd s a anchor).2.1.winsat = BitVec.ofNat 64 (drainValue a anchor s).2.1))
  ∧ ((∀ (i : Iss) (o : SpillOps) (x : Ext) (s s0 : State) (t base dr : Nat), issuePoint i x.cond s = some (t, s0) → i.strm = .matrix →
      spillChecks s0 i o x t = none → anyStale s0 i.core o t = false → base = aReg s0 i o.aBase → dr = transit s0.build 0x05 →
      (∀ k e, k < o.wafers → o.e0 ≤ e → e ≤ o.e1 →
        canWrite s0 i.core .matrix (base + 34816 * k + 512 * e) 512 (t + (e - o.e0) + dr)
        ∧ canWrite s0 i.core .matrix (base + 34816 * k + 32768 + 32 * e) 32 (t + (e - o.e0) + dr)) →
      late s0 .matrix (t + (o.e1 - o.e0) + dr) = false → usesOrdered s0 = true →
      ∃ u, exec (.spill i o x) s = .next u
        ∧ (∀ k e, k < o.wafers → o.e0 ≤ e → e ≤ o.e1 →
            readSpan u i.core (base + 34816 * k + 512 * e) 512 (t + (e - o.e0) + dr + 1)
              = spillValues (entAt (getEntry s0 i.core (o.wafer + k) e) (t + (e - o.e0)))
            ∧ readSpan u i.core (base + 34816 * k + 32768 + 32 * e) 32 (t + (e - o.e0) + dr + 1)
              = spillTrailer (entAt (getEntry s0 i.core (o.wafer + k) e) (t + (e - o.e0))))
        ∧ (∀ w e, getEntry u i.core w e = getEntry s0 i.core w e) ∧ regsKept i s0 u [] ∧ u.stk = s0.stk)
    ∧ (∀ (i : Iss) (o : SpillOps) (x : Ext) (s s0 : State) (t base dr : Nat) (v : Nat → Nat → EntV), issuePoint i x.cond s = some (t, s0) →
      i.strm = .matrix → spillChecks s0 i o x t = none → base = aReg s0 i o.aBase → dr = transit s0.build 0x05 →
      (∀ k e, k < o.wafers → o.e0 ≤ e → e ≤ o.e1 →
        canRead s0 i.core .matrix (expTag x 0) (spanReads (base + 34816 * k + 512 * e) 512 (t + (e - o.e0))
          ++ spanReads (base + 34816 * k + 32768 + 32 * e) 32 (t + (e - o.e0)))
        ∧ parseSpill (readSpan s0 i.core (base + 34816 * k + 512 * e) 512 (t + (e - o.e0)))
            (readSpan s0 i.core (base + 34816 * k + 32768 + 32 * e) 32 (t + (e - o.e0))) = some (v k e)
        ∧ armedRace s0 i.core (o.wafer + k) e (t + (e - o.e0) + dr) = none) →
      late s0 .matrix (t + (o.e1 - o.e0) + dr) = false →
      (∃ u, exec (.reload i o x) s = .next u
        ∧ (∀ k e, k < o.wafers → o.e0 ≤ e → e ≤ o.e1 →
            (∀ y ∈ (getEntry s0 i.core (o.wafer + k) e).evs, y.1 ≤ t + (e - o.e0) + dr) →
            entNow (getEntry u i.core (o.wafer + k) e) = v k e)
        ∧ (∀ w e, (w < o.wafer ∨ o.wafer + o.wafers ≤ w) → e < 64 → getEntry u i.core w e = getEntry s0 i.core w e)
        ∧ u.spad = s0.spad ∧ regsKept i s0 u [] ∧ u.stk = s0.stk)
      ∧ (anyStale s0 i.core o t = false →
        (∀ k e, k < o.wafers → o.e0 ≤ e → e ≤ o.e1 →
          (entAt (getEntry s0 i.core (o.wafer + k) e) (t + (e - o.e0))).anchor = (v k e).anchor
          ∧ (entAt (getEntry s0 i.core (o.wafer + k) e) (t + (e - o.e0))).terms + (v k e).terms ≤ termLimit) →
        ∃ u, exec (.accumulate i o x) s = .next u
          ∧ (∀ k e, k < o.wafers → o.e0 ≤ e → e ≤ o.e1 →
              (∀ y ∈ (getEntry s0 i.core (o.wafer + k) e).evs, y.1 ≤ t + (e - o.e0) + dr) →
              entNow (getEntry u i.core (o.wafer + k) e) = joinEnt (entNow (getEntry s0 i.core (o.wafer + k) e)) (v k e))
          ∧ (∀ w e, (w < o.wafer ∨ o.wafer + o.wafers ≤ w) → e < 64 → getEntry u i.core w e = getEntry s0 i.core w e)
          ∧ u.spad = s0.spad ∧ regsKept i s0 u [] ∧ u.stk = s0.stk))
    ∧ (∀ v : EntV, v.live = true → -32768 ≤ v.anchor → v.anchor ≤ 32767 → v.terms ≤ 2 ^ 32 → v.cols.length = 32 →
        parseSpill (spillValues v) (spillTrailer v) = some { v with clp := [] }))

/-- EWM and MERINGUE (R114, R115). EWM: with formats, Wafers and entries in order and no read faulting, each named entry gains one term a column, the product
of the two elements at its place (productTerm), under the Anchor named where it clears; a BELL4 element is read by the default codebook (the model's choice, log 68). MERINGUE: the Tortes named are active as the rule says, and no entry, register or scratchpad byte changes. -/
def Obligations.EwmAndMeringue : Prop :=
  (∀ (i : Iss) (o : EwmOps) (x : Ext) (s s0 s1 s2 : State) (t p0 done : Nat) (ws : List Nat) (anchor : Int),
    issuePoint i x.cond s = some (t, s0) → i.strm = .matrix → ws = (List.range o.wafers).map (o.wafer + ·) →
    localFault s0 i (aReg s0 i o.aX) (spanBytes o.xfmt (o.cycles * o.wafers * 32)) 32 t = none →
    localFault s0 i (aReg s0 i o.aY) (spanBytes o.yfmt (o.cycles * o.wafers * 32)) 32 t = none →
    p0 = t + transit s0.build 0x01 → done = p0 + (o.cycles - 1) + transit s0.build 0x03 + transit s0.build 0x04 →
    anchor = anAt (getCore s0 i.core) o.anchor t →
    localFault s0 i (aReg s0 i o.aX) 32 32 t = none → localFault s0 i (aReg s0 i o.aY) 32 32 t = none →
    fmtOperand o.xfmt = true → fmtOperand o.yfmt = true → waferFit s0.build o.wafer o.wafers o.e o.e = true → o.e + o.cycles ≤ 64 →
    entryFault s0 i.core o.clear anchor 1 t (ws.flatMap (fun w => (List.range o.cycles).map (fun q => (w, o.e + q, 1)))) = none →
    s1 = (ws.map (· / 4)).eraseDups.foldl (fun r q => addAct r i.core ⟨q, p0, p0 + o.cycles, 1, false, 0, 0, some (locOf r i), false⟩)
      (issued i t s0) →
    (List.range o.cycles).foldl (fun r q => ewmCycle i o x (aReg s0 i o.aX) (aReg s0 i o.aY) anchor p0 q r) (s1, none) = (s2, none) →
    late s0 i.strm done = false →
    exec (.ewm i o x) s = .next (completed i s0 i.fin (signalAt s2 i x.sig done) done)
    ∧ (∀ k q v r, k < o.wafers → q < o.cycles → v = entNow (getEntry s0 i.core (o.wafer + k) (o.e + q)) →
        (∀ y ∈ (getEntry s0 i.core (o.wafer + k) (o.e + q)).evs, y.1 ≤ p0 + q + transit s0.build 0x03 + transit s0.build 0x04) →
        r = entNow (getEntry s2 i.core (o.wafer + k) (o.e + q)) →
        r.live = true ∧ r.anchor = anchor ∧ r.terms = (if o.clear then 0 else v.terms) + 1
        ∧ ∀ c ix, c < 32 → ix = (q * o.wafers + k) * 32 + c →
            colOf r c = (addTerms anchor (if o.clear then zeroAcc else colOf v c) [productTerm
              [decElem o.xfmt bell4 (elemAt o.xfmt (leNat (readSpan s0 i.core (aReg s0 i o.aX) (spanBytes o.xfmt (ix + 1)) (p0 + q))) ix),
               decElem o.yfmt bell4 (elemAt o.yfmt (leNat (readSpan s0 i.core (aReg s0 i o.aY) (spanBytes o.yfmt (ix + 1)) (p0 + q))) ix)]]).1))
  ∧ (∀ (i : Iss) (o : MerOps) (z s : State) (t : Nat), issuePoint i none z = some (t, s) → i.strm = .matrix →
    1 ≤ o.cycles → o.cycles ≤ 4032 → (∀ q, o.torte ≤ q → q < o.torte + o.tortes → q < s.build.ntorte ∧ torteStat s i.core q ≤ 1) →
    ∃ u, exec (.meringue i o) z = .next u
      ∧ (∀ q a, o.torte ≤ q → q < o.torte + o.tortes →
          a = merAct s i.core q (merStart (getCore s i.core) q t o.follow) o.cycles o.mdens (some (locOf s i))
            (i.fin && q + 1 == o.torte + o.tortes) → a.start < a.stop →
          a ∈ (getCore u i.core).acts)
      ∧ regsKept i s u [] ∧ otherStreams i s u ∧ arraysKept i s u ∧ sameOutside s u)
  ∧ (∀ (s : State) (core q t n mdens : Nat) (l : Option Loc) (ends : Bool), (∀ a ∈ (getCore s core).acts, a.torte = q → a.start < t) →
      (t + n ≤ s.beat.start + 4032 → merAct s core q t n mdens l ends = ⟨q, t, t + n, 2, false, 0, mdens, l, false⟩)
      ∧ (s.beat.start + 4032 < t + n → merAct s core q t n mdens l ends
          = ⟨q, t, s.beat.start + 4032, 2, false, t + n - (s.beat.start + 4032), mdens, l, ends⟩))

/-- MVX (R120 to R125): with sizes, descriptors, entries and Anchor in order, the Strudel in service and free, and no feed's read faulting, the
instruction completes after its last feed; every entry named is live under the Anchor, with the terms of its feeds: each Grain's product sum of the weights that the
first feed of the Grain loaded and the activation Grain as its own feed reads it (pairTerms), in each lane. `fs` is the feeds in order. -/
def Obligations.MvxFeedsItsLanes : Prop :=
  ∀ (i : Iss) (o : MvxOps) (x : Ext) (dw dx : QDesc) (s s0 s1 s2 s3 s4 : State) (t nrb ng c n : Nat) (anchor : Int)
      (fs : List (Nat × Nat × Nat)) (m : MvxCtx),
    issuePoint i x.cond s = some (t, s0) → i.strm = .strudel → x.sig = none → nrb = (o.nr + 31) / 32 → ng = (o.k + 31) / 32 →
    1 ≤ o.k → o.k ≤ 65536 → 1 ≤ o.nr → o.nr ≤ 2048 → 1 ≤ o.nb → o.nb ≤ 8 → o.e0 + nrb * o.nb ≤ 64 → (getCore s0 i.core).sout = false →
    localFault s0 i (aReg s0 i o.aW) 128 128 t = none → localFault s0 i (aReg s0 i o.aX) 32 32 t = none →
    openDesc i (fun d => !d.outl) (expTag x 2) (aReg s0 i o.aDW) 0 o.nr 0 o.k o.k t (issued i t s0) = ((s1, none), dw) →
    openDesc i (fun d => !d.outl) (expTag x 3) (aReg s0 i o.aDX) 0 o.nb 0 o.k o.k t s1 = ((s2, none), dx) →
    localFault s0 i (aReg s0 i o.aW) (nrb * ng * 32 * grainBytes dw.fmt) 128 t = none →
    localFault s0 i (aReg s0 i o.aX) ((o.nb - 1) * (32 * o.xstride) + ng * grainBytes dx.fmt) 32 t = none →
    openRec s2 i o.carried (aReg s0 i o.aRec) t = (s3, none) → anchor = passAnchor s3 i o.carried o.anchor (aReg s0 i o.aRec) t →
    c = (if fmtWide dw.fmt || fmtWide dx.fmt then 4 else 1) →
    n = (if fmtWide dw.fmt || fmtWide dx.fmt then o.k else ng * (if dw.zpmode != 0 || dx.zpmode != 0 then 2 else 1)) →
    laneFault s3 i.core o.clear anchor n t o.e0 (nrb * o.nb) = none →
    (∀ l, (getCore s0 i.core).svLast = some l → l < t + transit s0.build 0x11) →
    fs = feeds ng nrb o.nb → m = ⟨i, o, x, dw, dx, aReg s0 i o.aW, aReg s0 i o.aX, ng, c, t, anchor⟩ →
    fs.zipIdx.foldl (feed m) (modCore s3 i.core (fun y => { y with svLast := some (t + transit s0.build 0x11 + fs.length * c - 1) }), none)
      = (s4, none) →
    late s0 i.strm (t + transit s0.build 0x11 + (fs.length - 1) * c + (c - 1) + transit s0.build 0x12 + transit s0.build 0x13) = false →
    exec (.mvx i o x) s = .next (completed i s0 i.fin s4
      (t + transit s0.build 0x11 + (fs.length - 1) * c + (c - 1) + transit s0.build 0x12 + transit s0.build 0x13))
    ∧ (∀ rb b e v r, rb < nrb → b < o.nb → e = o.e0 + rb * o.nb + b → v = entNow (getEntry s0 i.core lanesBank e) →
        (∀ y ∈ (getEntry s0 i.core lanesBank e).evs,
          y.1 ≤ t + transit s0.build 0x11 + (c - 1) + transit s0.build 0x12 + transit s0.build 0x13) →
        r = entNow (getEntry s4 i.core lanesBank e) →
        r.live = true ∧ r.anchor = anchor ∧ r.terms = (if o.clear then 0 else v.terms) + n
        ∧ ∀ l, l < 32 → colOf r l = (addTerms anchor (if o.clear then zeroAcc else colOf v l) ((List.range ng).flatMap (fun g =>
            pairTerms (laneRow ((loadLanes s0 m rb g (t + transit s0.build 0x10 + c * ((rb * ng + g) * o.nb))).getD l noLane) g)
              (loadGrains dx (reader s0 i.core t) (reader s0 i.core (t + transit s0.build 0x10 + c * ((rb * ng + g) * o.nb + b)))
                (aReg s0 i o.aX) (32 * o.xstride) b o.k g (g + 1)) g (g + 1) o.k))).1)
    ∧ (getCore s4 i.core).svLast = some (t + transit s0.build 0x11 + fs.length * c - 1)

/-! ### Glaze and slots (chapters 03, 08, 14) -/

/-- The element-wise Glaze instructions (R207 to R209): with Glaze formats, addresses in order and no row read or written faulting in its cycle, each
completes after its last 64 elements, at the latency of its Transit Table entry: VADD and VMUL, VFMA, VMAX, VEXP2, VLOG2, VRSQRT and VRECIP, VTANH,
VSIG. The state is what reading, computing and writing the elements, 64 a cycle from GZ_RA after the issue, leads to. A source field that the
instruction does not use must be zero (R188, R207). R208, R209: the 64 elements of one cycle: where no source read faults and the destination's rows are ON
and no write meets a claim moved by a hold, a guarded read or the guard window, each destination element reads in the cycle after the write as the
function of the source elements as read, converted to the destination format. -/
def Obligations.GlazeElementwiseWritesItsElements : Prop :=
  (∀ (i : Iss) (o : GzOps) (x : Ext) (s s0 s1 : State) (t id nsrc : Nat) (fn : List Nat → Nat) (c : Instr),
      (c, nsrc, id, fn) ∈ ([(.vadd i o x, 2, 0x41, fn2 vadd32), (.vmul i o x, 2, 0x41, fn2 vmul32), (.vfma i o x, 3, 0x42, fn3 vfma32),
        (.vmax i o x, 2, 0x43, fn2 vmax32), (.vexp2 i o x, 1, 0x49, fn1 vexp2), (.vlog2 i o x, 1, 0x4A, fn1 vlog2),
        (.vrsqrt i o x, 1, 0x4B, fn1 vrsqrt), (.vrecip i o x, 1, 0x4B, fn1 vrecip), (.vtanh i o x, 1, 0x4D, fn1 vtanh),
        (.vsig i o x, 1, 0x4C, fn1 vsig)] : List (Instr × Nat × Nat × (List Nat → Nat))) →
      issuePoint i x.cond s = some (t, s0) → i.strm = .glaze → gzUnused o nsrc = false → fmtGlaze o.sfmt = true → fmtGlaze o.dfmt = true →
      gzAddrs s0 i o (([aReg s0 i o.a1, aReg s0 i o.a2, aReg s0 i o.a3].take nsrc).zipIdx) (aReg s0 i o.aDst) t = none →
      (List.range ((o.n + 63) / 64)).foldl (gzChunk i o x (t + transit s0.build 0x40) (transit s0.build id) (aReg s0 i o.aDst)
        (([aReg s0 i o.a1, aReg s0 i o.a2, aReg s0 i o.a3].take nsrc).zipIdx) fn) (issued i t s0, none) = (s1, none) →
      late s0 i.strm (t + transit s0.build 0x40 + (o.n - 1) / 64 + transit s0.build id) = false →
      exec c s = .next (completed i s0 i.fin (signalAt s1 i x.sig (t + transit s0.build 0x40 + (o.n - 1) / 64 + transit s0.build id))
        (t + transit s0.build 0x40 + (o.n - 1) / 64 + transit s0.build id)))
  ∧ (∀ (i : Iss) (o : GzOps) (x : Ext) (t0 lat dst j m : Nat) (srcs : List (Nat × Nat)) (fn : List Nat → Nat) (s s1 : State),
      m = min 64 (o.n - 64 * j) → 64 * j < o.n → fmtGlaze o.sfmt = true → fmtGlaze o.dfmt = true → dst % 32 = 0 →
      doReadsBy i.core i.strm (gzReads x (64 * j * (fmtBits o.sfmt / 8)) (granSpan o.sfmt m) (t0 + j) srcs) s = (s1, none) →
      (∀ a, dst ≤ a → a < dst + granSpan o.dfmt o.n → localOk s.build a 1 = true ∧ bankAt s i.core a = .on) →
      (∀ a, dst ≤ a → a < dst + granSpan o.dfmt o.n → claimClash s (mkClaim s i.core i.strm a (t0 + j + lat) true) = false
        ∧ (guarded s i.core a = true → t0 + j + lat ∉ (getRow s (rowNo i.core a)).rds)) → 0 < lat →
      late s i.strm (t0 + j + lat) = false → usesOrdered s = true →
      ∃ u, gzChunk i o x t0 lat dst srcs fn (s, none) j = (u, none)
        ∧ ∀ e, e < m → readSpan u i.core (dst + (64 * j + e) * (fmtBits o.dfmt / 8)) (fmtBits o.dfmt / 8) (t0 + j + lat + 1)
            = natLe (fmtBits o.dfmt / 8) (fromFP32 o.dfmt (fn (srcs.map (fun a =>
                ((elemCodes o.sfmt m (readSpan s i.core (a.1 + 64 * j * (fmtBits o.sfmt / 8)) (spanBytes o.sfmt m) (t0 + j))).map
                  (toFP32 o.sfmt)).getD e 0)))))

/-- VSUMX (R65, R66, R210): where the register has room for the terms and the source can be read, ADD adds its elements to the wide-sum register; where no
earlier VSUMX still updates it, READ writes it as one FP32 element, SAVE as the 64 bytes of Table 8.12, and MERGE adds a saved register that is in form at the
issue, as it is read GZ_RA later; CLEAR clears before ADD and MERGE and after READ and SAVE. A register saved and parsed is the register. -/
def Obligations.VsumxKeepsExactSums : Prop :=
  (∀ (i : Iss) (o : VsOps) (x : Ext) (s s0 : State) (t ra done : Nat) (m : Nat → Nat), issuePoint i x.cond s = some (t, s0) → i.strm = .glaze →
    fmtGlaze o.sfmt = true → localFault s0 i (aReg s0 i o.aSrc) (granSpan o.sfmt o.n) 32 t = none →
    (if o.clear then zeroWs else getWs s0 i.core o.ws).terms + o.n ≤ wsLimit → ra = t + transit s0.build 0x40 →
    (∀ j, m j = min 64 (o.n - 64 * j)) →
    (∀ j, 64 * j < o.n → canRead s0 i.core .glaze (expTag x 0)
      (spanReads (aReg s0 i o.aSrc + 64 * j * (fmtBits o.sfmt / 8)) (granSpan o.sfmt (m j)) (ra + j))) →
    done = ra + (o.n - 1) / 64 + transit s0.build 0x46 → late s0 i.strm done = false →
    ∃ u, exec (.vsumxAdd i o x) s = .next u
      ∧ getWs u i.core o.ws = { ((List.range ((o.n + 63) / 64)).flatMap (fun j => (elemCodes o.sfmt (m j)
          (readSpan s0 i.core (aReg s0 i o.aSrc + 64 * j * (fmtBits o.sfmt / 8)) (spanBytes o.sfmt (m j)) (ra + j))).map (toFP32 o.sfmt))).foldl
            wsAdd (if o.clear then zeroWs else getWs s0 i.core o.ws) with upd := done }
      ∧ (∀ n, n ≠ o.ws → getWs u i.core n = getWs s0 i.core n) ∧ regsKept i s0 u [] ∧ u.spad = s0.spad ∧ u.stk = s0.stk)
  ∧ (∀ (i : Iss) (o : VsOps) (x : Ext) (s s0 : State) (t done : Nat), issuePoint i x.cond s = some (t, s0) → i.strm = .glaze →
    o.n = 1 → o.dfmt = 12 → localFault s0 i (aReg s0 i o.aDst) 32 32 t = none → (getWs s0 i.core o.ws).upd ≤ t → usesOrdered s0 = true →
    done = t + transit s0.build 0x47 → canWrite s0 i.core .glaze (aReg s0 i o.aDst) 32 done →
    ∃ u, exec (.vsumxRead i o x) s = .next u ∧ getWs u i.core o.ws = (if o.clear then zeroWs else getWs s0 i.core o.ws)
      ∧ readSpan u i.core (aReg s0 i o.aDst) 32 (done + 1) = natLe 4 (wsRead (getWs s0 i.core o.ws)) ++ List.replicate 28 0
      ∧ (∀ n, n ≠ o.ws → getWs u i.core n = getWs s0 i.core n) ∧ regsKept i s0 u [] ∧ u.spad = s0.spad ∧ u.stk = s0.stk)
  ∧ (∀ (i : Iss) (o : VsOps) (x : Ext) (s s0 : State) (t done : Nat), issuePoint i x.cond s = some (t, s0) → i.strm = .glaze →
    o.n = 1 → localFault s0 i (aReg s0 i o.aDst) 64 32 t = none → (getWs s0 i.core o.ws).upd ≤ t → usesOrdered s0 = true →
    done = t + transit s0.build 0x48 → canWrite s0 i.core .glaze (aReg s0 i o.aDst) 64 done →
    ∃ u, exec (.vsumxSave i o x) s = .next u ∧ getWs u i.core o.ws = (if o.clear then zeroWs else getWs s0 i.core o.ws)
      ∧ readSpan u i.core (aReg s0 i o.aDst) 64 (done + 1) = wsSave (getWs s0 i.core o.ws)
      ∧ (∀ n, n ≠ o.ws → getWs u i.core n = getWs s0 i.core n) ∧ regsKept i s0 u [] ∧ u.spad = s0.spad ∧ u.stk = s0.stk)
  ∧ (∀ (i : Iss) (o : VsOps) (x : Ext) (s s0 : State) (t done : Nat) (w b : WSum), issuePoint i x.cond s = some (t, s0) →
    i.strm = .glaze → o.n = 1 → localFault s0 i (aReg s0 i o.aSrc) 64 32 t = none → (getWs s0 i.core o.ws).upd ≤ t →
    w = (if o.clear then zeroWs else getWs s0 i.core o.ws) → mergeBad w (readSpan s0 i.core (aReg s0 i o.aSrc) 64 t) = none →
    canRead s0 i.core .glaze (expTag x 0) (spanReads (aReg s0 i o.aSrc) 64 (t + transit s0.build 0x40)) →
    b = wsFields (readSpan s0 i.core (aReg s0 i o.aSrc) 64 (t + transit s0.build 0x40)) →
    done = t + transit s0.build 0x40 + transit s0.build 0x46 → late s0 i.strm done = false →
    ∃ u, exec (.vsumxMerge i o x) s = .next u ∧ getWs u i.core o.ws = { wsMerge w b with upd := done }
      ∧ (∀ n, n ≠ o.ws → getWs u i.core n = getWs s0 i.core n) ∧ regsKept i s0 u [] ∧ u.spad = s0.spad ∧ u.stk = s0.stk)
  ∧ (∀ w : WSum, w.terms ≤ 2 ^ 42 → wsParse (wsSave w) = some { w with upd := 0 }
      ∧ wsFields (wsSave w) = { w with upd := 0 })

/-- VQUANT and VDEQ (R74, R80 to R84, R211, R435): with the descriptor, formats, group sizes, zero points and addresses in order and no batch of groups, or 64
elements, faulting, each completes after its last. The second clause of each names what is written: with no tag check, no guarded range and no count that faults,
it completes where its source, its scales and its zero points can be read and its destination can be written in their cycles, and rows it does not
write keep their contents. Where the ranges lie apart, in the cycle after the write of a batch VQUANT's output reads as the codes of its groups, packed, and its scales as
theirs: the groups quantised (quantGroup) from the source elements as read, each with the zero point of its channel and the draw of each element; and each element
of a VDEQ reads as its code dequantised with its zero point and scale, converted to the destination format. -/
def Obligations.QuantiseAndDequantise : Prop :=
  (∀ (i : Iss) (o : VqOps) (x : Ext) (d : QDesc) (s s0 s1 s2 : State) (t p c0 cn size done src dst sw fb : Nat), issuePoint i x.cond s = some (t, s0) →
    i.strm = .glaze → p = (pReg s0 i o.p).toNat → src = aReg s0 i o.aSrc → dst = aReg s0 i o.aDst →
    gzDesc i (expTag x 1) (aReg s0 i o.aDesc) t (issued i t s0) = ((s1, none), d) → vqRole d o.mx o.sfmt = true →
    d.gsize ≠ 0 → o.n % d.group = 0 → p % d.group = 0 → localFault s0 i src (granSpan o.sfmt o.n) 32 t = none →
    localFault s0 i dst (granSpan d.fmt o.n) 32 t = none → c0 = gzChan d p → cn = gzChan d (p + o.n - 1) + 1 - c0 →
    doReads i.core i.strm (expTag x 1) (if d.zpmode == 2 then spanReads (d.zbase + 2 * c0) (2 * cn) t else []) s1 = (s2, none) →
    (d.zpmode = 2 → ∀ c, c < cn → d.zeroBad (reader s2 i.core t) (c0 + c) = false) → size = max 64 d.group →
    done = t + transit s0.build 0x40 + (o.n - 1) / 64 + transit s0.build 0x45 → late s0 i.strm done = false →
    sw = (if d.sbf16 then 2 else 1) → fb = fmtBits o.sfmt / 8 →
    (∀ s3 s4, (List.range ((o.n + size - 1) / size)).foldl
        (vqBatch ⟨i, o, x, d, d.codebook (reader s2 i.core t), p, src, dst, sdAt (getCore s2 i.core) o.seed t, t⟩ size) (s2, none) = (s3, none) →
      endCheck s3 (locOf s3 i) done = (s4, none) →
      exec (.vquant i o x) s = .next (completed i s0 i.fin (signalAt s4 i x.sig done) done))
    ∧ (x.chk = none → (getCore s0 i.core).guards = [] →
      (∀ g c, (getPart s0 (partOf s0 i.core)).seg = some g → countsFault g.prec c = false) →
      (∀ e0 n, e0 % size = 0 → e0 < o.n → n = min size (o.n - e0) →
        (∀ j, 64 * j < n → canRead s0 i.core .glaze none (spanReads (src + (e0 + 64 * j) * fb)
          (granSpan o.sfmt (min 64 (n - 64 * j))) (t + transit s0.build 0x40 + (e0 + 64 * j) / 64)))
        ∧ canWrite s0 i.core .glaze (dst + spanBytes d.fmt e0) (granSpan d.fmt n)
            (t + transit s0.build 0x40 + (e0 + n - 1) / 64 + transit s0.build 0x45)
        ∧ canWrite s0 i.core .glaze (gzScaleAddr d (p + e0)) (n / d.group * sw)
            (t + transit s0.build 0x40 + (e0 + n - 1) / 64 + transit s0.build 0x45)) →
      ∃ u, exec (.vquant i o x) s = .next u
        ∧ (∀ r, (∀ a, dst ≤ a → a < dst + granSpan d.fmt o.n → rowNo i.core a ≠ r) →
            (∀ a, gzScaleAddr d p ≤ a → a < gzScaleAddr d p + o.n / d.group * sw → rowNo i.core a ≠ r) →
            (getRow u r).uses = (getRow s0 r).uses)
        ∧ (usesOrdered s0 = true → apart dst (granSpan d.fmt o.n) src (granSpan o.sfmt o.n) →
            apart (gzScaleAddr d p) (o.n / d.group * sw) src (granSpan o.sfmt o.n) →
            apart (gzScaleAddr d p) (o.n / d.group * sw) dst (granSpan d.fmt o.n) →
            ∀ (e0 n w : Nat) (el : Nat → Nat) (gr : Nat → QGroup), e0 % size = 0 → e0 < o.n → n = min size (o.n - e0) →
              w = t + transit s0.build 0x40 + (e0 + n - 1) / 64 + transit s0.build 0x45 →
              (∀ e, el e = toFP32 o.sfmt (elemAt o.sfmt (leNat (readSpan s0 i.core (src + e / 64 * 64 * fb)
                (spanBytes o.sfmt (min 64 (o.n - e / 64 * 64))) (t + transit s0.build 0x40 + e / 64))) (e % 64))) →
              (∀ k, gr k = quantGroup o.mx d.sbf16 d.fmt (d.codebook (reader s0 i.core t))
                (d.zero (reader s0 i.core t) (gzChan d (p + e0 + k * d.group)))
                (fun j => drawRnd o.stoch (sdAt (getCore s0 i.core) o.seed t) d.tid (p + (e0 + k * d.group) + j) 1)
                ((List.range d.group).map (fun j => el (e0 + k * d.group + j)))) →
              readSpan u i.core (dst + spanBytes d.fmt e0) (spanBytes d.fmt n) (w + 1)
                = packCodes d.fmt ((List.range (n / d.group)).flatMap (fun k => (gr k).codes))
              ∧ readSpan u i.core (gzScaleAddr d (p + e0)) (n / d.group * sw) (w + 1)
                = (List.range (n / d.group)).flatMap (fun k => natLe sw (gr k).scale))
        ∧ u.spad = s0.spad ∧ u.stk = s0.stk ∧ regsKept i s0 u []))
  ∧ (∀ (i : Iss) (o : GzOps) (x : Ext) (d : QDesc) (s s0 s1 : State) (t ra done src dst fb : Nat), issuePoint i x.cond s = some (t, s0) →
    i.strm = .glaze → gzUnused o 2 = false → deqRole o = true → src = aReg s0 i o.a1 → dst = aReg s0 i o.aDst →
    gzDesc i (expTag x 1) (aReg s0 i o.a2) t (issued i t s0) = ((s1, none), d) → deqZeroBad d (reader s1 i.core t) o.n = false →
    localFault s0 i src (granSpan d.fmt o.n) 32 t = none → localFault s0 i dst (granSpan o.dfmt o.n) 32 t = none →
    ra = t + transit s0.build 0x40 → done = ra + (o.n - 1) / 64 + transit s0.build 0x44 → late s0 i.strm done = false → fb = fmtBits o.dfmt / 8 →
    (∀ s2, (List.range ((o.n + 63) / 64)).foldl
        (deqChunk i o x d (d.codebook (reader s1 i.core t)) src dst ra (transit s0.build 0x44)) (s1, none) = (s2, none) →
      exec (.vdeq i o x) s = .next (completed i s0 i.fin (signalAt s2 i x.sig done) done))
    ∧ (x.chk = none → (getCore s0 i.core).guards = [] →
      (∀ j m, 64 * j < o.n → m = min 64 (o.n - 64 * j) →
        canRead s0 i.core .glaze none (spanReads (src + spanBytes d.fmt (64 * j)) (spanBytes d.fmt m) (ra + j) ++ deqReads d (64 * j) m (ra + j))
        ∧ canWrite s0 i.core .glaze (dst + 64 * j * fb) (granSpan o.dfmt m) (ra + j + transit s0.build 0x44)) →
      ∃ u, exec (.vdeq i o x) s = .next u
        ∧ (∀ r, (∀ a, dst ≤ a → a < dst + granSpan o.dfmt o.n → rowNo i.core a ≠ r) → (getRow u r).uses = (getRow s0 r).uses)
        ∧ (usesOrdered s0 = true → apart dst (granSpan o.dfmt o.n) src (granSpan d.fmt o.n) →
            (d.gsize ≠ 0 → apart dst (granSpan o.dfmt o.n) (gzScaleAddr d 0) (gzScaleAddr d (o.n - 1) + 2 - gzScaleAddr d 0)) →
            (d.zpmode = 2 → apart dst (granSpan o.dfmt o.n) d.zbase (2 * (gzChan d (o.n - 1) + 1))) →
            ∀ (e j : Nat) (rd : Nat → Nat → List Byte), e < o.n → j = e / 64 → rd = reader s0 i.core (ra + deqCycle d e) →
              readSpan u i.core (dst + e * fb) fb (ra + j + transit s0.build 0x44 + 1)
                = natLe fb (fromFP32 o.dfmt (dequant (decElem d.fmt (d.codebook (reader s0 i.core t)) (elemAt d.fmt (leNat
                    (readSpan s0 i.core (src + spanBytes d.fmt (64 * j)) (spanBytes d.fmt (min 64 (o.n - 64 * j))) (ra + j))) (e % 64)))
                  (d.zero rd (gzChan d e)) (deqScale d rd e))))
        ∧ u.spad = s0.spad ∧ u.stk = s0.stk ∧ regsKept i s0 u []))

/-- XOP (R212, R342 to R347, R349): on a slot that serves this core with a code of its range, its inputs read and its outputs written or noted, each input Granule is
presented to the slot with the code in its slot cycle, the slot takes its next input after this one's, and where the last output falls in this Beat the instruction
completes with it. An output that falls in this Beat reads, in the cycle after its write, as what the slot gave, at the destination from base + 32j on; a later one is noted
with its place, Beat and cycle. One that falls due is written there, and reads as what the slot gave. -/
def Obligations.XopRunsOnItsSlot : Prop :=
  (∀ (i : Iss) (o : XopOps) (x : Ext) (y : Ident) (s s0 s1 s2 : State) (t r k0 src dst : Nat) (bs : Nat → Option (List Byte)),
    issuePoint i x.cond s = some (t, s0) →
    i.strm = .glaze → slotOpen s0 i o.slot = true → (getSlt s0 o.slot).ident = some y → r = max 1 y.ratio →
    k0 = firstSlotCycle s0.build r (cyc s0 t) ((getSlt s0 o.slot).inTo - s0.beat.start) → y.lo ≤ o.code → o.code ≤ y.hi → 1 ≤ o.n →
    src = aReg s0 i o.aSrc → dst = aReg s0 i o.aDst → (∀ j, bs j = (o.outs.getD j none).map (fun g => (g ++ List.replicate 32 0).take 32)) →
    localFault s0 i src (32 * o.n) 32 t = none → localFault s0 i dst (32 * o.n) 32 t = none →
    xopOverrun s0.build r k0 y.latency o.n = none →
    xopReads i o (expTag x 0) src r k0 (List.range o.n) (issued i t s0) = (s1, none) →
    xopOuts (locOf s0 i) o x dst r (k0 + y.latency) (List.range o.n)
      (modSlt s1 o.slot (fun z => { z with inTo := s0.beat.start + r * (k0 + o.n) })) = (s2, none) →
    ∃ u, exec (.xop i o x) s = .next u
      ∧ (getSlt u o.slot).inTo = s0.beat.start + r * (k0 + o.n)
      ∧ u.posts = s0.posts ++ (List.range o.n).map (fun j => Post.slotIn o.slot (s0.beat.start + r * (k0 + j)) o.code (j == 0)
          (readSpan s0 i.core (src + 32 * j) 32 (s0.beat.start + r * (k0 + j) - transit s0.build 0x4E)))
      ∧ u.xouts = s0.xouts ++ ((List.range o.n).filter (fun j => (outPoint s0.build r (k0 + y.latency + j)).1 != 0)).map (fun j =>
          (⟨locOf s0 i, o.slot, j, s0.beat.b + BitVec.ofNat 64 (outPoint s0.build r (k0 + y.latency + j)).1,
            (outPoint s0.build r (k0 + y.latency + j)).2, dst + 32 * j, bs j, j + 1 == o.n, x.sig⟩ : XOut))
      ∧ (usesOrdered s0 = true → ∀ j, j < o.n → (outPoint s0.build r (k0 + y.latency + j)).1 = 0 →
          some (readSpan u i.core (dst + 32 * j) 32 (s0.beat.start + (outPoint s0.build r (k0 + y.latency + j)).2 + 1)) = bs j)
      ∧ u.rows = s2.rows ∧ u.spad = s0.spad)
  ∧ (∀ (x : XOut) (bs : List Byte) (g : Seg) (t : Nat) (s : State), runningSeg s (partOf s x.loc.iss.core) = some g → x.data = some bs →
    bs.length = 32 → x.local_ % 32 = 0 → t = s.beat.start + x.cyc → canWrite s x.loc.iss.core x.loc.iss.strm x.local_ 32 t →
    usesOrdered s = true →
    readSpan (dueOut s x) x.loc.iss.core x.local_ 32 (t + 1) = bs
    ∧ ∀ r, r ≠ rowNo x.loc.iss.core x.local_ → getRow (dueOut s x) r = getRow s r)

/-- R65, R66: the wide sum. Every element counts one term; a NaN sets N, +Inf P and −Inf M; a finite element of value q × 2^f, f at least −149, adds
q × 2^(f + 149). The register after any elements does not depend on their order. Read as FP32, N or P with M gives 0x7FC0_0000, P alone +Inf, M alone
−Inf, and an exact zero +0. -/
def Obligations.WideSumsAreExactAndOrderFree : Prop :=
  (∀ (w : WSum) (x : Nat), (wsAdd w x).terms = w.terms + 1
    ∧ (wsAdd w x).n = (w.n || decide (decFP fp32 x = .nan)) ∧ (wsAdd w x).p = (w.p || decide (decFP fp32 x = .inf false))
    ∧ (wsAdd w x).m = (w.m || decide (decFP fp32 x = .inf true))
    ∧ (∀ q f, decFP fp32 x = .fin q f → (wsAdd w x).v = w.v + BitVec.ofInt 320 (q * 2 ^ (f + 149).toNat))
    ∧ ((∀ q f, decFP fp32 x ≠ .fin q f) → (wsAdd w x).v = w.v))
  ∧ (∀ (w : WSum) (xs ys : List Nat), xs.Perm ys → xs.foldl wsAdd w = ys.foldl wsAdd w)
  ∧ (∀ w : WSum, ((w.n = true ∨ (w.p = true ∧ w.m = true)) → wsRead w = 0x7FC00000)
    ∧ (w.n = false → w.p = true → w.m = false → wsRead w = 0x7F800000)
    ∧ (w.n = false → w.p = false → w.m = true → wsRead w = 0xFF800000)
    ∧ (w.n = false → w.p = false → w.m = false → w.v = 0 → wsRead w = 0))

/-- Tables 2.9 and 8.13 (R64, R213): the special operands. A NaN makes a NaN of any result; opposite infinities and 0 × Inf too; VADD, VMUL and
VMAX do not depend on the order of their operands where neither is a NaN; and the functions take the listed values at ±Inf and ±0. -/
def Obligations.GlazeSpecialOperands : Prop :=
  (∀ x y z : Nat, decFP fp32 x = .nan →
    vadd32 x y = 0x7FC00000 ∧ vadd32 y x = 0x7FC00000 ∧ vmul32 x y = 0x7FC00000 ∧ vmul32 y x = 0x7FC00000 ∧ vmax32 x y = 0x7FC00000
    ∧ vmax32 y x = 0x7FC00000 ∧ vfma32 x y z = 0x7FC00000 ∧ vfma32 y x z = 0x7FC00000 ∧ vfma32 y z x = 0x7FC00000
    ∧ vexp2 x = 0x7FC00000 ∧ vlog2 x = 0x7FC00000 ∧ vrsqrt x = 0x7FC00000 ∧ vrecip x = 0x7FC00000 ∧ vtanh x = 0x7FC00000
    ∧ vsig x = 0x7FC00000)
  ∧ (∀ x y : Nat, x < 2 ^ 32 → y < 2 ^ 32 → vadd32 x y = vadd32 y x ∧ vmul32 x y = vmul32 y x)
  ∧ vadd32 0x7F800000 0xFF800000 = 0x7FC00000 ∧ vadd32 0x00000000 0x80000000 = 0 ∧ vadd32 0x80000000 0x80000000 = 0x80000000
  ∧ vmul32 0x80000000 0x7F800000 = 0x7FC00000 ∧ vmul32 0xFF800000 0x3F800000 = 0xFF800000 ∧ vmax32 0x80000000 0x00000000 = 0
  ∧ vfma32 0x00000000 0x7F800000 0x3F800000 = 0x7FC00000 ∧ vfma32 0x7F800000 0x3F800000 0xFF800000 = 0x7FC00000
  ∧ vexp2 0x7F800000 = 0x7F800000 ∧ vexp2 0xFF800000 = 0 ∧ vlog2 0x7F800000 = 0x7F800000 ∧ vlog2 0xFF800000 = 0x7FC00000
  ∧ vlog2 0x00000000 = 0xFF800000 ∧ vlog2 0x80000000 = 0xFF800000 ∧ vrsqrt 0x7F800000 = 0 ∧ vrsqrt 0xFF800000 = 0x7FC00000
  ∧ vrsqrt 0x00000000 = 0x7F800000 ∧ vrsqrt 0x80000000 = 0xFF800000 ∧ vrecip 0x7F800000 = 0 ∧ vrecip 0xFF800000 = 0x80000000
  ∧ vrecip 0x00000000 = 0x7F800000 ∧ vrecip 0x80000000 = 0xFF800000 ∧ vtanh 0x7F800000 = 0x3F800000 ∧ vtanh 0xFF800000 = 0xBF800000
  ∧ vtanh 0x00000000 = 0 ∧ vtanh 0x80000000 = 0x80000000 ∧ vsig 0x7F800000 = 0x3F800000 ∧ vsig 0xFF800000 = 0

/-! ### Commands of the host (chapters 10, 11) -/

/-- SIGNAL, WAIT and PUBLISH (R254, R257, R267, R274, R279). A fetched SIGNAL waits for its retirement, and a PUBLISH is met in its Beat. A WAIT at the
head of its queue takes a ticket of its live level Event: below its threshold it stands registered there, and at it or above it is over with OK. One that
is not at the head, or whose queue stands at a failed command, waits, and registers in the same way when its row comes again at the head (log 63). One whose
Event's record cannot be read fails with HOST_ABORT (R263). -/
def Obligations.SignalWaitPublishAreFetched : Prop :=
  (∀ (q : Nat) (h : CmdHdr) (x : QSlot) (s : State), flagsBad h 0 = false →
    (fetches s q h .signal x → h.type = 4 → ∃ u, exec (.signal q h) s = .next u ∧ newCmd s u q x .signal .queued ∧ u.spad = s.spad ∧ u.stk = s.stk ∧ u.cores = s.cores
      ∧ u.parts = s.parts ∧ u.ext = s.ext ∧ u.flt = s.flt)
    ∧ (fetches s q h .publish x → h.type = 6 → ∃ u, exec (.publish q h) s = .next u ∧ newCmd s u q x .publish (.met s.beat.b) ∧ u.spad = s.spad ∧ u.stk = s.stk
      ∧ u.cores = s.cores ∧ u.parts = s.parts ∧ u.ext = s.ext ∧ u.flt = s.flt))
  ∧ (∀ (q : Nat) (h : CmdHdr) (evt thresh : W32) (er : Option EvtRec) (x : QSlot) (e : ResEvt) (s : State),
    fetches s q h (.wait evt thresh) x → h.type = 5 → flagsBad h 0 = false → x.cmds = [] → x.halted = false → getEvt s (evIdx evt) = some e → evtMatch evt e.er = true → e.er.st = .live →
    e.er.counted = false → (∀ w ∈ e.waiters, w.q ≠ q) →
    ∃ u, exec (.wait q h evt thresh er) s = .next u
      ∧ (reached (e.er.value.truncate 32) thresh = false → newCmd s u q x (.wait evt thresh) .running
          ∧ ∃ f, getEvt u (evIdx evt) = some f ∧ (⟨q, thresh, e.er.ticket⟩ : Waiter) ∈ f.waiters ∧ f.er.ticket = e.er.ticket + 1)
      ∧ (reached (e.er.value.truncate 32) thresh = true → newCmd s u q x (.wait evt thresh) (.ended 0 .none)
          ∧ ∃ f, getEvt u (evIdx evt) = some f ∧ f.er.ticket = e.er.ticket + 1 ∧ ∀ w ∈ f.waiters, w.q ≠ q)
      ∧ u.spad = s.spad ∧ u.stk = s.stk ∧ u.cores = s.cores ∧ u.parts = s.parts)
  ∧ (∀ (q : Nat) (h : CmdHdr) (evt thresh : W32) (er : Option EvtRec) (x : QSlot) (e : ResEvt) (s : State),
    fetches s q h (.wait evt thresh) x → h.type = 5 → flagsBad h 0 = false → (x.cmds ≠ [] ∨ x.halted = true) → headWait s q h evt thresh = none → getEvt s (evIdx evt) = some e → evtMatch evt e.er = true →
    ∃ u, exec (.wait q h evt thresh er) s = .next u ∧ newCmd s u q x (.wait evt thresh) .queued ∧ getEvt u (evIdx evt) = some e
      ∧ u.spad = s.spad ∧ u.stk = s.stk ∧ u.cores = s.cores ∧ u.parts = s.parts ∧ u.flt = s.flt)
  ∧ (∀ (q : Nat) (h : CmdHdr) (evt thresh : W32) (x : QSlot) (s : State), fetches s q h (.wait evt thresh) x → h.type = 5 → flagsBad h 0 = false →
    headWait s q h evt thresh = none → getEvt s (evIdx evt) = none →
    ∃ u d r, exec (.wait q h evt thresh none) s = .next u ∧ cmdAt u q x.qr.head = some d ∧ d.stage = .ended 1 (idxOf s (enterRec r s))
      ∧ r.code = FCode.hostAbort.code ∧ r.detail = (evField s (evIdx evt) 0).toNat ∧ u.flt = (enterRec r s).flt)
  ∧ (∀ (q : Nat) (h : CmdHdr) (evt thresh : W32) (er : Option EvtRec) (c : Cmd) (e : ResEvt) (s : State), slotsWf s = true →
    headWait s q h evt thresh = some c → getEvt s (evIdx evt) = some e → evtMatch evt e.er = true → e.er.st = .live →
    e.er.counted = false → (∀ w ∈ e.waiters, w.q ≠ q) → reached (e.er.value.truncate 32) thresh = false →
    ∃ u d f, exec (.wait q h evt thresh er) s = .next u ∧ cmdAt u q c.seq = some d ∧ d.stage = .running
      ∧ getEvt u (evIdx evt) = some f ∧ (⟨q, thresh, e.er.ticket⟩ : Waiter) ∈ f.waiters ∧ f.er.ticket = e.er.ticket + 1)

/-- RUN, COPY and FILL (R5, R263, R267, R274, R276, R290, R295). A RUN that passes its checks joins its queue with its Segments still to start, and a COPY or FILL
waits for its own. At the boundary that starts it the built-in Segment runs: a FILL, and a COPY from host memory, hand their bytes to the Store engine at once, a
COPY from an Extent asks for the Granules of its source in order and hands their bytes on when the last has come. Bytes for an Extent are Granule writes in the stack
slots of the partition's first core (log 16), bytes for host memory are written with Relaxed Ordering for the queue's function. -/
def Obligations.RunCopyFillAreTaken : Prop :=
  (∀ (q : Nat) (h : CmdHdr) (b : RunBody) (args prog arch : HostCpl) (bp : Baked) (x : QSlot) (ab : ArgBlk) (pr : Prog) (len : Nat)
    (s : State), fetches s q h (.run b) x → h.type = 1 → argSize args = true → cplSize arch 512 = true → argBlk s args = some ab →
    pr = progOf s x.part h b (hostGot s prog) bp → tabsFit pr.hdr bp = true → runForm h b (some ab) = false → (getPart s x.part).cores ≠ [] →
    goneAtFetch s ab = false →
    (if h.tflags.getLsbD 2 then ∃ img, hostGot s prog = some img ∧ len = img.length
      else ∃ e, lookup s (progHandle b) x.part s.ext.epoch 0 256 false = .ok e ∧ len = e.size
        ∧ ∀ g ∈ stkSpan e.addr (min e.size pr.hdr.length), (smGet noErr s.stk.errs g).n ≠ 2 ∧ (smGet noErr s.stk.errs g).n ≠ 3) →
    (h.tflags.getLsbD 5 = true → (hostGot (if h.tflags.getLsbD 2 then journal s (.hostBytes pr.img) else s) arch).isSome = true) →
    bakedReason s x.part len (progBytes s x.part (h.tflags.getLsbD 2) pr.img b) pr.hdr bp = 0 →
    (bp.codebooks ++ bp.outliers ++ bp.anchors).any (rangeBad s ab bp) = false → residencyOk s x.part ab bp.res = true →
    inputFault s x.part ab bp = none →
    ∃ u, exec (.run q h b ⟨args, prog⟩ bp arch) s = .next u
      ∧ newCmd s u q x (.run b ab pr) (if bp.segs = [] then .drain else .queued)
      ∧ u.spad = s.spad ∧ u.stk = s.stk ∧ u.cores = s.cores ∧ u.parts = s.parts)
  ∧ (∀ (q : Nat) (h : CmdHdr) (x : QSlot) (s : State), flagsBad h 0x10 = false → (getPart s x.part).cores ≠ [] →
    (∀ b : FillBody, fetches s q h (.fill b) x → h.type = 3 → b.length.toNat % 32 = 0 → b.dstoff.toNat % 32 = 0 →
      ∃ u, exec (.fill q h b) s = .next u ∧ newCmd s u q x (.fill b) .queued ∧ u.spad = s.spad ∧ u.stk = s.stk ∧ u.cores = s.cores
        ∧ u.parts = s.parts ∧ u.ext = s.ext ∧ u.flt = s.flt)
    ∧ (∀ b : CopyBody, fetches s q h (.copy b) x → h.type = 2 → b.length.toNat % 32 = 0 → b.srcoff.toNat % 32 = 0 → b.dstoff.toNat % 32 = 0 →
      (b.srch = 0 → cplSize b.hostSrc b.length.toNat = true) →
      ∃ u, exec (.copy q h b) s = .next u ∧ newCmd s u q x (.copy b) .queued ∧ u.spad = s.spad ∧ u.stk = s.stk ∧ u.cores = s.cores
        ∧ u.parts = s.parts ∧ u.ext = s.ext ∧ u.flt = s.flt))
  ∧ (∀ (p q : Nat) (prios : List (Nat × Nat)) (c : Cmd) (s s0 : State), s0 = prios.foldl setPriority s → slotsWf s = true →
    atEdge s = true → pickLaunch s0 p = some (q, c) → cmdAt s q c.seq = some c → missedAt s0 p = [] → (getPart s p).cores ≠ [] →
    (∀ (b : FillBody) (e : ExtEnt) (pl : Place), c.body = .fill b → placeOf s0 p b.dsth b.dstoff b.length.toNat true = (.ok e, pl) →
      ∃ u d g x, exec (.segmentStart ⟨p, prios⟩) s = .next u ∧ bulkRuns u p q c.seq d g x ∧ x.dst = pl ∧ x.done = true
        ∧ x.data = fillBytes b.pattern b.length.toNat ∧ handsOn s u p g x ∧ u.spad = s.spad ∧ u.cores = s.cores)
    ∧ (∀ (b : CopyBody) (e1 e2 : ExtEnt) (a : Nat) (dst : Place) (bs : List Byte), c.body = .copy b →
      placeOf s0 p b.srch b.srcoff b.length.toNat false = (.ok e1, .host a) →
      placeOf s0 p b.dsth b.dstoff b.length.toNat true = (.ok e2, dst) → hostGot s b.hostSrc = some bs →
      ∃ u d g x, exec (.segmentStart ⟨p, prios⟩) s = .next u ∧ bulkRuns u p q c.seq d g x ∧ x.dst = dst ∧ x.done = true ∧ x.data = bs
        ∧ handsOn s u p g x ∧ u.spad = s.spad ∧ u.cores = s.cores)
    ∧ (∀ (b : CopyBody) (e1 e2 : ExtEnt) (a k : Nat) (dst : Place), c.body = .copy b → 32 ≤ b.length.toNat →
      placeOf s0 p b.srch b.srcoff b.length.toNat false = (.ok e1, .stack a k) →
      placeOf s0 p b.dsth b.dstoff b.length.toNat true = (.ok e2, dst) →
      ∃ u d g x, exec (.segmentStart ⟨p, prios⟩) s = .next u ∧ bulkRuns u p q c.seq d g x ∧ x.dst = dst ∧ x.done = false
        ∧ x.need = b.length.toNat / 32 ∧ x.data.length = b.length.toNat
        ∧ u.stk = { s.stk with greqs := s.stk.greqs ++ readReqs (bulkCore s p) k a x.id false (b.length.toNat / 32) }
        ∧ u.spad = s.spad ∧ u.cores = s.cores))
  ∧ (∀ (p q : Nat) (seq : W32) (d : Cmd) (g : Seg) (x : Bulk) (r : GReq) (rest : List GReq) (e : SymErr) (s : State), slotsWf s = true →
    bulkRuns s p q seq d g x → x.done = false → takeFirst (fun r' => r'.g == r.g && r'.served) s.stk.greqs = (some r, rest) → reqLand s r = none →
    bulkPart s r = some p → (foundErr s r.g e).n = 0 →
    ∃ u g' x', exec (.stackReadData r.g e) s = .next u ∧ bulkRuns u p q seq d g' x' ∧ x'.data = splice x.data r.off r.data
      ∧ x'.need = x.need - 1 ∧ x'.dst = x.dst ∧ x'.id = x.id
      ∧ (x.need = 1 → x'.done = true ∧ handsOn { s with stk := { s.stk with greqs := rest } } u p g' x')
      ∧ (1 < x.need → x'.done = false ∧ u.stk = { s.stk with greqs := rest } ∧ u.posts = s.posts) ∧ u.spad = s.spad ∧ u.cores = s.cores)

/-- LOAD_SLOT and QUERY (R274, R275, R350, R376, R422, R423). Behind an unfinished WAIT both stay queued. Else a LOAD_SLOT of a privileged queue joins the
loader's list with its mask, and a QUERY writes at most LENGTH bytes of the capability block, the inventory record or its partition's quota report to DEST
for the queue's function (the twin writes none, R336), and is over with OK. While the MC is stopped an inventory QUERY waits (R410). -/
def Obligations.LoadSlotAndQuery : Prop :=
  (∀ (q : Nat) (h : CmdHdr) (b : LoadSlotBody) (x : QSlot) (s : State), fetches s q h (.loadSlot b) x → h.type = 7 → flagsBad h 0 = false →
    x.qr.pfq = true → b.mask ≠ 0 → (∀ k, b.mask.getLsbD k = true → k < s.build.nslot) → b.addr.toNat % 32 = 0 →
    (b.src = 1 ∧ b.handle = 0) ∨ b.src = 0 →
    (clearAhead x →
      ∃ u l, exec (.loadSlot q h b) s = .next u ∧ newCmd s u q x (.loadSlot b) .running ∧ u.loads = s.loads ++ [l]
        ∧ l.cmd = some (q, x.qr.head) ∧ (b.src = 1 → l.src = .host b.addr b.length.toNat)
        ∧ (b.src = 0 → l.src = .extent b.handle x.part b.addr.toNat b.length.toNat) ∧ (∀ k, k ∈ l.mask ↔ b.mask.getLsbD k = true) ∧ l.stage = 0 ∧ u.slots = s.slots)
    ∧ ((∃ c ∈ x.cmds, isWait c = true ∧ isOver c = false) →
      ∃ u, exec (.loadSlot q h b) s = .next u ∧ newCmd s u q x (.loadSlot b) .queued ∧ u.loads = s.loads ∧ u.slots = s.slots))
  ∧ (∀ (q : Nat) (h : CmdHdr) (b : QueryBody) (x : QSlot) (s : State), fetches s q h (.query b) x → h.type = 10 → flagsBad h 0 = false → clearAhead x →
    (b.sel = 0 → ∃ u, exec (.queryCapability q h b) s = .next u ∧ newCmd s u q x (.query 0 b) (.ended 0 .none)
      ∧ (twinSide s = false → Post.write (queueFn s q) false b.dest ((capability s).take b.length.toNat) ∈ u.posts) ∧ u.spad = s.spad
      ∧ u.stk = s.stk ∧ u.parts = s.parts)
    ∧ (b.sel = 1 → mcUp s = true → ∃ u, exec (.queryInventory q h b) s = .next u ∧ newCmd s u q x (.query 1 b) (.ended 0 .none)
      ∧ (twinSide s = false → Post.write (queueFn s q) false b.dest ((inventoryRec s).take b.length.toNat) ∈ u.posts) ∧ u.spad = s.spad
      ∧ u.stk = s.stk ∧ u.parts = s.parts)
    ∧ (b.sel = 1 → mcUp s = false → ∃ u, exec (.queryInventory q h b) s = .next u ∧ newCmd s u q x (.query 1 b) .queued)
    ∧ (b.sel = 2 → ∃ u, exec (.queryQuota q h b) s = .next u ∧ newCmd s u q x (.query 2 b) (.ended 0 .none)
      ∧ (twinSide s = false → Post.write (queueFn s q) false b.dest ((quotaReport s x.part).take b.length.toNat) ∈ u.posts) ∧ u.spad = s.spad
      ∧ u.stk = s.stk ∧ u.parts = s.parts))

/-- MAP and UNMAP (R274, R281, R282, R296, R297, R302). In their turn, with the MC running, the Owner's key LIVE and the quota met: a MAP of KIND 0 stages
a valid entry of the partition over free units at a free index, charges them, and requests the flip; of KIND 1 charges its rows and writes its handle; of
KIND 2 stages the Extent's entry with RO set. An accepted UNMAP marks its Extent. -/
def Obligations.MapAndUnmapStageEntries : Prop :=
  (∀ (q n i a : Nat) (h : CmdHdr) (b : MapBody) (x : QSlot) (s : State), fetches s q h (.map b) x → h.type = 8 → b.kind = 0 → flagsBad h 0 = false →
    clearAhead x → mcUp s = true →
    keyLive s x.part = true → b.attr.toNat ≤ 1 → b.length.toNat = 65536 * n → 1 ≤ n → b.length.toNat ≤ 2 ^ 36 →
    (getPart s x.part).stkUse + n ≤ stkLimit s x.part → freeIdx s (s.ext.tab.length + s.ext.stg.length + 2) 1 = some i →
    freeBase s n = some a → (freeStg (s.ext.stg.length + 1) 0 s.ext.stg).isSome = true →
    ∃ u k e, exec (.mapExtent q h b) s = .next u ∧ newCmd s u q x (.mapExtent b) .running
      ∧ smGet none u.ext.stg k = some ⟨i, e, false⟩ ∧ smGet none s.ext.stg k = none
      ∧ e.valid = true ∧ e.part = x.part ∧ e.keyslot = x.part ∧ e.oepoch = (getPart s x.part).oepoch ∧ e.gen = (extAt s i).gen
      ∧ e.base = BitVec.ofNat 24 a ∧ e.len = BitVec.ofNat 20 (n - 1) ∧ e.packed = b.attr.getLsbD 0 ∧ e.ro = false ∧ e.dgv = false
      ∧ u.ext.flip = true ∧ u.ext.tab = s.ext.tab ∧ (getPart u x.part).stkUse = (getPart s x.part).stkUse + n
      ∧ u.spad = s.spad ∧ u.stk = s.stk ∧ u.flt = s.flt)
  ∧ (∀ (q : Nat) (h : CmdHdr) (b : MapBody) (x : QSlot) (s : State), fetches s q h (.map b) x → h.type = 8 → b.kind = 1 → flagsBad h 0 = false →
    clearAhead x → mcUp s = true →
    keyLive s x.part = true → b.first + b.ncore ≤ (getPart s x.part).cores.length →
    rowUse (getPart s x.part) + b.length.toNat * b.ncore ≤ rowLimit s x.part →
    ∃ u, exec (.mapRegion q h b) s = .next u ∧ newCmd s u q x (.mapRegion b) (.ended 0 .none)
      ∧ (getPart u x.part).regions
          = (getPart s x.part).regions ++ [⟨Config.regionHandle s.host.regionNo, b.length.toNat * b.ncore⟩]
      ∧ (twinSide s = false → Post.write (queueFn s q) false b.result (natLe 4 (Config.regionHandle s.host.regionNo).toNat) ∈ u.posts)
      ∧ u.spad = s.spad ∧ u.stk = s.stk ∧ u.ext = s.ext)
  ∧ (∀ (q : Nat) (h : CmdHdr) (b : MapBody) (hd : W32) (x : QSlot) (s : State), fetches s q h (.map b) x → h.type = 8 → b.kind = 2 → flagsBad h 0 = false →
    clearAhead x →
    mcUp s = true → keyLive s x.part = true → hd = b.length.truncate 32 → hIdx hd ≠ 0 → (extAt s (hIdx hd)).valid = true →
    (extAt s (hIdx hd)).gen = hGen hd → (extAt s (hIdx hd)).part = x.part → (extAt s (hIdx hd)).oepoch = (getPart s x.part).oepoch →
    (extAt s (hIdx hd)).ro = false → (freeStg (s.ext.stg.length + 1) 0 s.ext.stg).isSome = true →
    ∃ u k e, exec (.mapSeal q h b) s = .next u ∧ newCmd s u q x (.mapSeal b) .running
      ∧ smGet none u.ext.stg k = some ⟨hIdx hd, e, false⟩ ∧ e.ro = true ∧ e.gen = hGen hd ∧ e.base = (extAt s (hIdx hd)).base
      ∧ e.len = (extAt s (hIdx hd)).len ∧ u.ext.flip = true ∧ u.ext.tab = s.ext.tab ∧ u.spad = s.spad ∧ u.stk = s.stk)
  ∧ (∀ (q : Nat) (h : CmdHdr) (hd : W32) (x : QSlot) (s : State), fetches s q h (.unmap hd) x → h.type = 9 → flagsBad h 0 = false → clearAhead x →
    mcUp s = true → (∀ j ∈ s.ext.jobs, j.step = 5 → j.idx ≠ hIdx hd) →
    (getPart s x.part).regions.any (fun r => r.handle == hd) = false → hIdx hd ≠ 0 → (extAt s (hIdx hd)).valid = true →
    (extAt s (hIdx hd)).gen = hGen hd → smGet none s.ext.unmap (hIdx hd) = none → (extAt s (hIdx hd)).part = x.part →
    (extAt s (hIdx hd)).oepoch = (getPart s x.part).oepoch →
    ∃ u c, exec (.unmap q h hd) s = .next u ∧ smGet none u.ext.unmap (hIdx hd) = some (q, x.qr.head) ∧ cmdAt u q x.qr.head = some c
      ∧ c.body = .unmap hd ∧ c.stage = .running ∧ u.ext.tab = s.ext.tab ∧ u.spad = s.spad ∧ u.stk = s.stk)

/-! ### Queues, contexts and Events (chapters 10, 11) -/

/-- HQ_OP (R262, R273): a write of any HQ_OP from a VF, from the host before CFG_DONE or from an MC that does not run does nothing, one from the PF or the MC while
an operation is under way is dropped and sets OPLOST, and one that names an identifier outside its table answers RESULT 1 and changes nothing else. CTX_CREATE, CTX_RESET and CTX_DESTROY (R265, R280, R283): a good record of a
FREE context makes it LIVE; a bad one answers 3, REFCOUNT without AtomicOps as then read 4, a context that is not FREE 2. A reset or destroy of a LIVE context stops
its resident queues, completes their commands ABORTED or aborts the Segment that runs, frees their slots, at once where they hold no command, marks its Events
to be abandoned, and stays busy; a queue of it that is not resident is stopped too, and the WAIT saved with it completes ABORTED; a destroyed context reads
DESTROYING. -/
def Obligations.HqOpsActOnContexts : Prop :=
  (∀ (f : Func) (id : Nat) (r : CtxRec) (en : Bool) (qs : List QFound) (x : QFound) (tail : W32) (e : EvtRec) (c : Instr) (lim : Nat) (s : State),
    x.q = id → (c, lim) ∈ ([(.ctxCreate f id ⟨r, en⟩, 65536), (.ctxDestroy f ⟨id, qs⟩, 65536), (.ctxReset f ⟨id, qs⟩, 65536), (.qStop f id, 65536),
      (.qRestart f id, 65536), (.qReset f x tail, 65536), (.evtFree f id e, 2 ^ 20)] : List (Instr × Nat)) →
    (pfOn s f = false → exec c s = .next s)
    ∧ (pfOn s f = true → s.host.op.isSome = true → exec c s = .next { s with host := { s.host with opLost := true } })
    ∧ (pfOn s f = true → s.host.op = none → lim ≤ id → exec c s = .next { s with host := { s.host with opRes := 1 } }))
  ∧ (∀ (f : Func) (id : Nat) (r : CtxRec) (en : Bool) (s : State), pfOn s f = true → s.host.op = none → id < 65536 →
    ((getCtx s id).st = .free → r.rsvNZ = false → (r.refcount = true → en = true) →
      ∃ u, exec (.ctxCreate f id ⟨r, en⟩) s = .next u ∧ getCtx u id = ⟨.live, r.part, r.refcount, r.priority⟩
        ∧ (∀ n, n ≠ id → getCtx u n = getCtx s n) ∧ u.host.opRes = 0 ∧ u.host.op = none
        ∧ u.posts = (post s (.write 0 false (liveReg64 s rHQ_CTX_BASE + BitVec.ofNat 64 (64 * id)) [1])).posts
        ∧ u = { s with host := u.host, posts := u.posts })
    ∧ ((getCtx s id).st ≠ .free → exec (.ctxCreate f id ⟨r, en⟩) s = .next { s with host := { s.host with opRes := 2 } })
    ∧ ((getCtx s id).st = .free → r.rsvNZ = true → exec (.ctxCreate f id ⟨r, en⟩) s = .next { s with host := { s.host with opRes := 3 } })
    ∧ ((getCtx s id).st = .free → r.rsvNZ = false → r.refcount = true → en = false →
      exec (.ctxCreate f id ⟨r, en⟩) s = .next { s with host := { s.host with opRes := 4 } }))
  ∧ (∀ (f : Func) (id : Nat) (qs : List QFound) (c : Instr) (destroy : Bool) (s : State), pfOn s f = true → s.host.op = none → id < 65536 →
    (c, destroy) ∈ ([(.ctxReset f ⟨id, qs⟩, false), (.ctxDestroy f ⟨id, qs⟩, true)] : List (Instr × Bool)) → slotsWf s = true → ownSlots s →
    ((getCtx s id).st = .live →
      ∃ u, exec c s = .next u ∧ u.host.op = some (.ctx id destroy) ∧ u.host.abandon = s.host.abandon ++ [(id, s.beat.b)]
        ∧ (getCtx u id).st = (if destroy then .destroying else .live) ∧ (∀ n, n ≠ id → getCtx u n = getCtx s n)
        ∧ (∀ q x, queueAt s q = some x → x.qr.context = id → x.cmds = [] → queueAt u q = none)
        ∧ (∀ q x, queueAt s q = some x → x.qr.context = id → x.cmds ≠ [] → ∃ y, queueAt u q = some y ∧ y.qr.stopped = true ∧ y.wait = none
          ∧ y.leaving = true
          ∧ (∀ g, (getPart s x.part).seg = some g → g.q = q → (y.cmds = x.cmds.map (fun c =>
                if isOver c || g.seq == c.seq then c else { c with stage := .ended 2 .none }))
              ∧ (g.abort = none → (getPart u x.part).seg = some { g with abort := some ⟨.none, [], s.beat.b⟩, status := 2 }))
          ∧ ((∀ g, (getPart s x.part).seg = some g → g.q ≠ q) →
              y.cmds = x.cmds.map (fun c => if isOver c then c else { c with stage := .ended 2 .none })))
        ∧ (∀ x ∈ qs, x.qr.context = id → slotOf s x.q = none → twinSide s = false →
          Post.setBit (qField s x.q 25) 3 true ∈ u.posts
          ∧ ∀ w, x.qr.wait = some w → ∃ (fn : Nat) (d : Cmd), d.seq = x.qr.done ∧ d.hdr = x.wh ∧ Post.write fn false
              (x.qr.cpl + BitVec.ofNat 64 (32 * ringSlot x.qr x.qr.done)) (completion s.flt d 2 .none s.beat.b).1 ∈ u.posts)
        ∧ u = { s with host := u.host, posts := u.posts, parts := u.parts })
    ∧ ((getCtx s id).st ≠ .live → exec c s = .next { s with host := { s.host with opRes := 2 } }))

/-- Q_STOP, Q_RESTART, Q_RESET and EVT_FREE (R273). Q_STOP stops a queue at once, or, where its Segment runs, at the boundary until which BUSY holds. Q_RESTART
clears STOPPED, and a queue that has no slot is a candidate again. Q_RESET completes fetched commands ABORTED, aborting the Segment that runs, fetches nothing meanwhile,
and with nothing left sets HEAD and DONE to the TAIL read and clears STOPPED; a WAIT saved with a queue
that is not resident completes ABORTED too. EVT_FREE stops the queues that wait on the Event, whose waits are over with ABANDONED, removes its resident copy and
writes FREE with the next generation. -/
def Obligations.QueueOpsAndEvtFree : Prop :=
  (∀ (f : Func) (q : Nat) (s : State), pfOn s f = true → s.host.op = none → q < 65536 → slotsWf s = true →
    (queueAt s q = none → exec (.qStop f q) s = .next { s with
        host := { s.host with opRes := 0 }, posts := (post s (.setBit (qField s q 25) 3 true)).posts })
    ∧ (∀ x, queueAt s q = some x → ∃ u y, exec (.qStop f q) s = .next u ∧ queueAt u q = some y ∧ y.cmds = x.cmds
        ∧ (queueRuns s q = true → y = { x with stopReq := true } ∧ u.host.op = some (.qstop q))
        ∧ (queueRuns s q = false → y.qr = { x.qr with stopped := true } ∧ u.host.op = none)
        ∧ (∀ n, n ≠ q → queueAt u n = queueAt s n) ∧ u = { s with host := u.host, posts := u.posts })
    ∧ (∀ x, queueAt s q = some x → ∃ u y, exec (.qRestart f q) s = .next u ∧ queueAt u q = some y
        ∧ y = { x with qr := { x.qr with stopped := false }, stopReq := false, halted := false } ∧ smGet false u.host.badQ q = false
        ∧ (∀ n, n ≠ q → queueAt u n = queueAt s n) ∧ u = { s with host := u.host, posts := u.posts })
    ∧ (queueAt s q = none → ∃ u, exec (.qRestart f q) s = .next u ∧ smGet false u.host.badQ q = false ∧ u.host.slots = s.host.slots
        ∧ q ∈ u.host.cands ∧ u.posts = (post s (.setBit (qField s q 25) 3 false)).posts ∧ u = { s with host := u.host, posts := u.posts })
    ∧ (∀ tail z x, z.q = q → queueAt s q = some x → x.cmds = [] → x.leaving = false → queueRuns s q = false →
        ∃ u y, exec (.qReset f z tail) s = .next u
        ∧ queueAt u q = some y ∧ y.qr = { x.qr with tail := tail, head := tail, done := tail, stopped := false } ∧ y.cmds = []
        ∧ u.host.op = none ∧ othersStay s u q ∧ u = { s with host := u.host, posts := u.posts })
    ∧ (∀ tail z x, z.q = q → queueAt s q = some x → x.cmds ≠ [] → queueRuns s q = false → ∃ u y, exec (.qReset f z tail) s = .next u
        ∧ queueAt u q = some y ∧ y.cmds = x.cmds.map (fun c => if isOver c then c else { c with stage := .ended 2 .none })
        ∧ u.host.op = some (.qreset q tail) ∧ othersStay s u q
        ∧ u = { s with host := u.host, posts := u.posts })
    ∧ (∀ tail z x g, z.q = q → queueAt s q = some x → x.cmds ≠ [] → (getPart s x.part).seg = some g → g.q = q → g.abort = none →
        ∃ u y, exec (.qReset f z tail) s = .next u ∧ queueAt u q = some y
        ∧ y.cmds = x.cmds.map (fun c => if isOver c || g.seq == c.seq then c else { c with stage := .ended 2 .none })
        ∧ (getPart u x.part).seg = some { g with abort := some ⟨.none, [], s.beat.b⟩, status := 2 } ∧ u.host.op = some (.qreset q tail)
        ∧ (∀ h e, mayFetch u q h e = none) ∧ othersStay s u q ∧ u = { s with host := u.host, posts := u.posts, parts := u.parts })
    ∧ (∀ tail z, z.q = q → queueAt s q = none → twinSide s = false → ∃ u, exec (.qReset f z tail) s = .next u ∧ u.host.opRes = 0
        ∧ Post.write 0 false (qField s q 36) (natLe 4 tail.toNat) ∈ u.posts ∧ Post.write 0 false (qField s q 40) (natLe 4 tail.toNat) ∈ u.posts
        ∧ Post.setBit (qField s q 25) 3 false ∈ u.posts ∧ u.host.slots = s.host.slots
        ∧ (∀ w, z.qr.wait = some w → Post.write 0 false (qField s q 60) [0] ∈ u.posts ∧ ∃ (fn : Nat) (d : Cmd), d.seq = z.qr.done ∧ d.hdr = z.wh ∧ Post.write fn false
            (z.qr.cpl + BitVec.ofNat 64 (32 * ringSlot z.qr z.qr.done)) (completion s.flt d 2 .none s.beat.b).1 ∈ u.posts)
        ∧ u = { s with host := u.host, posts := u.posts }))
  ∧ (∀ (q : Nat) (tail : W32) (x : QSlot) (c : Cmd) (s : State), slotsWf s = true → ownSlots s → s.host.op = some (.qreset q tail) →
    queueAt s q = some x → x.cmds = [c] → c.stage = .ended 2 .none → (c.refc = false ∨ countAddrs c = []) → x.leaving = false → queueRuns s q = false →
    ∃ u y, exec (.commandRetire q) s = .next u ∧ queueAt u q = some y
      ∧ y.qr = { x.qr with tail := tail, head := tail, done := tail, stopped := false } ∧ y.cmds = [] ∧ y.halted = false ∧ u.host.op = none)
  ∧ (∀ (f : Func) (idx : Nat) (e : EvtRec) (s : State), pfOn s f = true → s.host.op = none → idx < 2 ^ 20 → slotsWf s = true →
    ∃ u, exec (.evtFree f idx e) s = .next u ∧ getEvt u idx = none ∧ (∀ n, n ≠ idx → getEvt u n = getEvt s n) ∧ u.host.opRes = 0
      ∧ (∀ x, getEvt s idx = some x → ∀ w ∈ x.waiters, ∀ y, queueAt s w.q = some y → ∃ z, queueAt u w.q = some z ∧ z.wait = none
          ∧ (∀ c rest, y.cmds = c :: rest → z.qr.stopped = true ∧ ∃ d l, z.cmds = d :: l ∧ d.seq = c.seq ∧ d.stage = .ended 5 .none))
      ∧ (twinSide s = false → Post.write 0 false (evField s idx 24)
          (natLe 2 ((match getEvt s idx with | some x => x.er | none => e).gen + 1).toNat) ∈ u.posts)
      ∧ u = { s with host := u.host, posts := u.posts })

/-- HQ_DB, HQ_OVF_KICK, OVF_SCAN and QUEUE_RESIDENCY (R267 to R272, R260). A doorbell of the queue in its slot sets TAIL to the count with those low bits in the
2^16 from DONE on. One that finds its queue in no slot, or in another, marks the queue and asks for a scan; a VF's for another partition's queue, resident or not,
raises DB_REJECT. The queue of a context that is FREE belongs to no partition, and a doorbell of it is one that misses (log 15: the model's reading). A doorbell before
CFG_DONE, or without all byte enables, does nothing. A scan that is due clears the bits of resident queues, takes their TAILs and makes the others candidates. At a Segment boundary the next candidate
takes a free slot, with the wait saved in its record registered again; a record of wrong form is QUEUE_FORM; and a queue that may lose its slot leaves it with HEAD
and DONE written back. -/
def Obligations.DoorbellsScansAndResidency : Prop :=
  (∀ (f : Func) (n q ctx : Nat) (tail : BitVec 16) (s : State), slotsWf s = true → fnOn s f = true →
    (∀ x, queueAt s q = some x → slotOf s q = some n → (∀ v, f = .vf v → v = x.part + 1) →
      ∃ u y, exec (.hqDb f n ⟨q, ctx, 0xF⟩ tail) s = .next u ∧ queueAt u q = some y ∧ y = { x with qr := { x.qr with tail := y.qr.tail } }
        ∧ y.qr.tail.truncate 16 = tail ∧ (y.qr.tail - x.qr.done).toNat < 2 ^ 16
        ∧ (∀ k, k ≠ q → queueAt u k = queueAt s k) ∧ u = { s with host := u.host })
    ∧ (∀ v, f = .vf (v + 1) → ((∃ x, queueAt s q = some x ∧ v ≠ x.part)
        ∨ (queueAt s q = none ∧ (getCtx s ctx).st ≠ .free ∧ v ≠ (getCtx s ctx).part)) →
      ∃ r, exec (.hqDb f n ⟨q, ctx, 0xF⟩ tail) s = .next (enterRec r s)
        ∧ r.code = FCode.dbReject.code ∧ r.part = some v ∧ r.detail = reasonDetail 0 (v + 1) q)
    ∧ ((queueAt s q = none ∧ (∀ v, f = .vf v → (getCtx s ctx).st ≠ .free → v = (getCtx s ctx).part + 1)
        ∨ ∃ x, queueAt s q = some x ∧ (∀ y, getSlot s n = some y → y.q ≠ q) ∧ ∀ v, f = .vf v → v = x.part + 1) →
      ∃ u, exec (.hqDb f n ⟨q, ctx, 0xF⟩ tail) s = .next u ∧ u.host.dbMiss = true ∧ u.host.scanReq = true
        ∧ (s.host.atomicEn = true → u.posts = (post s (.setBit (liveReg64 s rHQ_OVF_BASE + BitVec.ofNat 64 (q / 8)) (q % 8) true)).posts)
        ∧ (s.host.atomicEn = false → smGet false u.host.pendSet q = true ∧ u.posts = s.posts) ∧ u.host.slots = s.host.slots
        ∧ u = { s with host := u.host, posts := u.posts }))
  ∧ (∀ (f : Func) (n : Nat) (d : DbQueue) (tail : BitVec 16) (s : State), fnOn s f = false ∨ d.be ≠ 0xF → exec (.hqDb f n d tail) s = .next s)
  ∧ (∀ (f : Func) (s : State),
    exec (.hqOvfKick f) s = .next (if fnOn s f then { s with host := { s.host with scanReq := true } } else s))
  ∧ (∀ (bits : List Nat) (en : Bool) (tails : List (Nat × BitVec 32)) (s : State), slotsWf s = true → (tails.map Prod.fst).Nodup →
    (scanDue s = false → exec (.ovfScan bits en tails) s = .next s)
    ∧ (scanDue s = true →
    ∃ u, exec (.ovfScan bits en tails) s = .next u ∧ u.host.scanReq = false ∧ u.host.scanBeat = s.beat.b ∧ u.host.atomicEn = en
      ∧ (∀ q x t, queueAt s q = some x → (q ∈ bits ∨ smGet false s.host.pendSet q = true) → (q, t) ∈ tails →
          smGet false u.host.pendSet q = false ∧ queueAt u q = some { x with qr := { x.qr with tail := t } }
          ∧ (en = true → q ∈ bits → twinSide s = false →
              Post.setBit (liveReg64 s rHQ_OVF_BASE + BitVec.ofNat 64 (q / 8)) (q % 8) false ∈ u.posts))
      ∧ (∀ q, queueAt s q = none ∨ (q ∉ bits ∧ smGet false s.host.pendSet q = false) ∨ (∀ t, (q, t) ∉ tails) →
          queueAt u q = queueAt s q ∧ smGet false u.host.pendSet q = smGet false s.host.pendSet q)
      ∧ (∀ q, queueAt s q = none → (q ∈ bits ∨ smGet false s.host.pendSet q = true) → q ∈ u.host.cands)
      ∧ u = { s with host := u.host, posts := u.posts }))
  ∧ (∀ (p n : Nat) (x : QFound) (ev : EvtRec) (others : List QFound) (s : State), (getPart s p).seg = none → slotsWf s = true →
    n < 48 → getSlot s n = none → isNext s p x others = true → (getCtx s x.qr.context).part = p →
    (qFormReason x.qr ≠ 0 → ∃ u r, exec (.queueResidency p (.load n x ev others)) s = .next u ∧ r.code = FCode.queueForm.code
        ∧ r.detail = reasonDetail (qFormReason x.qr) 0 x.q ∧ r.part = some p ∧ smGet false u.host.badQ x.q = true
        ∧ u.flt = (enterRec r s).flt ∧ u.host.slots = s.host.slots ∧ x.q ∉ u.host.cands)
    ∧ (qFormReason x.qr = 0 → eligible s p x.qr = true → quotaRoom s p x.qr.context = true →
      (x.qr.wait = none →
        ∃ u, exec (.queueResidency p (.load n x ev others)) s = .next u ∧ getSlot u n = some ⟨x.q, p, x.qr, none, [], false, false, false, false⟩
          ∧ (∀ k, k ≠ n → getSlot u k = getSlot s k) ∧ x.q ∉ u.host.cands ∧ u = { s with host := u.host, posts := u.posts })
      ∧ (∀ w e, x.qr.wait = some w → getEvt s (evIdx w.evt) = some e → evtMatch w.evt e.er = true → e.er.st = .live →
        e.er.counted = false → (∀ y ∈ e.waiters, y.q ≠ x.q) → reached (e.er.value.truncate 32) w.thresh = false →
        ∃ u y c f, exec (.queueResidency p (.load n x ev others)) s = .next u ∧ getSlot u n = some y ∧ y.q = x.q ∧ y.cmds = [c]
          ∧ c.body = .wait w.evt w.thresh ∧ c.seq = x.qr.done ∧ c.stage = .running ∧ y.wait = some w
          ∧ getEvt u (evIdx w.evt) = some f ∧ (⟨x.q, w.thresh, w.ticket⟩ : Waiter) ∈ f.waiters ∧ f.er.ticket = e.er.ticket)))
  ∧ (∀ (p n : Nat) (tail : W32) (x : QSlot) (y : QFound) (others : List QFound) (s : State), (getPart s p).seg = none →
    getSlot s n = some x → x.part = p → mayTake s p x y others = true →
    ∃ u head, exec (.queueResidency p (.evict n tail y others)) s = .next u ∧ head = x.qr.done + (if x.wait.isSome then 1 else 0)
      ∧ getSlot u n = none ∧ (∀ k, k ≠ n → getSlot u k = getSlot s k)
      ∧ (twinSide s = false → Post.write 0 false (qField s x.q 36) (natLe 4 head.toNat ++ natLe 4 x.qr.done.toNat) ∈ u.posts)
      ∧ (tail ≠ head → s.host.atomicEn = false → smGet false u.host.pendSet x.q = true)
      ∧ (x.wait.isSome = true → x.q ∈ u.host.cands)
      ∧ u = { s with host := u.host, posts := u.posts })
  ∧ (∀ (p : Nat) (a : ResAct) (s : State), (getPart s p).seg.isSome = true → exec (.queueResidency p a) s = .next s)

/-- EVENT_SIGNAL (R254 to R256, R258). A signal under way to a resident LIVE Event raises VALUE by the serial difference where that lies below 2^31, adds a
credit to a counted Event, and frees the waiters that a level Event's new VALUE reaches; one that is lower, or to an ABANDONED Event, counts in STALE and
leaves VALUE; an equal one changes nothing; one whose handle no longer matches raises EVT_DROPPED. R258: release of a counted Event with distinct waiters frees reached waiters alone, spends one credit for each, keeps the others, and goes on while there is
a credit and a reached waiter. Where the tickets lie within 2^31 of each other, no reached waiter that stays has a lower one than a waiter freed. -/
def Obligations.EventSignalAndRelease : Prop :=
  (∀ (r : EvtRec) (g : SigReq) (rest : List SigReq) (x : ResEvt) (s : State), s.host.sigs = g :: rest → slotsWf s = true →
      getEvt s (evIdx g.evt) = some x →
      (∀ d, evtMatch g.evt x.er = true → x.er.st = .live → d = g.val.truncate 32 - x.er.value.truncate 32 → d ≠ 0 →
        d.toNat < 2 ^ 31 →
        ∃ u y, exec (.eventSignal r) s = .next u ∧ getEvt u (evIdx g.evt) = some y ∧ u.host.sigs = rest
          ∧ y.er.value = x.er.value + d.zeroExtend 64 ∧ y.er.value.truncate 32 = g.val.truncate 32 ∧ y.er.stale = x.er.stale ∧ y.er.st = .live
          ∧ (x.er.counted = false → y.er.credit = x.er.credit
              ∧ y.waiters = x.waiters.filter (fun w => !reached (g.val.truncate 32) w.thresh)
              ∧ ∀ w ∈ x.waiters, reached (g.val.truncate 32) w.thresh = true → ∀ z, queueAt s w.q = some z →
                  ∃ z', queueAt u w.q = some z' ∧ z'.wait = none
                    ∧ ∀ c l, z.cmds = c :: l → ∃ d' l', z'.cmds = d' :: l' ∧ d'.seq = c.seq ∧ d'.stage = .ended 0 .none)
          ∧ (x.er.counted = true → x.waiters = [] → y.waiters = [] ∧ y.er.credit = satInc x.er.credit)
          ∧ (x.er.notify = true → twinSide s = false → Post.msix (evtPart s x.er + 1) x.er.vec ∈ u.posts)
          ∧ u = { s with host := u.host, posts := u.posts, nextId := u.nextId })
      ∧ (evtMatch g.evt x.er = true → (x.er.st ≠ .live ∨ 2 ^ 31 ≤ (g.val.truncate 32 - x.er.value.truncate 32 : BitVec 32).toNat) →
        ∃ u y, exec (.eventSignal r) s = .next u ∧ getEvt u (evIdx g.evt) = some y ∧ u.host.sigs = rest
          ∧ y.er = { x.er with stale := satInc x.er.stale } ∧ y.waiters = x.waiters ∧ u.host.slots = s.host.slots)
      ∧ (evtMatch g.evt x.er = true → x.er.st = .live → g.val.truncate 32 = x.er.value.truncate 32 →
        exec (.eventSignal r) s = .next { s with host := { s.host with sigs := rest } })
      ∧ (evtMatch g.evt x.er = false → ∃ f, exec (.eventSignal r) s = .next (enterRec f { s with host := { s.host with sigs := rest } })
        ∧ f.code = FCode.evtDropped.code ∧ f.detail = reasonDetail 0 0 g.evt.toNat))
  ∧ (∀ (e e' : EvtRec) (ws rest out : List Waiter), e.counted = true → ws.Nodup → releaseEvt (ws.length + 1) e ws = (e', rest, out) →
      e'.value = e.value ∧ e'.ticket = e.ticket ∧ e'.stale = e.stale ∧ e'.credit.toNat + out.length = e.credit.toNat
        ∧ (∀ w, w ∈ ws ↔ (w ∈ rest ∨ w ∈ out)) ∧ (∀ w ∈ out, waitReached e w = true ∧ w ∉ rest)
        ∧ (e'.credit = 0 ∨ ∀ w ∈ rest, waitReached e w = false)
        ∧ (∀ base : W32, (∀ v ∈ ws, (v.ticket - base).toNat < 2 ^ 31) → ∀ w ∈ out, ∀ v ∈ rest, waitReached e v = true →
            (w.ticket - base).toNat ≤ (v.ticket - base).toNat))

/-- EVENT_ABANDON (R259) and QUOTA_RESET (R283). A LIVE Event of a context whose reset was accepted becomes ABANDONED in its record, and leaves its slot where it is
resident; the queues that waited stop, their waits over with ABANDONED. A partition over quota for its period has its LIVE context of the lowest PRIORITY, the highest
identifier among equals, reset with the record QUOTA_RESET, and its period begins anew; since when it is over quota does not change (R423). -/
def Obligations.AbandonedEventsAndQuotaResets : Prop :=
  (∀ (idx : Nat) (r : EvtRec) (x : ResEvt) (b : BitVec 64) (s : State), slotsWf s = true → getEvt s idx = some x → x.er.st = .live →
    (x.er.owner, b) ∈ s.host.abandon →
    ∃ u, exec (.eventAbandon idx r) s = .next u ∧ getEvt u idx = none ∧ (∀ n, n ≠ idx → getEvt u n = getEvt s n)
      ∧ (twinSide s = false → Post.write 0 false (evField s idx 22)
          (natLe 1 ((if x.er.counted then 1 else 0) + (if x.er.notify then 2 else 0) + 8)) ∈ u.posts)
      ∧ (∀ w ∈ x.waiters, ∀ y, queueAt s w.q = some y → ∃ z, queueAt u w.q = some z ∧ z.wait = none
          ∧ (∀ c rest, y.cmds = c :: rest → z.qr.stopped = true ∧ ∃ d l, z.cmds = d :: l ∧ d.seq = c.seq ∧ d.stage = .ended 5 .none))
      ∧ u = { s with host := u.host, posts := u.posts })
  ∧ (∀ (idx : Nat) (r : EvtRec) (b : BitVec 64) (s : State), getEvt s idx = none → r.st = .live → (r.owner, b) ∈ s.host.abandon →
    ∃ u, exec (.eventAbandon idx r) s = .next u ∧ getEvt u idx = none
      ∧ (twinSide s = false → Post.write 0 false (evField s idx 22)
          (natLe 1 ((if r.counted then 1 else 0) + (if r.notify then 2 else 0) + 8)) ∈ u.posts)
      ∧ u = { s with posts := u.posts })
  ∧ (∀ (p id : Nat) (b : W64) (qs : List QFound) (s : State), (getPart s p).graceB = some b → 1 ≤ grace s p →
    grace s p * 65536 ≤ (s.beat.b - b).toNat → overQuota s p = true → quotaVictim s p = some id →
    ∃ r, exec (.quotaReset ⟨p, qs⟩) s = .next (modPart (enterRec r (resetCtx s id qs)) p (fun x => { x with graceB := some s.beat.b }))
      ∧ r.code = FCode.quotaReset.code ∧ r.part = some p ∧ r.detail = reasonDetail 0 0 id)
  ∧ (∀ (p id : Nat) (s : State), smWf ⟨.free, 0, false, 0⟩ s.host.ctxs = true → quotaVictim s p = some id →
    (getCtx s id).st = .live ∧ (getCtx s id).part = p
      ∧ ∀ n, (getCtx s n).st = .live → (getCtx s n).part = p →
        (getCtx s id).priority < (getCtx s n).priority ∨ ((getCtx s id).priority = (getCtx s n).priority ∧ n ≤ id))

/-! ### Retirement, Publication, Extents, digests (chapters 01, 11, 12, 16) -/

/-- COMMAND_RETIRE (R266, R278, R397): the front command of a queue, over, or a SIGNAL with nothing before it, writes its completion record in two writes and then
DONE. It leaves at once, with its signal where its status is OK and SIGEN is set, or, in a REFCOUNT context with counts, stays until as many FetchAdds of −1 have
completed. -/
def Obligations.CommandsRetireInOrder : Prop :=
  ∀ (q st : Nat) (idx : FltIdx) (x : QSlot) (c : Cmd) (rest : List Cmd) (s : State), slotsWf s = true → queueAt s q = some x →
    x.cmds = c :: rest → twinSide s = false → (∀ d ∈ rest, d.seq ≠ c.seq ∧ ∀ n, d.stage ≠ .counting n) → (countAddrs c).length < 65536 →
    ((c.stage = .ended st idx ∧ fltOut s idx = true ∧ cmdRuns s x.part q c.seq = false
        ∧ (x.halted = false ∨ st = 2 ∨ x.cmds.any stopsQueue = true))
      ∨ (c.stage = .queued ∧ c.body = .signal ∧ mayStart x c.seq = true ∧ st = 0 ∧ idx = .none)) →
    ∃ v y ps, exec (.commandRetire q) s = .next (mcWork (finishOp v)) ∧ queueAt v q = some y ∧ y.qr = { x.qr with done := x.qr.done + 1 }
      ∧ ps = [Post.write (fnOf x) false (x.qr.cpl + BitVec.ofNat 64 (32 * ringSlot x.qr c.seq)) (completion s.flt c st idx s.beat.b).1,
          Post.write (fnOf x) false (x.qr.cpl + BitVec.ofNat 64 (32 * ringSlot x.qr c.seq) + 24) (completion s.flt c st idx s.beat.b).2,
          Post.write 0 false (qField s q 40) (natLe 4 (x.qr.done + 1).toNat)]
      ∧ ((c.refc = false ∨ countAddrs c = []) → y.cmds = rest ∧ v.posts = s.posts ++ ps
          ∧ v.host.sigs = s.host.sigs ++ (if st = 0 ∧ c.hdr.sigen = true then [⟨c.hdr.evt, c.hdr.evval⟩] else []))
      ∧ (c.refc = true → countAddrs c ≠ [] →
          y.cmds = { c with stage := .counting ((countAddrs c).length + 65536 * st) } :: rest
          ∧ v.posts = s.posts ++ ps ++ (countAddrs c).map (fun a => Post.fetchAdd (fnOf x) a 0xFFFFFFFFFFFFFFFF) ∧ v.host.sigs = s.host.sigs)
      ∧ (∀ k, k ≠ q → queueAt v k = queueAt s k) ∧ v = { s with host := v.host, posts := v.posts, nextId := v.nextId }

/-- PUBLICATION (R34, R279, R339, R387, R388): at a boundary the front command of a queue that was met before it writes its 512-byte Replay Record, then its completion
record and DONE, and leaves; one that establishes a residency arms it. A HOLDPUB command publishes with its whole group or not at all. With the twin link of a MIRROR
primary down nothing is published. -/
def Obligations.PublicationsAreOrdered : Prop :=
  (∀ (q : Nat) (b : W64) (x : QSlot) (c : Cmd) (rest : List Cmd) (s : State), slotsWf s = true → atEdge s = true → pubHeld s = false →
    queueAt s q = some x → x.cmds = c :: rest → c.stage = .met b → b ≠ s.beat.b → isHold c = false → twinSide s = false → s.twin.st ≠ 3 →
    (∀ d ∈ rest, d.seq ≠ c.seq ∧ ∀ n, d.stage ≠ .counting n) → (c.refc = false ∨ countAddrs c = []) →
    ∃ v y, exec (.publication q) s = .next (mcWork (finishOp v)) ∧ queueAt v q = some y ∧ y.qr = { x.qr with done := x.qr.done + 1 } ∧ y.cmds = rest
      ∧ v.posts = s.posts ++ [Post.write (fnOf x) false (x.qr.rpl + BitVec.ofNat 64 (512 * ringSlot x.qr c.seq)) (replayRec s x.part q c []),
          Post.write (fnOf x) false (x.qr.cpl + BitVec.ofNat 64 (32 * ringSlot x.qr c.seq)) (completion s.flt c 0 .none s.beat.b).1,
          Post.write (fnOf x) false (x.qr.cpl + BitVec.ofNat 64 (32 * ringSlot x.qr c.seq) + 24) (completion s.flt c 0 .none s.beat.b).2,
          Post.write 0 false (qField s q 40) (natLe 4 (x.qr.done + 1).toNat)]
      ∧ (∀ rb ab pr rs a l, c.body = .run rb ab pr → pr.tabs.res = .establish rs → c.resRoots = some (a, l) →
          ∃ r, (getPart v x.part).res = some r ∧ r.ok = true ∧ r.root = a ∧ r.lay = l)
      ∧ (∀ k, k ≠ q → queueAt v k = queueAt s k)
      ∧ v = { s with host := v.host, posts := v.posts, nextId := v.nextId, parts := v.parts })
  ∧ (∀ (q : Nat) (b : W64) (x : QSlot) (c : Cmd) (rest : List Cmd) (s : State), slotsWf s = true → atEdge s = true → pubHeld s = false →
    queueAt s q = some x → x.cmds = c :: rest → c.stage = .met b → b ≠ s.beat.b → isHold c = true → (x.cmds.map Cmd.seq).Nodup →
    (∀ d ∈ x.cmds, (∀ n, d.stage ≠ .counting n) ∧ (d.refc = false ∨ countAddrs d = [])) →
    (groupStretch x = none → exec (.publication q) s = .next s)
    ∧ (∀ cs, groupStretch x = some cs → cs.all (mayGo s q) = false → exec (.publication q) s = .next s)
    ∧ (∀ cs, groupStretch x = some cs → cs.all (mayGo s q) = true →
        ∃ v y, exec (.publication q) s = .next (mcWork (finishOp v)) ∧ queueAt v q = some y ∧ y.cmds = x.cmds.drop cs.length
          ∧ y.qr.done = x.qr.done + BitVec.ofNat 32 cs.length ∧ v.spad = s.spad ∧ v.stk = s.stk ∧ v.cores = s.cores))
  ∧ (∀ (q : Nat) (s : State), pubHeld s = true → exec (.publication q) s = .next s)
  ∧ (∀ (p q : Nat) (c : Cmd) (ms : List Cmd) (s : State), (replayRec s p q c ms).length = 512)

/-- EXT_STAGE_CMD, EXT_FLIP, EXT_FLIP_EFFECT and RETAINED_RELEASE (R10, R24, R298 to R300, R313). The running MC's staged words become an entry in the lowest free
staging slot and in the MC's copy of the table, under the index named, or wait for a slot; another function's write, one before CFG_DONE or without all byte enables does
nothing. At the boundary after its request a flip raises the epoch; the first
entry of an index that was staged when the Beat began moves in, where the index retains nothing, with the version it replaces retained in its slot, and other entries
stay. A table Granule beyond correction is whole again, with EXT_RESTORED, once both its entries have moved in (R301). A retained version that no running Segment can see is
released. -/
def Obligations.ExtentsStageFlipAndRelease : Prop :=
  (∀ (f : Func) (x : WrVal) (idx : Nat) (e : ExtEnt) (s : State), idx = hIdx x.v →
    e = parseExt ((smGet 0 s.ext.latch 0).toNat + (smGet 0 s.ext.latch 1).toNat * 2 ^ 32 + (smGet 0 s.ext.latch 2).toNat * 2 ^ 64
      + (smGet 0 s.ext.latch 3).toNat * 2 ^ 96) →
    (f ≠ .mc ∨ mcUp s = false ∨ s.cfgDone = false ∨ x.be ≠ 0xF → exec (.extStageCmd f x) s = .next s)
    ∧ (∀ k, mcUp s = true → s.cfgDone = true → x.be = 0xF → smGet none s.ext.stg k = none → k < 65536 →
        (∀ j, j < k → (smGet none s.ext.stg j).isSome = true) →
        exec (.extStageCmd .mc x) s = .next { s with ext := { s.ext with stg := smSet none s.ext.stg k (some ⟨idx, e, false⟩),
                                                                            copy := smSet emptyExt s.ext.copy idx e } })
    ∧ (mcUp s = true → s.cfgDone = true → x.be = 0xF → freeStg (s.ext.stg.length + 1) 0 s.ext.stg = none →
        exec (.extStageCmd .mc x) s = .next { s with ext := { s.ext with wait := s.ext.wait ++ [(idx, e, false)] } }))
  ∧ (∀ (x : WrVal) (s : State),
    (mcUp s = true → x.be = 0xF → x.v.getLsbD 0 = true → exec (.extFlip .mc x) s = .next { s with ext := { s.ext with flip := true } })
    ∧ (∀ f, f ≠ .mc ∨ mcUp s = false ∨ x.be ≠ 0xF ∨ x.v.getLsbD 0 = false → exec (.extFlip f x) s = .next s))
  ∧ (∀ s : State, s.beat.flipDue = true → atEdge s = true → mcUp s = true → smWf none s.ext.stg = true →
    ∃ v, exec .extFlipEffect s = .next (mcWork v) ∧ v.ext.epoch = s.ext.epoch + 1 ∧ v.ext.due = [] ∧ v.beat.flipDue = false
      ∧ (∀ k g, k ∈ s.ext.due → smGet none s.ext.stg k = some g → g.retained = false → (extAt s g.idx).rheld = false →
          (∀ j ∈ s.ext.due.takeWhile (· != k), ∀ h, smGet none s.ext.stg j = some h → h.retained = false → h.idx ≠ g.idx) →
          extAt v g.idx = { g.ent with vepoch := s.ext.epoch + 1, rheld := true, rslot := k }
          ∧ smGet none v.ext.stg k = some ⟨g.idx, extAt s g.idx, true⟩)
      ∧ (∀ idx, ((extAt s idx).rheld = true ∨ ∀ j ∈ s.ext.due, ∀ h, smGet none s.ext.stg j = some h → h.retained = true ∨ h.idx ≠ idx) →
          extAt v idx = extAt s idx)
      ∧ v.spad = s.spad ∧ v.stk = s.stk ∧ v.cores = s.cores)
  ∧ (∀ s : State, s.beat.flipDue = false ∨ atEdge s = false ∨ mcUp s = false → exec .extFlipEffect s = .next s)
  ∧ (∀ (idx : Nat) (s : State), 2 ≤ (smGet noErr s.ext.errs (idx / 2)).n → 2 ≤ idx →
    (((if idx % 2 = 0 then idx + 1 else idx - 1) ∈ s.ext.half) → smGet noErr (rewritten s idx).ext.errs (idx / 2) = noErr
      ∧ ∃ r, (rewritten s idx).flt = (enterRec r s).flt ∧ r.code = FCode.extRestored.code ∧ r.detail = idx / 2 * 2 ^ 16)
    ∧ ((if idx % 2 = 0 then idx + 1 else idx - 1) ∉ s.ext.half → (rewritten s idx).ext.errs = s.ext.errs ∧ (rewritten s idx).flt = s.flt
        ∧ idx ∈ (rewritten s idx).ext.half))
  ∧ (∀ s : State, atEdge s = true →
    ∃ v, exec .retainedRelease s = .next (mcWork v)
      ∧ (∀ idx, (extAt s idx).rheld = true → before16 (oldestEpoch s) (extAt s idx).vepoch = false →
          extAt v idx = { extAt s idx with rheld := false, rslot := 0 } ∧ smGet none v.ext.stg (extAt s idx).rslot = none)
      ∧ (∀ idx, ((extAt s idx).rheld = false ∨ before16 (oldestEpoch s) (extAt s idx).vepoch = true) → extAt v idx = extAt s idx)
      ∧ v = { s with ext := v.ext })

/-- HOST_READ_COMPLETION (R134, R263, R278) and DIGEST_LEAF_DONE (R290, R291, R383, R384). The bytes of a landing's read reach it, and a failed one retires it with
HOST_ABORT. A completed FetchAdd leaves one fewer, and after the last its command leaves. A leaf in the stacks finds management slots and joins its job, as does one of
host memory, and the last leaf ends the job and gives its command the root; a Granule that cannot be corrected fails the command. The leaves of an input are hashed when
nothing of the partition can change what they read (R386), those of a seal while the MC runs (R22). -/
def Obligations.HostReadsAndDigestsComplete : Prop :=
  (∀ (id : Nat) (given : List Byte) (l : Landing) (s : State),
    s.lands.find? (fun l => l.id == id && l.host.isSome && l.need != 0) = some l → twinSide s = false → given.length = l.data.length →
    ∃ u, exec (.hostReadCompletion id (.ok given)) s = .next u
      ∧ u.lands = s.lands.map (fun x => if x.id = id then { x with data := given, need := 0 } else x)
      ∧ u = { s with lands := u.lands, posts := u.posts })
  ∧ (∀ (id : Nat) (r : HostCpl) (l : Landing) (s : State),
    s.lands.find? (fun l => l.id == id && l.host.isSome && l.need != 0) = some l → (∀ b, r ≠ .ok b) →
    ∃ u, exec (.hostReadCompletion id r) s = .next u
      ∧ u = dropLands (raiseLand s l.loc l.part l.blk ⟨.hostAbort, l.host.getD 0, s.now⟩) s.now (fun x => x.id == id)
      ∧ u.lands = s.lands.filter (fun x => x.id ≠ id) ∧ u.spad = s.spad ∧ u.stk.mem = s.stk.mem)
  ∧ (∀ (id n st : Nat) (d : List Byte) (a : Atom) (x : QSlot) (c : Cmd) (rest : List Cmd) (s : State), slotsWf s = true →
    s.lands.find? (fun l => l.id == id && l.host.isSome && l.need != 0) = none → s.host.atoms.find? (fun a => a.id == id) = some a →
    queueAt s a.q = some x → x.cmds = c :: rest → c.seq = a.seq → c.stage = .counting (n + 1 + 65536 * st) → n + 1 < 65536 →
    (∀ e ∈ rest, e.seq ≠ c.seq ∧ ∀ m, e.stage ≠ .counting m) →
    ∃ v y, exec (.hostReadCompletion id (.ok d)) s = .next (finishOp v) ∧ queueAt v a.q = some y
      ∧ v.host.atoms = s.host.atoms.filter (fun b => b.id ≠ id)
      ∧ (0 < n → y.cmds = { c with stage := .counting (n + 65536 * st) } :: rest) ∧ (n = 0 → y.cmds = rest
          ∧ v.host.sigs = s.host.sigs ++ (if st = 0 ∧ c.hdr.sigen = true then [⟨c.hdr.evt, c.hdr.evval⟩] else []))
      ∧ v = { s with host := v.host })
  ∧ (∀ (data bs : List Byte) (j : Job) (c : Cmd) (s : State), slotsWf s = true → s.host.jobs.find? (fun x => x.id == j.id) = some j →
    s.host.jobs.find? (fun x => x.q == j.q && x.seq == j.seq) = some j → cmdAt s j.q j.seq = some c → j.len ≠ 0 → mayHash s j = true →
    (if j.host then twinSide s = false ∧ bs = data ∧ data.length = min 4096 (j.len - 4096 * j.leaves.length)
      else s.stk.out = false ∧ leafSlots s j j.leaves.length = true
        ∧ bs = stkBytes s j.key (leafSpan j j.leaves.length).1 (leafSpan j j.leaves.length).2
        ∧ bs.length = min 4096 (j.len - 4096 * j.leaves.length)
        ∧ ∀ g ∈ stkSpan (leafSpan j j.leaves.length).1 (leafSpan j j.leaves.length).2, (smGet noErr s.stk.errs g).n ≠ 2
            ∧ (smGet noErr s.stk.errs g).n ≠ 3) →
    ((j.leaves.length + 1) * 4096 < j.len →
      ∃ u, exec (.digestLeafDone j.id data) s = .next u ∧ u.host.jobs = s.host.jobs.map (fun x =>
          if x.id = j.id then { j with leaves := j.leaves ++ [leafDigest bs] } else x)
        ∧ u = { s with host := u.host, posts := u.posts, flt := u.flt })
    ∧ (j.len ≤ (j.leaves.length + 1) * 4096 → j.kind = 0 →
      ∃ v d, exec (.digestLeafDone j.id data) s = .next (mcWork v) ∧ v.host.jobs = s.host.jobs.filter (fun x => x.id ≠ j.id)
        ∧ cmdAt v j.q j.seq = some d ∧ d.jobs = c.jobs - 1
        ∧ d.ins = smSet 0 c.ins j.obj (rootOf (j.leaves ++ [leafDigest bs]) j.len)
        ∧ v = { s with host := v.host, posts := v.posts, flt := v.flt }))
  ∧ (∀ (data : List Byte) (g : Nat) (j : Job) (c : Cmd) (s : State), slotsWf s = true → s.host.jobs.find? (fun x => x.id == j.id) = some j →
    s.host.jobs.find? (fun x => x.q == j.q && x.seq == j.seq) = some j → cmdAt s j.q j.seq = some c → j.host = false → s.stk.out = false → mayHash s j = true →
    leafSlots s j j.leaves.length = true →
    (stkBytes s j.key (leafSpan j j.leaves.length).1 (leafSpan j j.leaves.length).2).length = min 4096 (j.len - 4096 * j.leaves.length) →
    g ∈ stkSpan (leafSpan j j.leaves.length).1 (leafSpan j j.leaves.length).2 →
    ((smGet noErr s.stk.errs g).n = 2 ∨ (smGet noErr s.stk.errs g).n = 3) →
    ∃ u d idx, exec (.digestLeafDone j.id data) s = .next u ∧ cmdAt u j.q j.seq = some d ∧ d.stage = .ended 1 idx
      ∧ (∀ x ∈ u.host.jobs, ¬(x.q = j.q ∧ x.seq = j.seq)))
  ∧ (∀ (data : List Byte) (j : Job) (s : State), s.host.jobs.find? (fun x => x.id == j.id) = some j → mayHash s j = false →
    exec (.digestLeafDone j.id data) s = .next s)

/-! ### Registers and mailboxes (chapters 00, 10, 11, 18) -/

/-- REG_WRITE, GLB_APPLY, BEAT_BOUNDARY_APPLY and BEAT_COUNT_LO_READ (R14 to R16, R235, R415, R418). A write changes the staged value of the bits its writer may write and
no applied value; one without all byte enables, not aligned, or of another size than 4 or 8 bytes does nothing, and so does one of the host before CFG_DONE or of an MC
that is stopped; one of 8 bytes is two of 4, the lower offset first. GLB_APPLY, taken from CFG_DONE on (log 35), captures every staged value. At the boundary after its Beat the values captured become the applied
ones, GLB_LAST_APPLY holds the Beat's low word, and a PART_CORESn value that is no rectangle of the build is refused with PART_ERR. The read of BEAT_COUNT_LO answers
the low word and latches the high word, which the same requester then reads. -/
def Obligations.RegistersAreStagedAndApplied : Prop :=
  (∀ (f : Func) (off : Nat) (v : W32) (s : State),
    (∀ be, be ≠ 0xF ∨ off % 4 ≠ 0 → exec (.regWrite f off v (.dword be)) s = .next s)
    ∧ (∀ n, exec (.regWrite f off v (.other n)) s = .next s)
    ∧ (∀ be hi, off % 8 ≠ 0 → exec (.regWrite f off v (.qword be hi)) s = .next s)
    ∧ (∀ acc, fnOn s f = false → exec (.regWrite f off v acc) s = .next s)
    ∧ (∀ hi u, off % 8 = 0 → fnOn s f = true → exec (.regWrite f off v (.dword 0xF)) s = .next u →
        exec (.regWrite f off v (.qword 0xFF hi)) s = exec (.regWrite f (off + 4) hi (.dword 0xF)) u)
    ∧ (off % 4 = 0 → fnOn s f = true → ∃ u, exec (.regWrite f off v (.dword 0xF)) s = .next u ∧ (∀ o, liveReg u o = liveReg s o)
        ∧ stagedReg u off = (stagedReg s off &&& ~~~(stageMask s.build f off)) ||| (v &&& stageMask s.build f off)
        ∧ (∀ o, o ≠ off → stagedReg u o = stagedReg s o)
        ∧ (pfOn s f = true → off = rBEAT_STAT → u.beat = { s.beat with
            early := s.beat.early && !v.getLsbD 12, cnterr := s.beat.cnterr && !v.getLsbD 13, outwin := s.beat.outwin && !v.getLsbD 14 })
        ∧ (pfOn s f = true → off = rFLT_SUMMARY → u.flt.seen = s.flt.seen &&& ~~~(v.truncate 10))
        ∧ u = { s with regs := u.regs, mbx := u.mbx, beat := u.beat, host := u.host, flt := u.flt, ports := u.ports, ext := u.ext }))
  ∧ (∀ (f : Func) (w : WrVal) (s : State), smWf none s.regs.stage = true →
    (pfOn s f = true → s.cfgDone = true → w.be = 0xF → w.v.getLsbD 0 = true → ∃ u, exec (.glbApply f w) s = .next u ∧ u.regs.stage = [] ∧ u.regs.capt.isSome = true
        ∧ (∀ o, smGet none (u.regs.capt.getD []) o = (smGet none s.regs.stage o <|> smGet none (s.regs.capt.getD []) o))
        ∧ u.regs.due = s.regs.due ∧ (∀ o, liveReg u o = liveReg s o)
        ∧ (∀ o, stagedReg u o = stagedReg s o) ∧ u = { s with regs := u.regs })
    ∧ ((pfOn s f = false ∨ s.cfgDone = false ∨ w.be ≠ 0xF ∨ w.v.getLsbD 0 = false) → exec (.glbApply f w) s = .next s))
  ∧ (∀ s : State, s.beat.applyDue = true → atEdge s = true →
    ∃ u, exec .beatBoundaryApply s = .next u ∧ u.regs.due = none ∧ u.regs.capt = s.regs.capt ∧ u.regs.last = s.beat.b.truncate 32 ∧ u.beat.applyDue = false
      ∧ u.regs.stage = s.regs.stage
      ∧ (∀ o ∈ [rBEAT_LOAD, rBEAT_LOAD + 4, rBEAT_COMP, rTWN_CTL], liveReg u o = (captAt s o).getD (liveReg s o))
      ∧ (∀ p, p < 16 → liveReg u (rPART p 0x10) = (captAt s (rPART p 0x10)).getD (liveReg s (rPART p 0x10)))
      ∧ ((∀ p q, p < 16 → q < 16 → coresBad s.build (newReg s (rPART p 4) ++ newReg s (rPART p 0)) = false
            ∧ (p ≠ q → (newReg s (rPART p 4) ++ newReg s (rPART p 0)) &&& (newReg s (rPART q 4) ++ newReg s (rPART q 0)) = (0 : BitVec 64))) →
          ∀ p, p < 16 → liveReg64 u (rPART p 0) = newReg s (rPART p 4) ++ newReg s (rPART p 0)
            ∧ (newReg s (rPART p 4) ++ newReg s (rPART p 0) ≠ liveReg64 s (rPART p 0) →
                (getPart u p).want = maskCores (newReg s (rPART p 4) ++ newReg s (rPART p 0))))
      ∧ (∀ p, p < 16 → newReg s (rPART p 4) ++ newReg s (rPART p 0) ≠ liveReg64 s (rPART p 0) →
          coresBad s.build (newReg s (rPART p 4) ++ newReg s (rPART p 0)) = true →
          liveReg64 u (rPART p 0) = liveReg64 s (rPART p 0) ∧ (getPart u p).want = (getPart s p).want ∧ u.regs.partErr = true)
      ∧ (∀ p v, p < 16 → captAt s (rPART p 8) = some v → v.getLsbD 0 = true → (getPart s p).keySt = .empty → (getPart u p).grant = true)
      ∧ (∀ p v, p < 16 → captAt s (rPART p 8) = some v → v.getLsbD 0 = false → (getPart s p).keySt = .live → (getPart u p).release = true)
      ∧ u.spad = s.spad ∧ u.rows = s.rows ∧ u.stk = s.stk ∧ u.ext = s.ext)
  ∧ (∀ s : State, s.beat.applyDue = false ∨ atEdge s = false → exec .beatBoundaryApply s = .next s)
  ∧ (∀ (f : Func) (s : State), (fnOn s f = true → ∃ u, exec (.beatCountLoRead f) s = .next u ∧ u.posts = s.posts ++ [.answer (s.beat.b.truncate 32)]
      ∧ readReg u f 0x0010000C = BitVec.ofNat 32 (s.beat.b.toNat / 2 ^ 32) ∧ u = { s with beat := u.beat, posts := u.posts })
    ∧ (fnOn s f = false → exec (.beatCountLoRead f) s = .next s))

/-- Mailboxes (R284 to R287) and the MC's messages (R375, R404). A read of MBX_LOCKn by a function that sees the mailbox answers the owner and takes a free lock; zero from
the owner frees it; another's write sets DENY. TX takes a low and a high half and queues the word with its sender, or sets TXOVF; a read of RX's high half pops the
head word; a write without all byte enables does nothing. The MC takes words in order, appends a follower's repair entry to its position's area, read from flash where it
was not, or answers why not, and sets the scrub period within its limits. -/
def Obligations.MailboxesLockAndQueue : Prop :=
  (∀ (f : Func) (n : Nat) (x : Mbx) (s : State), fnOn s f = true → mbxOwn f n = true → x = getMbx s n →
    (∃ u, exec (.mbxLockRead f n) s = .next u ∧ getMbx u n = (if x.lock = 0 then { x with lock := senderId f } else x)
        ∧ u.posts = s.posts ++ [.answer (BitVec.ofNat 32 x.lock)] ∧ (∀ k, k ≠ n → getMbx u k = getMbx s k)
        ∧ u = { s with mbx := u.mbx, posts := u.posts })
    ∧ (∀ v : W32, (x.lock = senderId f → v = 0 → exec (.mbxLockWrite f n ⟨v, 0xF⟩) s = .next (setMbx s n { x with lock := 0 }))
        ∧ (x.lock = senderId f → v ≠ 0 → exec (.mbxLockWrite f n ⟨v, 0xF⟩) s = .next s)
        ∧ (x.lock ≠ senderId f → exec (.mbxLockWrite f n ⟨v, 0xF⟩) s = .next (setMbx s n { x with deny := true })))
    ∧ (∀ lo hi : W32, (x.lock = 0 ∨ x.lock = senderId f) → x.tx.length < 8 → ∃ u w, exec (.mbxTxWrite f n false ⟨lo, 0xF⟩) s = .next u
        ∧ exec (.mbxTxWrite f n true ⟨hi, 0xF⟩) u = .next w ∧ (getMbx w n).tx = x.tx ++ [(hi ++ lo, senderId f)] ∧ (getMbx w n).rx = x.rx
        ∧ (getMbx w n).lock = x.lock ∧ (∀ k, k ≠ n → getMbx w k = getMbx s k) ∧ w = { s with mbx := w.mbx })
    ∧ (∀ hi : W32, (x.lock = 0 ∨ x.lock = senderId f) → 8 ≤ x.tx.length → ∃ u, exec (.mbxTxWrite f n true ⟨hi, 0xF⟩) s = .next u
        ∧ (getMbx u n).tx = x.tx ∧ (getMbx u n).txovf = true ∧ u = { s with mbx := u.mbx })
    ∧ (∀ h v, x.lock ≠ 0 → x.lock ≠ senderId f → exec (.mbxTxWrite f n h ⟨v, 0xF⟩) s = .next (setMbx s n { x with deny := true }))
    ∧ (∀ w rest, x.rx = w :: rest → ∃ u, exec (.mbxRxRead f n) s = .next u ∧ getMbx u n = { x with rx := rest }
        ∧ u.posts = s.posts ++ [.answer (BitVec.ofNat 32 (w.1.toNat / 2 ^ 32))] ∧ u = { s with mbx := u.mbx, posts := u.posts })
    ∧ (x.rx = [] → exec (.mbxRxRead f n) s = .next { s with posts := s.posts ++ [.answer 0] }))
  ∧ (∀ (f : Func) (n : Nat) (w : WrVal) (hi : Bool) (s : State),
    (mbxOwn f n = false → fnOn s f = true → exec (.mbxLockRead f n) s = .next { s with posts := s.posts ++ [.answer 0] }
      ∧ exec (.mbxRxRead f n) s = .next { s with posts := s.posts ++ [.answer 0] })
    ∧ (fnOn s f = false → exec (.mbxLockRead f n) s = .next s ∧ exec (.mbxRxRead f n) s = .next s)
    ∧ ((mbxOwn f n = false ∨ fnOn s f = false ∨ w.be ≠ 0xF) → exec (.mbxLockWrite f n w) s = .next s ∧ exec (.mbxTxWrite f n hi w) s = .next s))
  ∧ (∀ (n : Nat) (w : BitVec 64 × Nat) (rest : List (BitVec 64 × Nat)) (s : State), n < 32 → mcUp s = true → (getMbx s n).tx = w :: rest →
    ∃ u, exec (.mbxTake n) s = .next u ∧ getMbx u n = { getMbx s n with tx := rest } ∧ (mcWords u n).getLast? = some w.1
      ∧ u = { s with mbx := u.mbx, mc := u.mc })
  ∧ (∀ (n pos : Nat) (w0 w1 w2 : W64) (fl : RelayFlash) (fz : Fuses) (e : RepEnt) (st : Nat) (old live : List RepEnt) (s : State),
    mcHas s n [w0, w1, w2] = true → w0.toNat % 65536 = 0x0101 → pos = w0.toNat / 65536 % 8 → s.boot.fuses = some fz → fz.leader = true →
    (getMbx s n).rx.length < 8 → e = parseRep (natLe 8 w1.toNat ++ natLe 8 w2.toNat) → old = (areaAt (readArea s pos fl.area) pos).ents →
    live = (if old.length < areaCap s then old else liveEnts old) → live.length < areaCap s → st = (if e.crcOk then (if fl.ok then 0 else 1) else 2) →
    ∃ u, exec (.repairRelay n w0 w1 w2 fl) s = .next u ∧ (getMbx u n).rx = (getMbx s n).rx ++ [(BitVec.ofNat 64 (0x0101 + st * 65536), 0x8000)]
      ∧ (st = 0 → (areaAt u pos).ents = live ++ [e]) ∧ (st ≠ 0 → u.mc.areas = s.mc.areas)
      ∧ (∀ k, k ≠ pos → areaAt u k = areaAt s k) ∧ u = { s with mbx := u.mbx, mc := u.mc })
  ∧ (∀ (n x : Nat) (w0 : W64) (s : State), mcHas s n [w0] = true → w0.toNat % 65536 = 0x0201 → x = w0.toNat / 65536 % 64 →
    (getMbx s n).rx.length < 8 →
    ∃ u, exec (.scrubPeriod n w0) s = .next u ∧ u.stk = { s.stk with period := if 28 ≤ x ∧ x ≤ 40 then x else s.stk.period }
      ∧ (getMbx u n).rx = (getMbx s n).rx ++ [(BitVec.ofNat 64 (0x0201 + (if 28 ≤ x ∧ x ≤ 40 then 0 else 2) * 65536), 0x8000)]
      ∧ u = { s with mbx := u.mbx, mc := u.mc, stk := u.stk })

/-! ### The Beat (chapters 01, 05, 10) -/

/-- BEAT_CTL_ACQUIRE, ACQUISITION_START, ACQUISITION_TIMEOUT, BEAT_LOST, PIN_FRAME and BEAT_BLOCK (R238, R239, R245 to R247, R318). ACQUIRE starts an acquisition, which begins at a
boundary with no Segment running, erases the link keys, the offered ones and the twin key, and is LOST with its record after 1,024 Beats without a source; so is a
hold-over of 1,024 Beats. A pin frame as the rules build it gives the count it carries, which an acquisition takes; in LOCKED another count than the engine's own sets
the sticky bit with BEAT_COUNT. A marker of the upstream port does likewise, implies its edge and gives the hop count; a Beat block with a bad CRC only dates the frames
after it. -/
def Obligations.BeatSourcesAndAcquisition : Prop :=
  (∀ (f : Func) (w : WrVal) (s : State),
    (pfOn s f = true → w.be = 0xF → w.v.getLsbD 0 = true → s.beat.st ≠ .acquiring →
      exec (.beatCtlAcquire f w) s = .next { s with beat := { s.beat with st := .acquiring, acq := some ⟨false, false, none, none, none, none⟩ } })
    ∧ ((pfOn s f = false ∨ w.be ≠ 0xF ∨ w.v.getLsbD 0 = false ∨ s.beat.st = .acquiring) → exec (.beatCtlAcquire f w) s = .next s))
  ∧ (∀ s : State, (atEdge s = false ∨ acqDue s = false) → exec .acquisitionStart s = .next s)
  ∧ (∀ (q : Acq) (s : State), s.beat.acq = some q → q.due = true → q.taken = none → atEdge s = true →
    ∃ u, exec .acquisitionStart s = .next u ∧ u.twin.key = none ∧ (∀ p, (getPart u p).link = none)
      ∧ (∀ p, (getPort u p).offer = none)
      ∧ (∀ src, src ≠ .loc → pickSource q 0 (sources s) = some src →
          u.beat = { s.beat with acq := some { q with due := false, a := some s.beat.b, taken := some src } })
      ∧ (pickSource q 0 (sources s) = none → u.beat = { s.beat with acq := some { q with due := false, a := some s.beat.b } })
      ∧ (pickSource q 0 (sources s) = some .loc →
          u.beat.st = .locked ∧ u.beat.active = .loc ∧ u.beat.acq = none ∧ u.beat.b = liveReg64 s rBEAT_LOAD)
      ∧ u.spad = s.spad ∧ u.stk = s.stk ∧ u.regs = s.regs
      ∧ (∀ c, (getCore u c).strm = (getCore s c).strm ∧ (getCore u c).ent = (getCore s c).ent))
  ∧ (∀ (q : Acq) (a : W64) (s : State), s.beat.acq = some q → q.a = some a → q.taken = none →
    ((s.beat.b - a).toNat < 1024 → exec .acquisitionTimeout s = .next s)
    ∧ (1024 ≤ (s.beat.b - a).toNat → ∃ r, exec .acquisitionTimeout s
          = .next (enterRec r { s with beat := { s.beat with st := .lost, acq := none } }) ∧ r.code = FCode.beatLost.code))
  ∧ (∀ s : State, s.beat.st = .holdover →
    (1024 ≤ s.beat.holdcnt → ∃ r, exec .beatLost s = .next (enterRec r { s with beat := { s.beat with st := .lost } })
      ∧ r.code = FCode.beatLost.code ∧ r.sev = 3)
    ∧ (s.beat.holdcnt < 1024 → exec .beatLost s = .next s))
  ∧ (∀ b : Nat, b < 2 ^ 64 → b % 128 = 0 → frameCount ((List.range 128).map (fun k => pinSymbol (b + k))) = some b)
  ∧ (∀ h : Nat, (h < 1536 → symbolOf h = .zero) ∧ (1536 ≤ h → h ≤ 2560 → symbolOf h = .marker) ∧ (2560 < h → symbolOf h = .one))
  ∧ (∀ (first : Nat) (rest : List Nat) (n : Nat) (q : Acq) (s : State),
    ((rest.length ≠ 127 ∨ frameCount ((first :: rest).map symbolOf) = none) → exec (.pinFrame first rest) s = .next s)
    ∧ (rest.length = 127 → frameCount ((first :: rest).map symbolOf) = some n →
      (s.beat.st = .acquiring → s.beat.acq = some q → q.a.isSome = true → q.taken = none → .pin ∈ sources s →
        exec (.pinFrame first rest) s
          = .next { s with beat := { s.beat with acq := some { q with pin := some (BitVec.ofNat 64 n + 128) } } })
      ∧ (s.beat.st = .locked →
        (BitVec.ofNat 64 n = s.beat.b - 127 → exec (.pinFrame first rest) s = .next s)
        ∧ (BitVec.ofNat 64 n ≠ s.beat.b - 127 → ∃ r, exec (.pinFrame first rest) s
              = .next (enterRec r { s with beat := { s.beat with cnterr := true } }) ∧ r.code = FCode.beatCount.code))))
  ∧ (∀ (port c : Nat) (own : W64) (bytes : List Byte) (offer : Option LinkKey) (s : State), port < s.build.nbraid → (getPort s port).st = 2 →
    bytes.length = 64 → own = blockBeat s (getPort s port).delay c →
    (crc32c (bytes.take 60) ≠ BitVec.ofNat 32 (leNat (bytes.drop 60)) →
      exec (.beatBlock port c bytes offer) s = .next (modPort s port (fun x => { x with rxB := own })))
    ∧ (crc32c (bytes.take 60) = BitVec.ofNat 32 (leNat (bytes.drop 60)) → leNat (bytes.take 1) % 2 = 1 →
        beatSrc s / 2 ^ 8 % 16 = port → leNat (bytes.drop 1) % 16 ≠ 0 → s.beat.st = .locked → leNat (bytes.take 1) / 2 % 2 = 0 →
        ∃ u, exec (.beatBlock port c bytes offer) s = .next u
          ∧ u.beat.mark = some (impliedEdge (getPort s port).delay c, leNat (bytes.drop 1) % 16)
          ∧ u.beat.hops = (if s.beat.active = .marker then leNat (bytes.drop 1) % 16 else s.beat.hops)
          ∧ (u.beat.cnterr = true ↔ s.beat.cnterr = true ∨ leNat ((bytes.drop 2).take 2) ≠ own.toNat % 65536)
          ∧ (getPort u port).rxB = own ∧ (∀ k, offer = some k → (getPort u port).offer = some k)
          ∧ u = { s with beat := u.beat, ports := u.ports, flt := u.flt }))

/-- BEAT_EDGE, BEAT_EDGE_TIMEOUT, HOLDOVER_EDGE (R9, R31, R180, R235, R241 to R245). In LOCKED an edge of the source in use in the window ends the Beat there: the count
rises by one and the length is measured; an early one is discarded, with BEAT_EARLY and HOLDOVER; none by cycle 4,127 ends the Beat at 4,128 in HOLDOVER. There an
edge of any source outside the window only sets its sticky bit, the fourth in a row locks again, on its own source where that one is lower in preference, and the
accumulator ends a Beat of 4,064 to 4,128 cycles that no edge ended. In ACQUIRING the first edge of a source that was taken locks on it, with the count that its frame or
marker carried on to the Beat that begins and its hop count, and the local source locks at once with BEAT_LOAD. An edge folds the row uses before it into the scratchpad and
changes no row as read from it on. -/
def Obligations.BeatEdgesCountAndFold : Prop :=
  (∀ (src : BSrc) (c : Nat) (s : State), edgeCycle s src c = none → exec (.beatEdge src c) s = .next s)
  ∧ (∀ (src : BSrc) (c e : Nat) (s : State), s.beat.acq = none → s.held = [] → edgeCycle s src c = some e → e ≤ 4127 →
    (s.beat.st = .locked → src = s.beat.active → 4064 ≤ e → ∃ u, exec (.beatEdge src c) s = .next u
        ∧ u.beat = { s.beat with
            b := s.beat.b + 1, start := s.beat.start + e, lens := (e :: s.beat.lens).take 256, edgeoff := (e : Int) - 4096,
            acc := (s.beat.start + e) * 256, mark := none, flipDue := s.beat.flipDue || s.ext.flip,
            applyDue := s.regs.capt.isSome || s.regs.due.isSome }
        ∧ u.now = s.beat.start + e ∧ (∀ core k, (getStrm u core k).shift = 0 ∧ (getStrm u core k).realign = none)
        ∧ (s.host.flr = [] → (∀ o, liveReg u o = liveReg s o) ∧ u.regs.capt = none
            ∧ u.regs.due.isSome = (s.regs.capt.isSome || s.regs.due.isSome)))
    ∧ (s.beat.st = .locked → src = s.beat.active → e < 4064 → ∃ r, exec (.beatEdge src c) s = .next (enterRec r { s with
          beat := { s.beat with st := .holdover, early := true, good := 0, alt := [], altHit := [] } })
        ∧ r.code = FCode.beatEarly.code)
    ∧ (s.beat.st = .locked → src ≠ s.beat.active → exec (.beatEdge src c) s = .next s)
    ∧ (s.beat.st = .holdover → (src = s.beat.active ∨ src ∈ sources s) → e < 4064 →
        exec (.beatEdge src c) s = .next { s with beat := { s.beat with outwin := true } })
    ∧ (s.beat.st = .holdover → src ≠ s.beat.active → src ∈ sources s → lowerPref s src = true → src ∉ s.beat.altHit → 4064 ≤ e →
        (altCount s.beat src < 3 → exec (.beatEdge src c) s = .next { s with beat := { s.beat with
            alt := (src, altCount s.beat src + 1) :: s.beat.alt.filter (fun a => a.1 != src), altHit := src :: s.beat.altHit } })
        ∧ (3 ≤ altCount s.beat src → ∃ u, exec (.beatEdge src c) s = .next u ∧ u.beat.st = .locked ∧ u.beat.active = src
            ∧ u.beat.hops = markHops s src ∧ u.beat.holdcnt = 0 ∧ u.beat.b = s.beat.b + 1 ∧ u.beat.start = s.beat.start + e))
    ∧ (s.beat.st = .holdover → src = s.beat.active → 4064 ≤ e → ∃ u, exec (.beatEdge src c) s = .next u
        ∧ u.beat.b = s.beat.b + 1 ∧ u.beat.start = s.beat.start + e
        ∧ (3 ≤ s.beat.good → u.beat.st = .locked ∧ u.beat.active = src ∧ u.beat.holdcnt = 0)
        ∧ (s.beat.good < 3 → u.beat.st = .holdover ∧ u.beat.good = s.beat.good + 1 ∧ u.beat.holdcnt = min 1024 (s.beat.holdcnt + 1)))
    ∧ (s.beat.st = .lost → exec (.beatEdge src c) s = .next s))
  ∧ (∀ (src : BSrc) (c e : Nat) (q : Acq) (n : W64) (hops : Nat) (s : State), s.beat.st = .acquiring → s.beat.acq = some q → s.held = [] →
    edgeCycle s src c = some e → e ≤ 4127 → q.taken = some src →
    ((src = .pin ∧ q.pin = some n ∧ hops = 0)
      ∨ (src = .marker ∧ ∃ (m : W64) (at_ : Int), q.marker = some (m, at_, hops)
          ∧ n = m + BitVec.ofInt 64 ((((s.beat.start + e : Nat) : Int) - at_ + 2048) / 4096))) →
    ∃ u, exec (.beatEdge src c) s = .next u ∧ u.beat.st = .locked ∧ u.beat.active = src ∧ u.beat.hops = hops ∧ u.beat.b = n
      ∧ u.beat.start = s.beat.start + e ∧ u.beat.acq = none ∧ u.beat.holdcnt = 0)
  ∧ (∀ (q : Acq) (s : State), s.beat.st = .acquiring → s.beat.acq = some q → q.taken = none → s.held = [] → s.beat.active ≠ .loc →
    ∃ u, exec .beatEdgeTimeout s = .next u ∧ u.beat.start = s.beat.start + 4128
      ∧ (q.a = none → u.beat.b = s.beat.b + 1 ∧ u.beat.st = .acquiring
          ∧ u.beat.acq = some { q with stop := true, due := !u.parts.any (fun p => p.2.seg.isSome) })
      ∧ (∀ a, q.a = some a → pickSource q (s.beat.b + 1 - a).toNat (sources s) = some .loc →
          u.beat.st = .locked ∧ u.beat.active = .loc ∧ u.beat.acq = none ∧ u.beat.b = liveReg64 s rBEAT_LOAD)
      ∧ (∀ a src, q.a = some a → src ≠ .loc → pickSource q (s.beat.b + 1 - a).toNat (sources s) = some src →
          u.beat.st = .acquiring ∧ u.beat.acq = some { q with stop := true, due := false, taken := some src }))
  ∧ (∀ s : State, s.beat.acq = none → s.held = [] →
    (s.beat.active = .loc → exec .beatEdgeTimeout s = .next s)
    ∧ (s.beat.active ≠ .loc → s.beat.st = .locked → ∃ u, exec .beatEdgeTimeout s = .next u ∧ u.beat.st = .holdover
        ∧ u.beat.b = s.beat.b + 1 ∧ u.beat.start = s.beat.start + 4128 ∧ u.beat.good = 0
        ∧ u.beat.holdcnt = min 1024 (s.beat.holdcnt + 1) ∧ u.beat.active = s.beat.active)
    ∧ (s.beat.st = .locked → exec .holdoverEdge s = .next s)
    ∧ (s.beat.st = .holdover → ∃ u, exec .holdoverEdge s = .next u ∧ u.beat.st = .holdover ∧ u.beat.b = s.beat.b + 1
        ∧ s.beat.start + 4064 ≤ u.beat.start ∧ u.beat.start ≤ s.beat.start + 4128 ∧ u.beat.acc = s.beat.acc + beatPeriod s
        ∧ (s.beat.start * 256 + 4064 * 256 ≤ u.beat.acc → u.beat.acc < s.beat.start * 256 + 4129 * 256 → u.beat.start = u.beat.acc / 256)
        ∧ u.beat.holdcnt = min 1024 (s.beat.holdcnt + 1)))
  ∧ (∀ (s : State) (t g d : Nat), usesOrdered s = true →
    (∀ n, ∀ x ∈ (getRow s n).uses, ∀ off bs, (x.2 = .write off bs ∨ x.2 = .land off bs) → off + bs.length ≤ 128) → t ≤ d →
    { rowView (commitRows s t) g d with wr := none } = { rowView s g d with wr := none })

/-- GUARD_HOLD (R29, R116, R117) and REALIGN_CHECK (R180, R181), where no command waits. Every Torte of a running Segment that was active at (b, 4031) begins a hold at
(b, 4032), at the density its Segment gives where the core kept the ramp rule. At the check before a realign point a group all of whose members stand at the barrier with
their counters as declared has each counter lowered by its declared value; a member that is missing raises DRIFT, which aborts the Segment. -/
def Obligations.GuardHoldsAndRealignChecks : Prop :=
  (∀ s : State, s.now ≤ s.beat.start + 4032 → s.held = [] →
    (∀ core ∈ busyCores s, passDue (getCore s core) (s.beat.start + 4127) = false) →
    ∃ u, exec .guardHold s = .next u ∧ u.now = s.beat.start + 4032
      ∧ (∀ core ∈ busyCores s, ∀ a ∈ (getCore s core).acts, a.torte < 8 → a.start < s.beat.start + 4032 → s.beat.start + 4032 ≤ a.stop →
          ∃ h ∈ (getCore u core).acts, h.torte = a.torte ∧ h.start = s.beat.start + 4032 ∧ h.stop = s.beat.start + 4128 ∧ h.kind = 3
            ∧ ((∀ n ∈ busyCores s, (rampCheck s n (s.beat.start + 4032)).2 = none) → h.mdens = holdDens s core))
      ∧ (∀ core, (getCore u core).ent = (getCore s core).ent ∧ (getCore u core).strm = (getCore s core).strm) ∧ sameOutside s u)
  ∧ (∀ (p g : Nat) (seg : Seg) (gr : RGroup) (s : State), runningSeg s p = some seg → seg.decl.groups[g]? = some gr → s.held = [] →
    beforePoint gr seg s.beat.b = true → s.now ≤ s.beat.start + 4040 →
    ((∀ m ∈ gr.members, ∃ c, (getStrm s ((coreAt s p m.1).getD 0) m.2).realign = some (g, c) ∧ c ≤ s.beat.start + 4040) →
      (∀ x ∈ gr.ctrs, seenAt (getCtr s ((coreAt s p x.1).getD 0) x.2.1) (s.beat.start + 4040) = x.2.2) →
      (gr.ctrs.map (fun x => ((coreAt s p x.1).getD 0, x.2.1))).Nodup →
      ∃ u, exec (.realignCheck p g) s = .next u
        ∧ (∀ x ∈ gr.ctrs, ∀ d, s.beat.start + 4043 ≤ d → seenAt (getCtr u ((coreAt s p x.1).getD 0) x.2.1) d
            = seenAt (getCtr s ((coreAt s p x.1).getD 0) x.2.1) d - x.2.2)
        ∧ u.parts = s.parts ∧ u.flt = s.flt ∧ sameOutside s u)
    ∧ ((∃ m ∈ gr.members, ∀ c, (getStrm s ((coreAt s p m.1).getD 0) m.2).realign = some (g, c) → s.beat.start + 4040 < c) →
      ∃ u r, exec (.realignCheck p g) s = .next u ∧ r.code = FCode.drift.code ∧ u.flt = (enterRec r s).flt
        ∧ (getPart u p).seg.map Seg.abort = some (some ⟨idxOf s (enterRec r s), recKey r, s.beat.b⟩) ∧ u.cores = s.cores ∧ sameOutside s u))

/-! ### Segments (chapters 01, 07, 11) -/

/-- SEGMENT_START (R29, R163, R168, R175, R183, R229 to R231, R253, R265, R321) and DESCRIPTOR_POP (R160, R161). At a boundary the picked RUN's next Segment starts
where its checks pass: its cores hold the argument block's S values, the declared L, AN and counter values, the seeds in SD, their code sections with the location map, and
nothing else of an earlier Segment, its ports the slot tables of the image, and no row changes; a check that fails fails the command, and so does a start Beat that is
missed. A timed engine at its start point, or an asynchronous one once free, takes its head descriptor: its P values, an empty loop stack and a running block; a timed
engine with no descriptor raises SEG_OVERRUN. A cycle above 4,127 is no point (R9). -/
def Obligations.SegmentsAndBlocksStart : Prop :=
  (∀ (p q : Nat) (prios : List (Nat × Nat)) (c : Cmd) (b : RunBody) (ab : ArgBlk) (pr : Prog) (d : SegDecl) (bytes : Nat → Nat → List Byte)
    (s s0 : State), s0 = prios.foldl setPriority s → slotsWf s = true → atEdge s = true →
    pickLaunch s0 p = some (q, c) → (∀ x ∈ missedAt s0 p, x = (q, c.seq)) → cmdAt s q c.seq = some c → c.body = .run b ab pr →
    pr.tabs.segs[c.segIdx]? = some d → bytes = progBytes s p (c.hdr.tflags.getLsbD 2) pr.img b →
    (launchFault s0 p pr d = none → (getPart s p).cores.Nodup →
      (c.hdr.tflags.getLsbD 2 = true ∨ ∃ e, lookup s (progHandle b) p s.ext.epoch 0 256 false = .ok e
        ∧ ∀ g ∈ stkSpan e.addr (min e.size pr.hdr.length), (smGet noErr s.stk.errs g).n ≠ 2 ∧ (smGet noErr s.stk.errs g).n ≠ 3) →
      ∃ u g e, exec (.segmentStart ⟨p, prios⟩) s = .next u ∧ (getPart u p).seg = some g
        ∧ g.q = q ∧ g.seq = c.seq ∧ g.idx = c.segIdx ∧ g.beat = s.beat.b ∧ g.start = s.beat.start ∧ g.epoch = s.ext.epoch ∧ g.decl = d
        ∧ g.limit = segLimit s p ∧ g.prec = c.hdr.tflags.toNat % 4 ∧ g.cnt = zeroCounts ∧ g.roots = [] ∧ g.abort = none ∧ g.taint = false
        ∧ cmdAt u q c.seq = some e ∧ e.stage = .running ∧ e.beat0 = some (c.beat0.getD s.beat.b)
        ∧ (∀ core ∈ (getPart s p).cores, (∀ n, n < 16 → smGet 0 (getCore u core).s n = ab.s.getD n 0)
            ∧ (∀ n, smGet 0 (getCore u core).l n = d.l.getD n 0) ∧ (∀ n, smGet 0 (getCore u core).an n = d.an.getD n 0)
            ∧ smGet 0 (getCore u core).sd 0 = b.seed ∧ (∀ n, n = 1 ∨ n = 2 ∨ n = 3 → smGet 0 (getCore u core).sd n = seedN b.seed n)
            ∧ (getCore u core).f = [] ∧ (getCore u core).ent = [] ∧ (getCore u core).ws = [] ∧ (getCore u core).waf = []
            ∧ (getCore u core).strm = [] ∧ (getCore u core).dig = [] ∧ (getCore u core).mmas = [] ∧ (getCore u core).segend = false
            ∧ (getCore u core).bank = (getCore s core).bank ∧ (getCore u core).holder = (getCore s core).holder)
        ∧ (∀ (n core : Nat), (getPart s p).cores[n]? = some core →
            (getCore u core).code = loadCode bytes pr.hdr.locmap n d (getCore s core).code
            ∧ (((d.sc.filter (fun x => x.1 == n)).map (fun x => x.2.1)).Nodup →
                ∀ k v, (n, k, v) ∈ d.sc → getCtr u core k = ⟨v, []⟩))
        ∧ ((d.tables.map STab.port).Nodup → ∀ t ∈ d.tables, (getPort u t.port).tab = some (loadTab bytes t))
        ∧ (∀ core, core ∉ (getPart s p).cores → getCore u core = getCore s core)
        ∧ u = { s with cores := u.cores, parts := u.parts, host := u.host, ports := u.ports, slots := u.slots, flt := u.flt, nextId := u.nextId })
    ∧ (∀ f, launchFault s0 p pr d = some f → exec (.segmentStart ⟨p, prios⟩) s = .next (rehash (failCmd s0 q c.seq f) p)))
  ∧ (∀ (p : Nat) (prios : List (Nat × Nat)) (s s0 : State), s0 = prios.foldl setPriority s →
    (atEdge s = false → exec (.segmentStart ⟨p, prios⟩) s = .next s)
    ∧ (atEdge s = true → pickLaunch s0 p = none → missedAt s0 p = [] → exec (.segmentStart ⟨p, prios⟩) s = .next s0)
    ∧ (∀ q n, atEdge s = true → pickLaunch s0 p = none → missedAt s0 p = [(q, n)] →
        exec (.segmentStart ⟨p, prios⟩) s = .next (failCmd s0 q n ⟨.startMissed, 0, s.now⟩)))
  ∧ (∀ (core c a t : Nat) (k : Strm) (g : Seg) (d : Desc) (rest : List Desc) (s : State), c ≤ 4127 → s.held = [] → runningSeg s (partOf s core) = some g → g.bulk = none →
    (getCore s core).holder.isSome = true → k ≠ .control → t = s.beat.start + c + (getStrm s core k).shift →
    (getStrm s core k).queue = d :: rest → a ≤ t → d.arrive ≤ t → (getStrm s core k).blk = none → (getStrm s core k).prevEnd ≤ t →
    ((isTimed k = true ∧ blocked s core k = false ∧ startPoint s g d (getStrm s core k).shift = some a ∧ a = t ∧ late s k t = false)
      ∨ (isTimed k = false ∧ startPoint s g d 0 = some a)) →
    ∃ u, exec (.descriptorPop core k c) s = .next u ∧ (getStrm u core k).queue = rest
      ∧ (getStrm u core k).blk = some ⟨t, d.sig, t, false⟩ ∧ (getStrm u core k).loops = []
      ∧ (∀ n, n < 4 → smGet 0 (getStrm u core k).p n = d.p.getD n 0)
      ∧ (∀ n, 4 ≤ n → smGet 0 (getStrm u core k).p n = smGet 0 (getStrm s core k).p n)
      ∧ (getStrm u core k).a = (getStrm s core k).a ∧ (getStrm u core k).d = (getStrm s core k).d
      ∧ (∀ j, j ≠ k → getStrm u core j = getStrm s core j) ∧ (∀ n, n ≠ core → getCore u n = getCore s n) ∧ sameOutside s u)
  ∧ (∀ (core c : Nat) (k : Strm) (g : Seg) (s : State), c ≤ 4127 → s.held = [] → runningSeg s (partOf s core) = some g → g.bulk = none →
    (getCore s core).holder.isSome = true → isTimed k = true → blocked s core k = false → (getStrm s core k).queue = [] →
    ∃ u r, exec (.descriptorPop core k c) s = .next u ∧ r.code = FCode.segOverrun.code ∧ u.flt = (enterRec r s).flt
      ∧ (getPart u (partOf s core)).seg.map Seg.abort = some (some ⟨idxOf s (enterRec r s), recKey r, s.beat.b⟩) ∧ u.cores = s.cores ∧ sameOutside s u)
  ∧ (∀ (core c : Nat) (k : Strm) (s : State), 4127 < c → exec (.descriptorPop core k c) s = .fault .noSuchPoint)

/-- SEGMENT_END, SEG_LIMIT and ABORT_COMPLETE (R32, R182 to R184, R274, R323, R397). Where every core has completed SEGEND, or a built-in Segment's bytes are all handed on, the
Segment ends: its counts, roots and taint join its command, which goes on or drains unless it is over, and its cores are cleared. Ports with tables first form the cells of the Beat, each
filled one with its rows as read at c_j − 2, and have no table in use from then on. A Segment past its limit raises SEG_LIMIT, which aborts it. An abort whose writes have landed, or
that has lasted 64 Beats, drops the partition's landings and reads still owed, and ends the command with its status. `boundary` is what every Segment boundary settles. -/
def Obligations.SegmentsEndAndAbort : Prop :=
  (∀ (p : Nat) (g : Seg) (c : Cmd) (s : State), slotsWf s = true → s.held = [] → runningSeg s p = some g → segOver s p g = true →
    (∀ port, port < s.build.nbraid → (getPort s port).part = p → (getPort s port).tab = none) → cmdAt s g.q g.seq = some c →
    ∃ v d, exec (.segmentEnd p) s = .next (boundary v p) ∧ (getPart v p).seg = none
      ∧ (g.bulk.isSome = true → (getPart v p).prevEnd = some s.beat.b) ∧ (getPart v p).prevEnd.isSome = true
      ∧ cmdAt v g.q g.seq = some d ∧ d.cnt = addCounts c.cnt (countsAll g) ∧ d.taint = (c.taint || g.taint) ∧ d.segIdx = g.idx + 1
      ∧ d.outs = c.outs ++ g.roots.map (fun r => (g.idx, r.1, r.2))
      ∧ (∀ x, g.bulk = some x → x.src = true → smGet 0 d.ins 0 = treeRoot x.data) ∧ (g.bulk = none → d.ins = c.ins)
      ∧ (isOver c = true → d.stage = c.stage)
      ∧ (∀ b ab pr, isOver c = false → c.body = .run b ab pr → d.stage = if g.idx + 1 < pr.tabs.segs.length then .queued else .drain)
      ∧ (isOver c = false → (∀ b ab pr, c.body ≠ .run b ab pr) → d.stage = .drain)
      ∧ (∀ n ∈ (getPart s p).cores, (getCore v n).ent = [] ∧ (getCore v n).strm = [] ∧ (getCore v n).s = [] ∧ (getCore v n).segend = false
          ∧ (getCore v n).bank = (getCore s n).bank)
      ∧ (∀ n, n ∉ (getPart s p).cores → getCore v n = getCore s n)
      ∧ v.spad = s.spad ∧ v.rows = s.rows ∧ v.stk = s.stk ∧ v.flt = s.flt)
  ∧ (∀ (p : Nat) (g : Seg) (c : Cmd) (s : State), slotsWf s = true → s.held = [] → runningSeg s p = some g → segOver s p g = true →
    cmdAt s g.q g.seq = some c →
    (∀ port t, port < s.build.nbraid → (getPort s port).part = p → (getPort s port).tab = some t → ∀ x ∈ (getPort s port).sent,
      canRead s x.core .move x.exp (spanReads x.local_ 256 (s.beat.start + sendPoint t.width x.cidx - 2))) →
    ∃ v d, exec (.segmentEnd p) s = .next (boundary v p) ∧ (getPart v p).seg = none ∧ cmdAt v g.q g.seq = some d
      ∧ d.cnt = addCounts c.cnt (countsAll g) ∧ d.segIdx = g.idx + 1
      ∧ (∀ port t, port < s.build.nbraid → (getPort s port).part = p → (getPort s port).tab = some t →
          (getPort v port).on = false ∧ (getPort v port).outW = t.width ∧ (getPort v port).sent = []
          ∧ (getPort v port).out.map Cell.cidx = sendCells t (beatOff (getPort s port) s.beat.b) none
          ∧ (((getPort s port).sent.map SentCell.cidx).Nodup → ∀ y ∈ (getPort v port).out,
              (∀ x ∈ (getPort s port).sent, x.cidx = y.cidx →
                y.valid = true ∧ y.payload = readSpan s x.core x.local_ 256 (s.beat.start + sendPoint t.width x.cidx - 2))
              ∧ ((∀ x ∈ (getPort s port).sent, x.cidx ≠ y.cidx) → y.valid = false)))
      ∧ v.spad = s.spad ∧ v.stk = s.stk)
  ∧ (∀ (p : Nat) (g : Seg) (s : State), runningSeg s p = some g →
    (segOver s p g = true → exec (.segLimit p) s = .next s)
    ∧ (segOver s p g = false → (s.held = [] → exec (.segmentEnd p) s = .next s)
      ∧ ((s.beat.b - g.beat).toNat < g.limit → exec (.segLimit p) s = .next s)
      ∧ (g.limit ≤ (s.beat.b - g.beat).toNat → ∃ u r, exec (.segLimit p) s = .next u
          ∧ r.code = FCode.segLimit.code ∧ r.part = some p ∧ u.flt = (enterRec r s).flt
          ∧ (getPart u p).seg.map Seg.abort = some (some ⟨idxOf s (enterRec r s), recKey r, s.beat.b⟩) ∧ u.cores = s.cores ∧ sameOutside s u)))
  ∧ (∀ (p : Nat) (g : Seg) (a : Abort) (c : Cmd) (s : State), slotsWf s = true → (getPart s p).seg = some g → g.abort = some a →
    cmdAt s g.q g.seq = some c →
    (writesOut s (segTag s p) = true → (s.beat.b - a.beat).toNat < 64 → exec (.abortComplete p) s = .next s)
    ∧ ((writesOut s (segTag s p) = false ∨ 64 ≤ (s.beat.b - a.beat).toNat) →
      ∃ v d f, exec (.abortComplete p) s = .next (boundary v p) ∧ (getPart v p).seg = none ∧ (getPart v p).prevEnd = some s.beat.b
        ∧ cmdAt v g.q g.seq = some d ∧ d.stage = .ended g.status f ∧ d.cnt = addCounts c.cnt (countsAll g)
        ∧ ((∀ port, port < s.build.nbraid → (getPort s port).part = p → (getPort s port).tab = none) → f = a.flt)
        ∧ (∀ l ∈ v.lands, l.part ≠ p) ∧ (∀ r ∈ v.stores, tagPart r.part ≠ p)
        ∧ (∀ r ∈ v.stk.greqs, ∀ bs, r.wr ≠ some (segTag s p, bs)) ∧ (∀ h ∈ v.held, h.core ∉ (getPart s p).cores)
        ∧ ((g.status = 1 ∨ g.status = 3) → (queueAt v g.q).map (fun x => x.qr.stopped) = some true)
        ∧ v.spad = s.spad ∧ v.stk.mem = s.stk.mem))

/-! ### Landings, stores and stack pipelines (chapters 06, 12) -/

/-- LANDING and STORE_READ (R27, R132 to R135, R150, R183, R277, R291), once what waits has gone on (`z`), where no pass of an MMA is due. A landing that is ready and next at its bank
writes its bytes in its cycle, with one landing fewer outstanding and the row's tag one on, unless a write of that cycle has counted, adds one to its counter where the Segment that asked
for it runs, and is gone; at a bank that is not ON it is dropped with DARK_WRITE. A store's row read that faults nowhere gives the row's bytes to the Granule writes that keep its
place (R290), or to one host write with Relaxed Ordering, and to its digest stream. Each waits while a claim has its port's cycle. -/
def Obligations.LandingsAndStoreReads : Prop :=
  (∀ (id c t g : Nat) (l : Landing) (bs : List Byte) (s z : State), z = settleHeld s → c ≤ 4127 → z.lands.find? (fun l => l.id == id) = some l →
    quietAt z l.core t = true → landReady z l = true → landTurn z l = true → portTaken z (portNo l.core l.local_ true) t = false →
    l.dark = false → bankAt z l.core l.local_ = .on → landBytes z l = some bs →
    usesOrdered z = true → t = z.beat.start + c → g = rowNo l.core l.local_ →
    ∃ u, exec (.landing id c) s = .next u
      ∧ rowView u g (t + 1) = ⟨splice (rowView z g (t + 1)).data (l.local_ % 128) bs,
          if (rowView z g (t + 1)).wr = some t then (rowView z g (t + 1)).tag else (rowView z g (t + 1)).tag + 1, (rowView z g (t + 1)).pend - 1, some t⟩
      ∧ (∀ d, d ≤ t → rowView u g d = rowView z g d) ∧ (∀ n, n ≠ g → getRow u n = getRow z n)
      ∧ u.lands = z.lands.filter (fun x => x.id ≠ id)
      ∧ ((∀ b, (getStrm z l.core .load).blk = some b → b.ended = false) → guarded z l.core l.local_ = false →
          (∀ x ∈ z.claims, x.row = g → x.port % 2 = 0 → t < x.at_) →
          (inSegment z l.part l.blk = true → ∀ d, t + 3 ≤ d → seenAt (getCtr u l.core l.sc) d = seenAt (getCtr z l.core l.sc) d + 1)
          ∧ (inSegment z l.part l.blk = false → getCtr u l.core l.sc = getCtr z l.core l.sc)
          ∧ (∀ n k, (n, k) ≠ (l.core, l.sc) → getCtr u n k = getCtr z n k) ∧ u.flt = z.flt)
      ∧ u.spad = z.spad ∧ u.stk.mem = z.stk.mem ∧ u.stores = z.stores)
  ∧ (∀ (id c t : Nat) (l : Landing) (s z : State), z = settleHeld s → c ≤ 4127 → z.lands.find? (fun l => l.id == id) = some l →
    t = z.beat.start + c → quietAt z l.core t = true →
    ((landReady z l = false ∨ landTurn z l = false ∨ portTaken z (portNo l.core l.local_ true) t = true) → exec (.landing id c) s = .next z)
    ∧ (landReady z l = true → landTurn z l = true → portTaken z (portNo l.core l.local_ true) t = false →
        (l.dark = true ∨ bankAt z l.core l.local_ ≠ .on) → ∃ u, exec (.landing id c) s = .next u
        ∧ u.lands = z.lands.filter (fun x => x.id ≠ id) ∧ u.spad = z.spad ∧ u.stk.mem = z.stk.mem
        ∧ (z.flt.buf.length < 64 → (∀ q, (getPart z l.part).seg = some q → q.abort = none) → (z.lands.filter (fun x => x.id == id)) = [l] →
            (∀ x ∈ z.claims, x.row = rowNo l.core l.local_ → x.port % 2 = 0 → t < x.at_) →
            ∃ r ∈ u.flt.buf, r.code = FCode.darkWrite.code)))
  ∧ (∀ (id c t : Nat) (r : StoreReq) (s z : State), z = settleHeld s → c ≤ 4127 → t = z.beat.start + c → z.stores.find? (fun r => r.id == id) = some r →
    quietAt z r.core t = true →
    (storeTurn z r = false ∨ portTaken z (portNo r.core r.local_ false) t = true → exec (.storeRead id c) s = .next z)
    ∧ (storeTurn z r = true → portTaken z (portNo r.core r.local_ false) t = false → canRead z r.core .store none (spanReads r.local_ r.len t) →
    ∃ u bs, exec (.storeRead id c) s = .next u ∧ bs = readSpan z r.core r.local_ r.len t ∧ u.stores = z.stores.filter (fun x => x.id ≠ id)
      ∧ (∀ a key, r.dst = .stack a key → u.posts = z.posts
          ∧ u.stk.greqs = z.stk.greqs.map (fun q => match q.wr with
              | some (tag, []) => if q.land = r.id then { q with wr := some (tag, (bs.drop q.off).take 32) } else q
              | _ => q))
      ∧ (∀ a, r.dst = .host a → twinSide z = false →
          u.posts = z.posts ++ [.write (queueFn z (tagQueue r.part)) true (BitVec.ofNat 64 a) bs] ∧ u.stk = z.stk)
      ∧ (∀ n off d, r.dig = some (n, off) → getDig z r.core n = some d →
          getDig u r.core n = some { d with bytes := memWrite d.bytes off bs })
      ∧ u.spad = z.spad ∧ u.stk.mem = z.stk.mem ∧ (∀ n, rowView u n t = rowView z n t)))
  ∧ (∀ (id c : Nat) (s : State), 4127 < c → exec (.landing id c) s = .fault .noSuchPoint ∧ exec (.storeRead id c) s = .fault .noSuchPoint)

/-- STACK_BURST and STACK_READ_DATA (R290, R291, R304, R308). A core's slot on a pseudo-channel serves its oldest request there: a write seals its Granule under its key and
no other byte of the stacks changes; a read takes what its Granule then holds; for a store whose row is not read yet the slot passes (log 62). The data of a served read
reach its landing, corrected with STACK_CE where one symbol is in error; with two or three they are dropped with STACK_UE, which aborts their Segment; with more they are
open. -/
def Obligations.StackRequestsAreServed : Prop :=
  (∀ (core pch : Nat) (r : GReq) (pre post_ : List GReq) (s : State), s.stk.out = false → 0 < s.build.nstack → s.stk.greqs = pre ++ r :: post_ →
    (∀ x ∈ pre, waitsOn s core pch x = false) → waitsOn s core pch r = true →
    (∀ tag bs, r.wr = some (tag, bs) → bs.length = 32 → r.key ≠ 0 → ∃ u, exec (.stackBurst core pch) s = .next u ∧ u.stk.greqs = pre ++ post_
        ∧ stkRead u r.key (32 * r.g) 32 = bs
        ∧ (∀ a k, a / 32 ≠ r.g → stkByte u k a = stkByte s k a) ∧ u.spad = s.spad ∧ u.cores = s.cores ∧ u.parts = s.parts)
    ∧ (∀ tag, r.wr = some (tag, []) → exec (.stackBurst core pch) s = .next s)
    ∧ (r.wr = none → exec (.stackBurst core pch) s
        = .next { s with stk := { s.stk with
            greqs := pre ++ { r with served := true, data := stkRead s r.key (32 * r.g) 32 } :: post_ } }))
  ∧ (∀ (core pch : Nat) (s : State), (∀ r ∈ s.stk.greqs, waitsOn s core pch r = false) → exec (.stackBurst core pch) s = .next s)
  ∧ (∀ (core pch : Nat) (r : GReq) (s : State), waitsOn s core pch r = true ↔ r.core = core ∧ r.g % (64 * s.build.nstack) = pch ∧ r.served = false)
  ∧ (∀ (g : Nat) (err e : SymErr) (r : GReq) (l : Landing) (pre post_ : List GReq) (s : State), s.stk.greqs = pre ++ r :: post_ →
    (∀ x ∈ pre, x.g = g → x.served = false) → r.g = g → r.served = true → r.packed = false → reqLand s r = some l → e = foundErr s g err →
    ((e.n = 0 ∨ e.n = 1 ∨ 4 ≤ e.n) → ∃ u, exec (.stackReadData g err) s = .next u
        ∧ u.lands = s.lands.map (fun x => if x.id = r.land then
            { x with data := splice x.data r.off (if 4 ≤ e.n then (List.range 32).map (fun i => Config.stackBad g i) else r.data),
                     need := x.need - 1 } else x)
        ∧ (e.n ≠ 1 → u = { s with lands := u.lands, stk := { s.stk with greqs := pre ++ post_ } })
        ∧ (e.n = 1 → u.flt = (raiseLand s l.loc l.part l.blk ⟨.stackCe, stackDetail g e false, s.now⟩).flt ∧ u.spad = s.spad
            ∧ u.stk = { s.stk with greqs := pre ++ post_ }))
    ∧ (e.n = 2 ∨ e.n = 3 → ∃ u, exec (.stackReadData g err) s = .next u ∧ u.lands = s.lands.filter (fun x => x.id ≠ r.land)
        ∧ (s.flt.buf.length < 64 → (∀ q, (getPart s l.part).seg = some q → q.abort = none) → (s.lands.filter (fun x => x.id == r.land)) = [l] →
            (∀ x ∈ s.claims, x.row = rowNo l.core l.local_ → x.port % 2 = 0 → s.now < x.at_) → ∃ f ∈ u.flt.buf, f.code = FCode.stackUe.code)
        ∧ u.spad = s.spad ∧ u.stk.mem = s.stk.mem))

/-! ### Owners, cores, banks, bindings (chapters 01, 06, 12 to 14) -/

/-- OWNER_GRANT, OWNER_RELEASE, CORE_MOVE, BANK_POWER_CHANGE, BANK_WAKE_DONE, PORT_BIND_EFFECT, SLOT_BIND_EFFECT and FIELD_REMAP (R147, R149, R151, R153, R307, R308, R320, R328, R344), each at
a boundary at which what it waits for is over. A grant raises OEPOCH and draws a new key, and the slot is LIVE from the next boundary; a release raises it, erases the key and the
link key and what peers offer on its ports, stops the queues of its contexts that are not resident, and the slot is EMPTY from the next boundary. A core that moves leaves its partition with every row zero and without errors. A bank from OFF to ON wakes with its rows zero and tags zero, from OFF to RETAIN holds
open values, and else keeps its rows. A row remapped is raised as FIELD_REMAP and its correctable errors are gone; one with a Granule beyond correction leaves a spare that no
read corrects. -/
def Obligations.OwnersCoresBanksAndBindings : Prop :=
  (∀ (p : Nat) (qs : List QFound) (s : State), slotsWf s = true → atEdge s = true →
    ((getPart s p).grant = true → (getPart s p).release = false → (getPart s p).keySt = .empty →
      exec (.ownerGrant p) s = .next { setPart s p { getPart s p with
        grant := false, oepoch := (getPart s p).oepoch + 1, keySt := .drawing, key := s.nextKey, drawn := s.beat.b } with
        nextKey := s.nextKey + 1 })
    ∧ ((getPart s p).release = true → (getPart s p).seg = none → storesOut s p = false → (getPart s p).keySt = .live →
      ∃ u, exec (.ownerRelease ⟨p, qs⟩) s = .next u ∧ u = { setPart
        { s with ports := smMap emptyPort s.ports (fun _ y => if y.part == p then { y with offer := none } else y) } p
        { getPart s p with
          release := false, oepoch := (getPart s p).oepoch + 1, keySt := .zeroising, key := 0, link := none } with posts := u.posts }
        ∧ (qs = [] → u.posts = s.posts)
        ∧ (∀ x ∈ qs, queueAt s x.q = none → (getCtx s x.qr.context).st = .live → (getCtx s x.qr.context).part = p →
            twinSide s = false → Post.setBit (qField s x.q 25) 3 true ∈ u.posts))
    ∧ ((getPart s p).seg.isSome = true ∨ storesOut s p = true → exec (.ownerRelease ⟨p, qs⟩) s = .next s))
  ∧ (∀ (c : Instr) (s : State), endsBeat c s → ∃ u, exec c s = .next u ∧ u.beat.b = s.beat.b + 1 ∧ ∀ p, p < 16 →
    ((getPart s p).keySt = .drawing → (getPart u p).keySt = .live) ∧ ((getPart s p).keySt = .zeroising → (getPart u p).keySt = .empty))
  ∧ (∀ (core : Nat) (s : State), atEdge s = true → core < s.build.ncore → (getCore s core).moving = false →
    coreTarget s core ≠ (getCore s core).holder → (∀ p, (getCore s core).holder = some p → (getPart s p).seg = none) →
    (∀ l ∈ s.lands, l.core ≠ core) →
    ∃ u, exec (.coreMove core) s = .next u ∧ (getCore u core).holder = none ∧ (getCore u core).moving = true
      ∧ (∀ p, (getCore s core).holder = some p → core ∉ (getPart u p).cores)
      ∧ (∀ k, k < 65536 → getRow u (core * 65536 + k) = emptyRow
          ∧ memRead u.spad ((core * 65536 + k) * 128) 128 = List.replicate 128 0 ∧ ∀ q, q < 4 → granErr u (core * 65536 + k) q = noErr)
      ∧ (∀ g, g / 65536 ≠ core → getRow u g = getRow s g ∧ memRead u.spad (g * 128) 128 = memRead s.spad (g * 128) 128
          ∧ ∀ q, q < 4 → granErr u g q = granErr s g q)
      ∧ (∀ c, c ≠ core → getCore u c = getCore s c) ∧ u.stk = s.stk ∧ u.flt = s.flt)
  ∧ (∀ (core bank : Nat) (t : Bank) (s : State), atEdge s = true → bank < 32 →
    (∀ l ∈ s.lands, l.core = core → bankOf l.local_ = bank → l.dark = true) → smGet none (getCore s core).want bank = some t →
    ∃ u, exec (.bankPowerChange core bank) s = .next u ∧ smGet none (getCore u core).want bank = none
      ∧ smGet .on (getCore u core).bank bank
          = (if t = .on ∧ smGet .on (getCore s core).bank bank = .off then .waking else t)
      ∧ (∀ b, b ≠ bank → smGet .on (getCore u core).bank b = smGet .on (getCore s core).bank b)
      ∧ (t = .on → smGet .on (getCore s core).bank bank = .off → ∀ k, k < 2048 →
          getRow u (core * 65536 + 32 * k + bank) = emptyRow
          ∧ memRead u.spad ((core * 65536 + 32 * k + bank) * 128) 128 = List.replicate 128 0)
      ∧ (t = .retain → smGet .on (getCore s core).bank bank = .off → ∀ k, k < s.build.spadKib / 4 → k < 2048 →
          memRead u.spad ((core * 65536 + 32 * k + bank) * 128) 128
            = (List.range 128).map (Config.lostByte s.beat.b.toNat (core * 65536 + 32 * k + bank)))
      ∧ ((t = .off ∨ smGet .on (getCore s core).bank bank ≠ .off) → u.spad = s.spad ∧ u.rows = s.rows)
      ∧ (∀ c, c ≠ core → getCore u c = getCore s c) ∧ u.stk = s.stk ∧ u.flt = s.flt)
  ∧ (∀ (core bank : Nat) (s : State), atEdge s = true → smGet .on (getCore s core).bank bank = .waking →
    (smGet 0 (getCore s core).wake bank ≠ s.beat.b → ∃ u, exec (.bankWakeDone core bank) s = .next u
        ∧ (∀ b, smGet .on (getCore u core).bank b = if b = bank then .on else smGet .on (getCore s core).bank b)
        ∧ (∀ c, c ≠ core → getCore u c = getCore s c) ∧ u = { s with cores := u.cores })
    ∧ (smGet 0 (getCore s core).wake bank = s.beat.b → exec (.bankWakeDone core bank) s = .next s))
  ∧ (∀ (n v : Nat) (s : State), atEdge s = true →
    (v = (liveReg s (rBRD n 0)).toNat → n < s.build.nbraid → (getPart s (getPort s n).part).seg = none → (getPart s (v / 4 % 16)).seg = none →
      ((getPort s n).en ≠ decide (v % 2 = 1) ∨ (getPort s n).part ≠ v / 4 % 16) →
      ∃ u, exec (.portBindEffect n) s = .next u ∧ (getPort u n).en = decide (v % 2 = 1) ∧ (getPort u n).part = v / 4 % 16
        ∧ (v % 2 = 0 → (getPort u n).st = 0 ∧ (getPort u n).reason = 8 ∧ (getPort u n).width = 0 ∧ (getPort u n).train = none) ∧ (v % 2 = 1 → (getPort u n).st = (getPort s n).st)
        ∧ (∀ k, k ≠ n → getPort u k = getPort s k) ∧ u = { s with ports := u.ports })
    ∧ (v = (liveReg s (rSLT n 0)).toNat → n < s.build.nslot → (getPart s (getSlt s n).part).seg = none → (getPart s (v / 2 % 16)).seg = none →
      exec (.slotBindEffect n) s = .next (setSlt s n { getSlt s n with en := v % 2 == 1, part := v / 2 % 16, core := v / 32 % 64 })))
  ∧ (∀ (core bank e lrow g : Nat) (ok : Bool) (s : State), atEdge s = true → mcUp s = true →
    s.mc.remap.find? (remapFree s) = some (core, bank, e, lrow) → g = core * 65536 + 32 * lrow + bank →
    ∃ u, exec (.fieldRemap ok) s = .next u ∧ (∀ x, x ∈ u.mc.remap ↔ x ∈ s.mc.remap ∧ x ≠ (core, bank, e, lrow))
      ∧ u.mc.repair = s.mc.repair ++ [(core, bank, e, lrow)] ∧ (getRow u g).pend = 0
      ∧ ((∀ k, k < 4 → (granErr s g k).n ≠ 2 ∧ (granErr s g k).n ≠ 3) →
          ∀ k, k < 4 → granErr u g k = if (granErr s g k).n = 1 then noErr else granErr s g k)
      ∧ (∀ k, k < 4 → ((granErr s g k).n = 2 ∨ (granErr s g k).n = 3) → ∀ q, q < 4 → (granErr u g q).n = 2)
      ∧ (s.flt.buf.length < 57 → (∃ r ∈ u.flt.buf, r.code = FCode.fieldRemap.code ∧ r.detail = rowDetail core bank lrow)
          ∧ (∀ k, k < 4 → (granErr s g k).n = 1 →
              ∃ r ∈ u.flt.buf, r.code = FCode.granuleCe.code ∧ r.detail = rowDetail core bank lrow + 32 * k)
          ∧ (∀ k, k < 4 → ((granErr s g k).n = 2 ∨ (granErr s g k).n = 3) →
              ∃ r ∈ u.flt.buf, r.code = FCode.granuleUe.code ∧ r.detail = rowDetail core bank lrow))
      ∧ u.spad = s.spad ∧ u.cores = s.cores ∧ u.stk = s.stk)

/-! ### Faults, scrubbing, heat, functions (chapters 06, 11, 17) -/

/-- MC_RECORD_READ, RING_WRITE, FLT_HEAD_WRITE, FAULTN_CLEAR, SCRUB_ROW and STACK_SCRUB (R147, R148, R231, R396, R398, R399, R401, R403, R404). A record of a stream
instruction takes its DVIS stream and index from the last location entry at or before its PC. The running MC reads the oldest unread record and retains it; enough
corrected errors of a row within the span stage its remap, or mark its bank degraded where no entry is free. A record goes to the ring, 64 bytes at its SEQ's slot, where it has room, with the vector raised once. FLT_HEAD never passes
FLT_TAIL, and FAULT_N is cleared but in thermal stop or with the MC dead. A scrub clears the single-symbol errors of its row unless a landing writes it, which reads find up to cycle
4,051, and steps on, once a Beat; a stack Granule is scrubbed in a burst slot that no core waits for. A record that is not one more of a NOTE takes the next SEQ of the buffer, in
R396's order, and the others keep theirs as a set; beyond 64 it is lost. -/
def Obligations.RecordsRingAndScrub : Prop :=
  (∀ (i : Iss) (x : CodeSt) (pre post : List LocEnt) (e : LocEnt) (s : State), codeOf s i.core i.strm = some x → x.locs = pre ++ e :: post →
    e.pcstart.toNat ≤ i.pc.toNat → (∀ y ∈ post, i.pc.toNat < y.pcstart.toNat) →
    locOf s i = ⟨i, e.strm, e.dix, loopVec (getStrm s i.core i.strm)⟩)
  ∧ (∀ (r : FRec) (s : State), (r.sev ≠ 0 ∨ s.flt.buf.any (fun x => sameRec x r) = false) →
    (s.flt.buf.length < 64 → (enterRec r s).flt.buf.map FRec.seq = s.flt.buf.map FRec.seq ++ [s.flt.next] ∧ (enterRec r s).flt.next = s.flt.next + 1
        ∧ (enterRec r s).flt.lost = s.flt.lost ∧ (∃ x ∈ (enterRec r s).flt.buf, x = { r with id := s.flt.next, seq := x.seq })
        ∧ (∀ y ∈ s.flt.buf, ∃ x ∈ (enterRec r s).flt.buf, x = { y with seq := x.seq }))
    ∧ (64 ≤ s.flt.buf.length → (enterRec r s).flt = { s.flt with lost := min 65535 (s.flt.lost + 1) })
    ∧ enterRec r s = { s with flt := (enterRec r s).flt })
  ∧ (∀ (r : FRec) (s : State), mcUp s = true → s.flt.buf.find? (unread s) = some r →
    ∃ u, exec .mcRecordRead s = .next u ∧ u.flt.mcNext = r.seq + 1 ∧ u.flt.retained.getLast? = some r ∧ u.flt.retained.length ≤ 64
      ∧ (∀ core lrow bank (old : List W64), r.code = FCode.granuleCe.code → r.detail % 2 ^ 29 / 2 ^ 23 = core →
          r.detail / 128 % 32 = bank → r.detail % 2 ^ 23 / 4096 = lrow → hasSpare s core bank lrow = false →
          old = (smGet [] s.mc.rowCe (core * 65536 + 32 * lrow + bank)).filter (recent s) → ceThr s ≤ old.length + 1 + r.rep →
          (∀ i, freeRemap s core bank = some i → u.mc.remap = s.mc.remap ++ [(core, bank, i, lrow)] ∧ u.cores = s.cores)
          ∧ (freeRemap s core bank = none → old.length < ceThr s → u.mc.remap = s.mc.remap
              ∧ (getCore u core).degraded = (getCore s core).degraded ||| (1 <<< bank)))
      ∧ u.spad = s.spad ∧ u.stk = s.stk)
  ∧ (∀ (r : FRec) (rest : List FRec) (n c : Nat) (s : State), s.flt.buf = r :: rest → c = (liveReg s rFLT_CTL).toNat → n = 2 ^ (c / 2 % 16) →
    twinSide s = false →
    (c % 2 = 1 → (r.seq - s.flt.head).toNat < n → ∃ u, exec .ringWrite s = .next u ∧ u.flt.buf = rest ∧ u.flt.tail = r.seq + 1
        ∧ u.flt.vecUp = true
        ∧ u.posts = s.posts ++ [.write 0 false (liveReg64 s rFLT_BASE + BitVec.ofNat 64 (64 * (r.seq.toNat % n))) (recBytes r)]
            ++ (if s.flt.vecUp then [] else [.msix 0 (c / 2 ^ 8 % 2 ^ 8)])
        ∧ u = { s with flt := u.flt, posts := u.posts })
    ∧ ((c % 2 = 0 ∨ n ≤ (r.seq - s.flt.head).toNat) → exec .ringWrite s = .next s))
  ∧ (∀ s : State, (twinSide s = true ∨ s.flt.buf = []) → exec .ringWrite s = .next s)
  ∧ (∀ r : FRec, (recBytes r).length = 64)
  ∧ (∀ (f : Func) (w : WrVal) (s : State),
    (pfOn s f = true → w.be = 0xF → exec (.fltHeadWrite f w) s = .next { s with
        flt := { s.flt with head := if (w.v - s.flt.tail).toNat < 2 ^ 31 then s.flt.tail else w.v, vecUp := false } })
    ∧ ((pfOn s f = false ∨ w.be ≠ 0xF) → exec (.fltHeadWrite f w) s = .next s) ∧ (pfOn s f = false → exec (.faultnClear f) s = .next s)
    ∧ (pfOn s f = true → s.therm.stop = none → s.mc.dead = false →
        exec (.faultnClear f) s = .next { s with flt := { s.flt with faultn := false, low := false } })
    ∧ (s.therm.stop.isSome = true ∨ s.mc.dead = true → exec (.faultnClear f) s = .next s))
  ∧ (∀ (core bank k lrow g t q : Nat) (s : State), t = s.beat.start + 4048 → s.scrub.last ≠ some s.beat.b → core < s.build.ncore → bank < 32 →
    k = smGet 0 s.scrub.banks (32 * core + bank) % scrubRows s core bank → lrow = scrubAt s core bank k →
    g = core * 65536 + 32 * lrow + bank → smGet .on (getCore s core).bank bank = .on → (rowView s g t).pend = 0 → q < 4 →
    ∃ u, exec .scrubRow s = .next u ∧ smGet 0 u.scrub.banks (32 * core + bank) = (k + 1) % scrubRows s core bank
      ∧ ((granErr s g q).n = 1 → (∀ x ∈ (getRow s g).uses, t ≤ x.1 → x.1 ≤ t + 3 → ∀ off bs, x.2 ≠ .land off bs) →
          granErr u g q = noErr ∧ (g * 4 + q, granErr s g q) ∈ u.scrub.fixed
          ∧ ∀ d, (∀ x ∈ (getRow s g).uses, d ≤ x.1) → errAt u g q d = if d ≤ s.beat.start + 4051 then granErr s g q else noErr)
      ∧ ((∃ x ∈ (getRow s g).uses, t ≤ x.1 ∧ x.1 ≤ t + 3 ∧ ∃ off bs, x.2 = .land off bs) → granErr u g q = granErr s g q)
      ∧ ((granErr s g q).n ≠ 1 → granErr u g q = granErr s g q)
      ∧ u.scrub.last = some s.beat.b ∧ exec .scrubRow u = .next u ∧ u.spad = s.spad ∧ u.rows = s.rows ∧ u.stk = s.stk)
  ∧ (∀ (g : Nat) (err e : SymErr) (s : State), mcUp s = true → s.stk.out = false → g = s.stk.scrub → 0 < stackGrans s.build →
    e = foundErr s g err →
    (mgmtSlot s g = false → exec (.stackScrub g err) s = .next s)
    ∧ (mgmtSlot s g = true → ∃ u, exec (.stackScrub g err) s = .next u
      ∧ u.stk = { s.stk with
          errs := smSet noErr s.stk.errs g (if e.n = 1 then noErr else e), scrub := (g + 1) % stackGrans s.build,
          passes := if g + 1 = stackGrans s.build then s.stk.passes + 1 else s.stk.passes }
      ∧ (e.n = 0 → u.flt = s.flt)
      ∧ (s.flt.buf.length < 64 → (e.n = 1 → ∃ r ∈ u.flt.buf, r.code = FCode.stackCe.code)
          ∧ (e.n = 2 ∨ e.n = 3 → ∃ r ∈ u.flt.buf, r.code = FCode.scrubUe.code))
      ∧ u = { s with stk := u.stk, flt := u.flt }))

/-- DIE_SENSOR_SAMPLE, STACK_TEMP_CHECK, THERM_CLEAR, RESUME, WATCHDOG_EXPIRY, FUNCTION_LEVEL_RESET and POWER_STATE_CHANGE (R264, R285, R407 to R410). A sensor at or above TSTOPD in four samples in a row, or a
stack at or above TSTOPS, starts thermal stop; 256 cool Beats raise THERM_CLEAR, after which RESUME ends it. The watchdog stops the MC and discards its staged work; once in 2^20 Beats it restarts, to run from the next
boundary (log 41), else it is dead. A VF's reset stops the queues of its partition's contexts, resident or not, the PF's those of all and clears HQ_CTL; either frees the function's locks and
its BEAT_COUNT latch. A function in D3hot fetches nothing for an idle partition. -/
def Obligations.HeatWatchdogAndFunctions : Prop :=
  (∀ (temps : List Nat) (s : State), temps.length = 16 → s.now ≤ s.beat.start + 4040 → s.therm.last ≠ some s.beat.b →
    ∃ u, exec (.dieSensorSample temps) s = .next u ∧ u.therm.temps = temps ∧ exec (.dieSensorSample temps) u = .next u
      ∧ (∀ i, i < 16 → smGet 0 u.therm.overs i = if s.build.tstopd ≤ temps.getD i 0 then smGet 0 s.therm.overs i + 1 else 0)
      ∧ ((∃ i, i < 16 ∧ 4 ≤ smGet 0 u.therm.overs i) → u.therm.stop.isSome = true)
      ∧ ((∀ i, i < 16 → smGet 0 u.therm.overs i < 4) → u.therm.stop = s.therm.stop)
      ∧ u = { s with therm := u.therm, flt := u.flt, now := u.now })
  ∧ (∀ (temps : List Nat) (s : State), mcUp s = true → s.beat.b.toNat % 256 = 0 → temps.length = s.build.nstack →
    ∃ u, exec (.stackTempCheck temps) s = .next u
      ∧ (∀ p, p < s.build.nstack → (getStk u p).temp = BitVec.ofNat 8 (temps.getD p 0))
      ∧ ((∃ x ∈ temps, s.build.tstops ≤ x) → u.therm.stop.isSome = true)
      ∧ ((∀ x ∈ temps, x < s.build.tstops) → u.therm = s.therm ∧ u.flt = s.flt)
      ∧ u.stk.mem = s.stk.mem ∧ u.spad = s.spad)
  ∧ (∀ (f : Func) (s : State), s.therm.stop.isSome = true →
    (s.therm.clear = false → 256 ≤ s.therm.cool → ∃ r, exec .thermClear s
        = .next (enterRec r { s with therm := { s.therm with clear := true } }) ∧ r.code = FCode.thermClear.code)
    ∧ (s.therm.cool < 256 → exec .thermClear s = .next s)
    ∧ (pfOn s f = true → s.therm.clear = true →
        exec (.resume f) s = .next { s with therm := { s.therm with stop := none, clear := false, cool := 0, resume := true } })
    ∧ ((pfOn s f = false ∨ s.therm.clear = false) → exec (.resume f) s = .next s))
  ∧ (∀ (ok : Bool) (s : State), mcUp s = true →
    ∃ u, exec (.watchdogExpiry ok) s = .next u ∧ mcUp u = false
      ∧ (ok = true → (∀ b, s.mc.expiry = some b → 2 ^ 20 < (s.beat.b - b).toNat) →
          u.mc.reboot = true ∧ u.mc.dead = false ∧ u.mc.restarts = min 255 (s.mc.restarts + 1))
      ∧ ((ok = false ∨ ∃ b, s.mc.expiry = some b ∧ (s.beat.b - b).toNat ≤ 2 ^ 20) → u.mc.reboot = false ∧ u.mc.dead = true ∧ u.mc.restarts = s.mc.restarts)
      ∧ u.mc.expiry = some s.beat.b ∧ smGet 0 u.beat.latch (reqNo .mc) = 0 ∧ u.mc.words = []
      ∧ u.ext.jobs = [] ∧ u.ext.wait = [] ∧ u.ext.flip = false ∧ u.ext.due = [] ∧ u.beat.flipDue = false ∧ u.loads = []
      ∧ (∀ j ∈ u.host.jobs, j.kind ≠ 4)
      ∧ u.ext.stg = s.ext.stg.filter (fun x => match x.2 with | some g => g.retained | none => false)
      ∧ u.ext.tab = s.ext.tab ∧ u.spad = s.spad ∧ u.stk = s.stk ∧ u.cores = s.cores)
  ∧ (∀ s : State, mcUp s = false → exec (.watchdogExpiry true) s = .next s ∧ exec (.watchdogExpiry false) s = .next s)
  ∧ (∀ (c : Instr) (s : State), endsBeat c s → s.mc.reboot = true → s.mc.dead = false → ∃ u, exec c s = .next u ∧ mcUp u = true ∧ u.mc.reboot = false)
  ∧ (∀ (f : Func) (qs : List QFound) (hit : Nat → Bool) (s : State), slotsWf s = true → ownSlots s → smWf emptyMbx s.mbx = true →
    (∀ p, hit p = match f with | .vf n => p == n - 1 | .pf => decide (p < 16) | .mc => false) → f ≠ .mc →
    ∃ u, exec (.functionLevelReset ⟨f, qs⟩) s = .next u
      ∧ (∀ q x, queueAt s q = some x → hit x.part = true → (∀ y, queueAt u q = some y → y.qr.stopped = true)
          ∧ (x.cmds ≠ [] → ∃ y, queueAt u q = some y))
      ∧ (∀ x ∈ qs, queueAt s x.q = none → (getCtx s x.qr.context).st = .live → hit (getCtx s x.qr.context).part = true →
          twinSide s = false → Post.setBit (qField s x.q 25) 3 true ∈ u.posts)
      ∧ (∀ m, (getMbx u m).lock = if (getMbx s m).lock = senderId f then 0 else (getMbx s m).lock)
      ∧ smGet 0 u.beat.latch (reqNo f) = 0 ∧ reqNo f ∈ u.host.flr
      ∧ (f = .pf → liveReg u rHQ_CTL = 0 ∧ stagedReg u rHQ_CTL
          = (smGet none (s.regs.capt.getD []) rHQ_CTL <|> smGet none (s.regs.due.getD []) rHQ_CTL).getD 0)
      ∧ (f ≠ .pf → u.regs = s.regs) ∧ u.spad = s.spad ∧ u.stk = s.stk ∧ u.ext = s.ext ∧ u.cores = s.cores)
  ∧ (∀ (f : Func) (s : State), reqNo f ≤ 16 →
    (∃ u, exec (.powerStateChange f true) s = .next u ∧ (∀ p, p < 16 → (getPart s p).seg = none → fetchOff u (reqNo f) p = true)
        ∧ u = { s with host := u.host })
    ∧ (∃ u, exec (.powerStateChange f false) s = .next u ∧ (∀ p, p < 16 → fetchOff u (reqNo f) p = false) ∧ u = { s with host := u.host }))

/-! ### Braid ports (chapter 13) -/

/-- BRD_CTL_TRAIN, LANE_LOST, BRAID_FRAME, CELL_LANDING, BRD_KEY_NEW, BRD_KEY_OFFER, BRD_KEY_ACCEPT, BRD_LOST_READ and BRD_AUTH_READ (R7, R319, R324 to R333, R376, R378, R14). A port
asked to train, or with a lane lost, is in training and sends its training words; the next Beat edge ends that: one whose steps pass is then UP at the largest of 4, 2 and 1 lanes that
both ends have good, another DOWN with its reason and PORT_DOWN, and either has sent its protocol version and its identifier as far as it came. A frame that is sealed opens under its key and Beat alone; one that FEC cannot mend counts as lost, one whose tag fails as unauthentic, and the valid cells of a good one
wait for their usable points, but for late ones. A cell that a receive entry covers, of the running Segment, is written to its ring in two rows and signals, or raises OUT_OF_PARTITION
where the entry's core index names no core. A key operation is done
at once where no Segment of the partition runs, and an offer taken up is gone. -/
def Obligations.BraidPortsTrainReceiveAndKey : Prop :=
  (∀ (o : TrainObs) (n : Nat), n = ((o.lanes.map laneState).filter (fun l => l.1 == 0 && o.peerGood.contains l.2.2)).length →
    (4 ≤ n → trainWidth o = 4) ∧ (n < 4 → 2 ≤ n → trainWidth o = 2) ∧ (n < 2 → trainWidth o = n))
  ∧ (∀ (f : Func) (port : Nat) (o : TrainObs) (m : ModObs) (s : State),
    (pfOn s f = false ∨ s.build.nbraid ≤ port → exec (.brdCtlTrain f port o m) s = .next s)
    ∧ (pfOn s f = true → port < s.build.nbraid → ∃ u, exec (.brdCtlTrain f port o m) s = .next u
        ∧ getPort u port = (if (getPort s port).en then { getPort s port with st := 1, width := 0, train := some o }
            else { getPort s port with st := 0, width := 0, reason := 8, train := none })
        ∧ u.posts = s.posts ++ (if (getPort s port).en then [.train port ((o.lanes.zipIdx.filter (fun x => x.1.signal && !x.1.stuck)).map (fun x =>
            (x.2, (⟨x.2, port % 16, engId s⟩ : TrainWord))))] else [])
        ∧ (∀ k, k ≠ port → getPort u k = getPort s k) ∧ u = { s with ports := u.ports, mc := u.mc, meas := u.meas, posts := u.posts, flt := u.flt }
        ∧ (mcUp s = false → u.mc = s.mc ∧ u.meas = s.meas ∧ u.flt = s.flt) ∧ (m.stuck = none → u.mc.i3c = s.mc.i3c ∧ u.flt = s.flt)
        ∧ (∀ b, mcUp s = true → m.stuck = some b → b.stuck = true → b.channel = none → b.bus < 2 → u.mc.i3c.getLsbD b.bus = true)
        ∧ (mcUp s = true → modEntry u { m with port := port } ∈ u.mc.inv
            ∧ (getMeas u 6).value = sha384 (dig48 (getMeas s 6).value ++ dig48 (sha384 (inventoryRec u))))))
  ∧ (∀ (port frames : Nat) (o : TrainObs) (s : State), port < s.build.nbraid →
    ((getPort s port).st ≠ 2 → exec (.laneLost port frames o) s = .next s)
    ∧ ((getPort s port).st = 2 → (getPort s port).en = true → ∃ u, exec (.laneLost port frames o) s = .next u
        ∧ getPort u port = { getPort s port with
            lost := satAdd (getPort s port).lost frames, st := 1, width := 0, train := some o }
        ∧ (0 < frames → s.flt.buf.length < 64 → ∃ q ∈ u.flt.buf, q.code = FCode.linkFrame.code)
        ∧ (∀ k, k ≠ port → getPort u k = getPort s k) ∧ u = { s with ports := u.ports, flt := u.flt, posts := u.posts }))
  ∧ (∀ (port r : Nat) (o : TrainObs) (lr : Bool) (s : State), (getPort s port).train = some o → lr = (bitsOf (liveReg s (rBRD port 0)).toNat 1 1 == 1) →
    r = trainReason s lr o →
    (getPort (endTraining s port) port).train = none ∧ (getPort (endTraining s port) port).reason = r
    ∧ (getPort (endTraining s port) port).offer = none
    ∧ (r = 0 → (getPort (endTraining s port) port).st = 2 ∧ (getPort (endTraining s port) port).width = trainWidth o
        ∧ (getPort (endTraining s port) port).peer = some (o.peng, o.pport) ∧ (getPort (endTraining s port) port).delay = oneWayDelay o
        ∧ (endTraining s port).flt = s.flt)
    ∧ (r ≠ 0 → (getPort (endTraining s port) port).st = 0 ∧ (getPort (endTraining s port) port).width = 0
        ∧ (s.flt.buf.length < 64 → ∃ q ∈ (endTraining s port).flt.buf, q.code = FCode.portDown.code))
    ∧ (endTraining s port).posts = s.posts ++ (if r = 0 ∨ 2 < r then [.version port 1 0] else [])
        ++ (if r = 0 ∨ 3 < r then [.ident port (engId s) (port % 16)] else [])
    ∧ endTraining s port = { s with ports := (endTraining s port).ports, flt := (endTraining s port).flt, posts := (endTraining s port).posts })
  ∧ (∀ (c : Instr) (s : State), endsBeat c s → s.mc.reboot = false → ∃ u, exec c s = .next u ∧ ∀ port r o, port < s.build.nbraid →
    (getPort s port).train = some o → r = trainReason s (bitsOf (liveReg s (rBRD port 0)).toNat 1 1 == 1) o →
    (getPort u port).train = none ∧ (getPort u port).reason = r ∧ (getPort u port).st = (if r = 0 then 2 else 0))
  ∧ (∀ (key : BitVec 256) (ep : Bool) (b : W64) (eng port k : Nat) (cs : List Cell) (t : List Byte), cs.length = 32 →
    (∀ c ∈ cs, c.cidx < 1024 ∧ c.payload.length = 256) →
    (sealFrame key ep b eng port k cs).length = 8344
    ∧ frameFields (sealFrame key ep b eng port k cs) = (k % 32, ep, eng % 2 ^ 14, port % 16)
    ∧ openFrame key b (sealFrame key ep b eng port k cs) = some cs
    ∧ (t.length = 16 → t ≠ (sealFrame key ep b eng port k cs).drop 8328 →
        openFrame key b ((sealFrame key ep b eng port k cs).take 8328 ++ t) = none))
  ∧ (∀ (port c : Nat) (fec : Bool) (bytes : List Byte) (s : State),
    (4127 < c → exec (.braidFrame port c ⟨fec, bytes⟩) s = .fault .noSuchPoint)
    ∧ (c ≤ 4127 → (getPort s port).st ≠ 2 → exec (.braidFrame port c ⟨fec, bytes⟩) s = .next s)
    ∧ (c ≤ 4127 → port < s.build.nbraid → (getPort s port).st = 2 →
      (fec = false → ∃ q, exec (.braidFrame port c ⟨fec, bytes⟩) s
          = .next (enterRec q (modPort (touch s (s.beat.start + c)) port (fun x => { x with lost := satAdd x.lost 1 })))
          ∧ q.code = FCode.linkFrame.code)
      ∧ (fec = true → bytes.length = 8344 → (∀ k, (getPart s (getPort s port).part).link = some k → k.ep = (frameFields bytes).2.1 →
            openFrame k.key (getPort s port).rxB bytes = none) →
          ∃ q, exec (.braidFrame port c ⟨fec, bytes⟩) s
            = .next (enterRec q (modPort (touch s (s.beat.start + c)) port (fun x => { x with auth := satAdd x.auth 1 })))
            ∧ q.code = FCode.linkAuth.code)
      ∧ (∀ k usable eng sport n cs good, fec = true → (getPart s (getPort s port).part).link = some k → cs.length = 32 →
          (∀ x ∈ cs, x.cidx < 1024 ∧ x.payload.length = 256) → bytes = sealFrame k.key k.ep (getPort s port).rxB eng sport n cs →
          usable = (getPort s port).rxB + BitVec.ofNat 64 (portL s.build (getPort s port)) →
          good = (placedCells (n % 32) cs).filter (fun x => x.valid) →
          ∃ u, exec (.braidFrame port c ⟨fec, bytes⟩) s = .next u
            ∧ (getPort u port).rx = (getPort s port).rx ++ (good.filter (fun x =>
                !isLate s usable (sendPoint (cellWidth (getPort s port)) x.cidx) c)).map (fun x => ⟨x, usable⟩)
            ∧ ((∀ x ∈ good, isLate s usable (sendPoint (cellWidth (getPort s port)) x.cidx) c = false) →
                u = { touch s (s.beat.start + c) with ports := u.ports })
            ∧ ((∃ x ∈ good, isLate s usable (sendPoint (cellWidth (getPort s port)) x.cidx) c = true) →
                s.flt.buf.length < 64 → ∃ q ∈ u.flt.buf, q.code = FCode.linkLate.code)
            ∧ (∀ n, n ≠ port → getPort u n = getPort s n) ∧ u.cores = s.cores ∧ u.spad = s.spad ∧ u.rows = s.rows)))
  ∧ (∀ (port cidx : Nat) (s' s : State), s = settleHeld s' →
    ((getPort s port).rx.find? (fun r => r.cell.cidx == cidx && r.usable == s.beat.b) = none → exec (.cellLanding port cidx) s' = .next s)
    ∧ (∀ (r : RxCell) (tb : TabMem) (g : Seg) (s0 : State), (getPort s port).rx.find? (fun r => r.cell.cidx == cidx && r.usable == s.beat.b) = some r →
      s0 = modPort s port (fun x => { x with rx := x.rx.filter (fun y => y != r) }) →
      ((getPort s port).tab = none ∨ (getPart s (getPort s port).part).seg = none →
        ∃ u, exec (.cellLanding port cidx) s' = .next u ∧ getPort u port = { getPort s0 port with unexp := true, unexpB := some s.beat.b })
      ∧ ((getPort s port).tab = some tb → (getPart s (getPort s port).part).seg = some g →
      (∀ (e : STEnt) (core a t : Nat) (s1 s2 : State),
        tb.ents.find? (fun e => e.recv && covers e (beatOff (getPort s port) s.beat.b) cidx) = some e →
        r.cell.segtag = BitVec.ofNat 16 g.beat.toNat → coreAt s (getPort s port).part e.core = some core →
        a = e.base + 256 * (coveredBefore e (beatOff (getPort s port) s.beat.b) cidx % e.ringlen) →
        t = s.beat.start + sendPoint tb.width cidx →
        writeRow (touch s0 t) core .control 8 a (r.cell.payload.take 128) t = (s1, none) →
        writeRow s1 core .control 8 (a + 128) ((r.cell.payload.drop 128).take 128) t = (s2, none) →
        exec (.cellLanding port cidx) s'
          = .next (modSeg (if e.sigen then addCtr s2 core e.sc t 1 else s2) (getPort s port).part (fun g => { g with linked := true })))
      ∧ (∀ (e : STEnt) (a t : Nat),
        tb.ents.find? (fun e => e.recv && covers e (beatOff (getPort s port) s.beat.b) cidx) = some e →
        r.cell.segtag = BitVec.ofNat 16 g.beat.toNat → coreAt s (getPort s port).part e.core = none →
        a = e.base + 256 * (coveredBefore e (beatOff (getPort s port) s.beat.b) cidx % e.ringlen) → t = s.beat.start + sendPoint tb.width cidx →
        exec (.cellLanding port cidx) s'
          = .next (raiseSeg (touch s0 t) (getPort s port).part ⟨.outOfPartition, scratchDetail e.core (a % 2 ^ 23) 0 0 8, t⟩ none))
      ∧ (∀ e, tb.ents.find? (fun e => e.recv && covers e (beatOff (getPort s port) s.beat.b) cidx) = some e →
        r.cell.segtag ≠ BitVec.ofNat 16 g.beat.toNat →
        ∃ u, exec (.cellLanding port cidx) s' = .next u
          ∧ getPort u port = { getPort s0 port with tagerr := true, tagB := some s.beat.b }
          ∧ ((getPort s port).tagB = some s.beat.b → u = { s with ports := u.ports })
          ∧ ((getPort s port).tagB ≠ some s.beat.b → ∃ q, u = enterRec q { s with ports := u.ports } ∧ q.code = FCode.cellSegtag.code))
      ∧ (tb.ents.find? (fun e => e.recv && covers e (beatOff (getPort s port) s.beat.b) cidx) = none →
        ∃ u, exec (.cellLanding port cidx) s' = .next u
          ∧ getPort u port = { getPort s0 port with unexp := true, unexpB := some s.beat.b }
          ∧ ((getPort s port).unexpB = some s.beat.b → u = { s with ports := u.ports })
          ∧ ((getPort s port).unexpB ≠ some s.beat.b →
              ∃ q, u = enterRec q { s with ports := u.ports } ∧ q.code = FCode.cellUnexpected.code)))))
  ∧ (∀ (f : Func) (port p : Nat) (s : State), pfOn s f = true → port < s.build.nbraid → mcUp s = true → (getPort s port).en = true →
    p = (getPort s port).part → (∀ n, (getPort s n).keyOps = 0) →
    ((getPart s p).seg = none →
      (∀ ep, ep = (match (getPart s p).link with | some l => !l.ep | none => true) →
        ∃ u, exec (.brdKeyNew f port) s = .next u ∧ getPart u p = { getPart s p with link := some ⟨Config.drawnKey s.nextKey 2, ep, [engId s]⟩ }
          ∧ u.posts = s.posts ++ (if (getPort s port).st = 2 then [.offer port (Config.drawnKey s.nextKey 2) ep [engId s]] else [])
          ∧ (∀ n, getPort u n = getPort s n) ∧ (∀ n, n ≠ p → getPart u n = getPart s n)
          ∧ u = { s with ports := u.ports, parts := u.parts, posts := u.posts, nextKey := s.nextKey + 1 })
      ∧ (∃ u, exec (.brdKeyOffer f port) s = .next u
          ∧ u.posts = s.posts ++ (match (getPart s p).link with
              | some k => if (getPort s port).st = 2 then [.offer port k.key k.ep k.marked] else []
              | none => [])
          ∧ (∀ n, getPort u n = getPort s n) ∧ u = { s with ports := u.ports, posts := u.posts })
      ∧ (∃ u, exec (.brdKeyAccept f port) s = .next u ∧ (∀ n, getPort u n = if n = port then { getPort s n with offer := none } else getPort s n)
          ∧ (∀ n, n ≠ p → getPart u n = getPart s n)
          ∧ ((getPort s port).offer = none → u = { s with ports := u.ports })
          ∧ (∀ k, (getPort s port).offer = some k → engId s ∉ k.marked →
              getPart u p = { getPart s p with link := some { k with marked := k.marked ++ [engId s] } }
                ∧ u = { s with ports := u.ports, parts := u.parts })
          ∧ (∀ k, (getPort s port).offer = some k → engId s ∈ k.marked →
              ∃ q, u = enterRec q { s with ports := u.ports } ∧ q.code = FCode.keyDupid.code)))
    ∧ ((getPart s p).seg.isSome = true → ∀ c k, (c, k) ∈ [(Instr.brdKeyNew f port, (1 : BitVec 3)), (.brdKeyOffer f port, 2), (.brdKeyAccept f port, 4)] →
        ∃ u, exec c s = .next u ∧ getPort u port = { getPort s port with keyOps := k } ∧ (∀ n, n ≠ port → getPort u n = getPort s n)
          ∧ u = { s with ports := u.ports }))
  ∧ (∀ (f : Func) (port : Nat) (s : State),
    (pfOn s f = false → exec (.brdKeyNew f port) s = .next s ∧ exec (.brdKeyOffer f port) s = .next s ∧ exec (.brdKeyAccept f port) s = .next s)
    ∧ (fnOn s f = false → exec (.brdLostRead f port) s = .next s ∧ exec (.brdAuthRead f port) s = .next s)
    ∧ (fnOn s f = true → (vfPart f).isSome = true → exec (.brdLostRead f port) s = .next { s with posts := s.posts ++ [.answer 0] }
        ∧ exec (.brdAuthRead f port) s = .next { s with posts := s.posts ++ [.answer 0] })
    ∧ (fnOn s f = true → vfPart f = none → port < s.build.nbraid →
      (∃ u, exec (.brdLostRead f port) s = .next u ∧ getPort u port = { getPort s port with lost := 0 }
          ∧ (∀ n, n ≠ port → getPort u n = getPort s n)
          ∧ u = { s with ports := u.ports, posts := s.posts ++ [.answer (getPort s port).lost] })
      ∧ (∃ u, exec (.brdAuthRead f port) s = .next u ∧ getPort u port = { getPort s port with auth := 0 }
          ∧ (∀ n, n ≠ port → getPort u n = getPort s n)
          ∧ u = { s with ports := u.ports, posts := s.posts ++ [.answer (getPort s port).auth] })))

/-! ### The twin (chapter 13) -/

/-- TWN_ATTACH, TWN_DETACH, TWN_TAKEOVER, TWN_RESOLVE_FAIL, TWN_RESOLVE_PUBLISH_PRIMARY, TWIN_JOURNAL, AGREEMENT_MESSAGE and TWIN_LINK_DOWN (R334 to R339). An attach from SOLO
with a mode stops at the first step that fails, with its record, or goes on to the state sync, from which a twin takes Extents, stack bytes and rows. Detach and takeover
wait for the next boundary. An entry of a frame whose tag is wrong is counted and dropped. In MIRROR the peer's value lets a command publish if it equals its own, else the
command diverges; in STANDBY, or while it takes over, the twin holds the primary's value against its own, and is UNFIT where they differ. A divergent command of the primary, which
alone may resolve it, fails and stops its queue, or publishes with the twin detached.
The fault index of a command that fails so, its TWIN_DIVERGE record's, is the model's choice (log 40). -/
def Obligations.TwinAttachesMirrorsAndResolves : Prop :=
  (∀ (f : Func) (o : AttachObs) (m : Nat) (s : State), m = (liveReg s rTWN_CTL).toNat % 4 →
    ((pfOn s f = false ∨ s.build.twin = false ∨ s.twin.st ≠ 0 ∨ m = 0 ∨ m = 3) → exec (.twnAttach f o) s = .next s)
    ∧ (pfOn s f = true → s.build.twin = true → s.twin.st = 0 → (m = 1 ∨ m = 2) →
      (∀ k c, attachFault s o = some (k, c) → ∃ u q, exec (.twnAttach f o) s = .next (enterRec q u) ∧ q.code = c.code ∧ u.twin.st = 0
          ∧ u.twin.step = k ∧ (u.twin.linkup = true ↔ 1 < k) ∧ u.twin.sync = s.twin.sync ∧ u = { s with ports := u.ports, twin := u.twin, posts := u.posts })
      ∧ (attachFault s o = none → ∃ u, exec (.twnAttach f o) s = .next u
          ∧ u.twin = { s.twin with
              st := 1, primary := decide ((liveReg s rTWN_CTL).toNat / 4 % 2 = 1), linkup := true, step := 5, crossed := o.crossed, minor := 0,
              peer := some o.groupA.peng, key := some o.key, sync := some (o.syncOk, m) }
          ∧ (∀ k, k < 16 → getPort u k = getPort s k)
          ∧ ((u.twin.primary = true ∨ o.syncOk = false) → u = { s with ports := u.ports, twin := u.twin, posts := u.posts })
          ∧ (u.twin.primary = false → o.syncOk = true →
              ((o.image.exts.map SyncExt.idx).Nodup → ∀ x ∈ o.image.exts, smGet emptyExt u.ext.tab x.idx = { emptyExt with
                  valid := x.valid, part := x.part, oepoch := (getPart s x.part).oepoch, gen := x.gen, base := x.base, len := x.len,
                  packed := x.packed, ro := x.ro, dgv := x.dgv, keyslot := x.part })
              ∧ (∀ n, n ∉ o.image.exts.map SyncExt.idx → smGet emptyExt u.ext.tab n = emptyExt)
              ∧ (o.image.mem.Pairwise (fun x y => x.1 + x.2.length ≤ y.1) → ∀ x ∈ o.image.mem, memRead u.stk.mem x.1 x.2.length = x.2
                  ∧ (keyAt u x.1 ≠ 0 → (∀ y ∈ o.image.mem, y.1 % 32 = 0 ∧ y.2.length % 32 = 0) →
                      stkRead u (keyAt u x.1) x.1 x.2.length = x.2))
              ∧ (∀ a, (∀ x ∈ o.image.mem, a < x.1 ∨ x.1 + x.2.length ≤ a) → smGet 0 u.stk.mem a = smGet 0 s.stk.mem a)
              ∧ ((o.image.rows.map Prod.fst).Nodup → ∀ x ∈ o.image.rows, x.2.length = 128 →
                  memRead u.spad (x.1 * 128) 128 = x.2 ∧ (getRow u x.1).tag = (getRow s x.1).tag + 1 ∧ ∀ q, q < 4 → granErr u x.1 q = noErr)
              ∧ (∀ g, g ∉ o.image.rows.map Prod.fst →
                  memRead u.spad (g * 128) 128 = memRead s.spad (g * 128) 128 ∧ getRow u g = getRow s g)
              ∧ u = { s with ports := u.ports, twin := u.twin, ext := u.ext, stk := u.stk, spad := u.spad, rows := u.rows, errs := u.errs, parts := u.parts, posts := u.posts }))))
  ∧ (∀ (f : Func) (s : State),
    (pfOn s f = true → (s.twin.st = 2 ∨ s.twin.st = 3) → exec (.twnDetach f) s = .next { s with twin := { s.twin with detach := true } })
    ∧ ((pfOn s f = false ∨ (s.twin.st ≠ 2 ∧ s.twin.st ≠ 3)) → exec (.twnDetach f) s = .next s)
    ∧ (pfOn s f = true → s.twin.st = 3 → s.twin.primary = false →
        exec (.twnTakeover f) s = .next { s with twin := { s.twin with st := 4, takeover := true } })
    ∧ ((pfOn s f = false ∨ s.twin.st ≠ 3 ∨ s.twin.primary = true) → exec (.twnTakeover f) s = .next s)
    ∧ (s.twin.linkup = false → exec .twinLinkDown s = .next s)
    ∧ (s.twin.linkup = true → ∃ u q, exec .twinLinkDown s = .next (enterRec q u) ∧ q.code = FCode.twinLink.code
        ∧ (∀ k, getPort u k = if k = 16 ∨ k = 17 then { getPort s k with st := 0, width := 0 } else getPort s k)
        ∧ u = { s with ports := u.ports, twin := { s.twin with linkup := false, sync := s.twin.sync.map (fun x => (false, x.2)) } }))
  ∧ (∀ (f : Func) (q : Nat) (s : State), slotsWf s = true →
    ((pfOn s f = false ∨ twinSide s = true ∨ divergentCmd s q = none) →
      exec (.twnResolveFail f q) s = .next s ∧ exec (.twnResolvePublishPrimary f q) s = .next s)
    ∧ (∀ c, pfOn s f = true → twinSide s = false → divergentCmd s q = some c →
      (∃ u d, exec (.twnResolveFail f q) s = .next u ∧ cmdAt u q c.seq = some d ∧ d.diverged = false ∧ d.stage = .ended 1 c.dvIdx
        ∧ (queueAt u q).map (fun x => x.qr.stopped) = some true ∧ (primarySide s = true → Post.journal (.resolve q false) ∈ u.posts)
        ∧ u = { s with host := u.host, posts := u.posts })
      ∧ (∃ u, exec (.twnResolvePublishPrimary f q) s = .next u
        ∧ cmdAt u q c.seq = (cmdAt s q c.seq).map (fun e => { e with diverged := false, stage := .met s.beat.b })
        ∧ (primarySide s = true → Post.journal (.resolve q true) ∈ u.posts)
        ∧ u = { s with host := u.host, posts := u.posts, twin := { s.twin with detach := s.twin.detach || s.twin.st == 2 || s.twin.st == 3 } })))
  ∧ (∀ (x : JCell) (e : JEntry) (s : State), e = x.e → ((twinSide s = false ∨ s.twin.st = 4) → exec (.twinJournal x) s = .next s)
    ∧ (twinSide s = true → s.twin.st ≠ 4 → x.opens = false → ∃ u r, exec (.twinJournal x) s = .next (enterRec r u) ∧ r.code = FCode.linkAuth.code
      ∧ (getPort u (16 + x.group)).auth = satAdd (getPort s (16 + x.group)).auth 1 ∧ u = { s with ports := u.ports })
    ∧ (twinSide s = true → s.twin.st ≠ 4 → x.opens = true →
      (isCmdEntry e = true ∨ isBytes e = true →
        exec (.twinJournal x) s = .next { s with twin := { s.twin with journal := s.twin.journal ++ [e] } })
      ∧ (∀ q, e = .resolve q true → exec (.twinJournal x) s = .next { s with twin := { s.twin with detach := true } })
      ∧ (∀ q c, slotsWf s = true → e = .resolve q false → divergentCmd s q = some c → ∃ u d, exec (.twinJournal x) s = .next u
          ∧ cmdAt u q c.seq = some d ∧ d.diverged = false ∧ d.stage = .ended 1 c.dvIdx ∧ u = { s with host := u.host, posts := u.posts })
      ∧ (∀ p, e = .owner p true → (getPart s p).keySt = .empty →
        exec (.twinJournal x) s = .next (setPart s p { getPart s p with grant := true }))
      ∧ (∀ p, e = .owner p false → (getPart s p).keySt = .live → (getPart s p).release = false →
        ∃ u, exec (.twinJournal x) s = .next u ∧ (getPart u p).release = true ∧ (getPart u p).grant = false
          ∧ (∀ id, (getCtx s id).st = .live → (getCtx s id).part = p → (id, s.beat.b) ∈ u.host.abandon)
          ∧ u.spad = s.spad ∧ u.stk = s.stk ∧ u.ext = s.ext ∧ u.cores = s.cores)
      ∧ (∀ q h, e = .mapHandle q h → (∀ h', JEntry.mapHandle q h' ∉ s.twin.journal) →
        exec (.twinJournal x) s = .next { s with twin := { s.twin with journal := s.twin.journal ++ [e] } })
      ∧ (∀ q h h' pre post_, e = .mapHandle q h → s.twin.journal = pre ++ .mapHandle q h' :: post_ → (∀ k, JEntry.mapHandle q k ∉ pre) →
        (h = h' → exec (.twinJournal x) s = .next { s with twin := { s.twin with journal := pre ++ post_ } })
        ∧ (h ≠ h' → ∃ r, exec (.twinJournal x) s = .next (enterRec r { s with twin := { s.twin with journal := pre ++ post_ } })
            ∧ r.code = FCode.twinDiverge.code))))
  ∧ (∀ (m : Agree) (s : State), slotsWf s = true →
    (∀ c v, s.twin.st = 2 → cmdAt s m.q m.seq = some c → c.value = some v → c.peer = none →
      (m.value = v → ∃ u, exec (.agreementMessage m) s = .next u ∧ cmdAt u m.q m.seq = some { c with stage := .met s.beat.b, peer := some v }
          ∧ u = { s with host := u.host, twin := { s.twin with heard := s.twin.heard + 1 } })
      ∧ (m.value ≠ v → ∃ u r, exec (.agreementMessage m) s = .next u ∧ r.code = FCode.twinDiverge.code ∧ u.flt = (enterRec r s).flt
          ∧ cmdAt u m.q m.seq = some { c with peer := some m.value, diverged := true, dvIdx := idxOf s (enterRec r s), dvNo := s.nextId }
          ∧ u = { s with host := u.host, flt := u.flt, nextId := s.nextId + 1, twin := { s.twin with heard := s.twin.heard + 1 } }))
    ∧ (s.twin.st = 2 → (∀ c, cmdAt s m.q m.seq = some c → c.value = none) →
        exec (.agreementMessage m) s = .next { s with twin := { s.twin with agrees := s.twin.agrees ++ [m], heard := s.twin.heard + 1 } })
    ∧ ((s.twin.st = 3 ∨ s.twin.st = 4) → s.twin.primary = false →
      (s.twin.made.find? (fun y => y.q == m.q && y.seq == m.seq) = none → exec (.agreementMessage m) s = .next { s with twin := { s.twin with
        agrees := s.twin.agrees ++ [m], done := smSet 0 s.twin.done m.q (m.seq + 1) } })
      ∧ (∀ y, s.twin.made.find? (fun y => y.q == m.q && y.seq == m.seq) = some y →
        (y.value = m.value → exec (.agreementMessage m) s = .next { s with twin := { s.twin with
          made := s.twin.made.filter (fun z => z != y), done := smSet 0 s.twin.done m.q (m.seq + 1) } })
        ∧ (y.value ≠ m.value → ∃ r, r.code = FCode.twinDiverge.code ∧ exec (.agreementMessage m) s = .next (enterRec r { s with twin := { s.twin with
          made := s.twin.made.filter (fun z => z != y), done := smSet 0 s.twin.done m.q (m.seq + 1), unfit := true } }))))
    ∧ ((s.twin.st ≠ 2 ∧ ((s.twin.st ≠ 3 ∧ s.twin.st ≠ 4) ∨ s.twin.primary = true)) → exec (.agreementMessage m) s = .next s))

/-! ### Marzipan slots (chapter 14) -/

/-- SLOT_ISOLATE, SLOT_FRAME, SLOT_READBACK, SLOT_READY, FRAME_PORT_TIMEOUT, SLOT_SPURIOUS_OUTPUT and SLT_ERR_READ (R346, R350 to R355, R358, R425). A load reads its source, host memory or an Extent in
slots that no core takes, and goes through its header, isolation, frames in order, the read-back that the frame port is asked for slot by slot, and the boundary that makes its slots READY
with the identity of the last frame of WOFF 0 written, digest and extended measurement; isolation and READY at a boundary after the one at which they could begin. A check that fails, the
fourth bad read of a frame or a port that does not answer ends it: its slots are FAILED, isolated and held in reset, unless a LOAD_SLOT had isolated none yet, and its command fails, or a
start-up stream leaves a record. Spurious outputs are counted up to 65,535, and cleared as they are read. -/
def Obligations.SlotLoadsEndReadyOrFailed : Prop :=
  (∀ (l : Load) (rest : List Load) (s : State), s.loads = l :: rest → (mcUp s = true ∨ l.cmd = none) →
    (∀ slot, (atEdge s = false ∨ l.stage ≠ 1 ∨ s.beat.start ≤ l.since ∨ slot ∉ l.mask) → exec (.slotIsolate slot) s = .next s)
    ∧ (∀ slot, atEdge s = true → l.stage = 1 → l.since < s.beat.start → slot ∈ l.mask → ¬((getSlt s slot).iso = true ∧ (getSlt s slot).st = 1) →
      ((getSlt s slot).en = true → (getPart s (getSlt s slot).part).seg.isSome = true → exec (.slotIsolate slot) s = .next s)
      ∧ (((getSlt s slot).en = false ∨ (getPart s (getSlt s slot).part).seg = none) →
        ∃ u, exec (.slotIsolate slot) s = .next u ∧ getSlt u slot = { getSlt s slot with iso := true, srst := true, st := 1, ident := none }
          ∧ (∀ k, k ≠ slot → getSlt u k = getSlt s k)
          ∧ ((∀ k ∈ l.mask, k ≠ slot → (getSlt s k).iso = true ∧ (getSlt s k).st = 1) →
              u.loads = { l with stage := nextStage l, since := s.now } :: rest
              ∧ u.posts = s.posts ++ (match (if nextStage l = 3 then nextBack l else none) with | some k => [.readback k] | none => []))
          ∧ ((∃ k ∈ l.mask, k ≠ slot ∧ ((getSlt s k).iso = false ∨ (getSlt s k).st ≠ 1)) → u.loads = s.loads ∧ u.posts = s.posts)
          ∧ u = { s with slots := u.slots, loads := u.loads, posts := u.posts }))
    ∧ (∀ (r : HostCpl) (b : List Byte) (key : BitVec 256), l.stage = 0 → loadRead s l r = (s, .bytes b) → hdrReason s b = 0 →
      unwrapKey s ((b.drop 32).take 40) = some key →
      exec (.slotFrame r) s = .next { s with loads := { l with
        stage := 1, since := s.now, sid := leNat ((b.drop 8).take 8), nfrm := leNat ((b.drop 16).take 4), skey := key, bytes := b } :: rest })
    ∧ (∀ (r : HostCpl) (b : List Byte), l.stage = 2 → loadRead s l r = (s, .bytes b) →
      (∀ (p : List Byte) (woff : Nat), openSlotFrame l b = some p → leNat (b.take 4) = l.next → leNat ((b.drop 8).take 4) = frmBytes s →
        (∀ x ∈ (b.drop 16).take 16, x = 0) → woff = leNat ((b.drop 4).take 4) → (∀ k ∈ l.mask, woff < s.build.wlen.getD k 0) →
        (l.next + 1 < l.nfrm → exec (.slotFrame r) s = .next { s with
          loads := { l with next := l.next + 1, tries := 0, zero := if woff = 0 then some p else l.zero, bytes := l.bytes ++ p } :: rest,
          posts := s.posts ++ [.frame l.mask woff p] })
        ∧ (l.nfrm ≤ l.next + 1 → streamShort s l = false → exec (.slotFrame r) s = .next { s with
          loads := { l with next := l.next + 1, tries := 0, zero := if woff = 0 then some p else l.zero, bytes := l.bytes ++ p, stage := 3, since := s.now } :: rest,
          posts := s.posts ++ [.frame l.mask woff p] ++ (match nextBack l with | some k => [.readback k] | none => []) })
        ∧ (l.nfrm ≤ l.next + 1 → streamShort s l = true → ∃ v, (exec (.slotFrame r) s = .next v ∨ exec (.slotFrame r) s = .next (mcWork v))
            ∧ v.loads = rest ∧ (∀ k ∈ l.mask, getSlt v k = { getSlt s k with st := 3, iso := true, srst := true, ident := none, reason := 9 })
            ∧ Post.frame l.mask woff p ∈ v.posts))
      ∧ (openSlotFrame l b = none → l.tries ≠ 3 → exec (.slotFrame r) s = .next { s with loads := { l with tries := l.tries + 1 } :: rest }))
    ∧ (∀ r, l.stage = 0 ∨ l.stage = 2 → loadRead s l r = (s, .wait) → exec (.slotFrame r) s = .next s)
    ∧ (∀ (slot : Nat) (bytes p : List Byte) (d : Ident) (l' : Load), l.stage = 3 → nextBack l = some slot → l.zero = some p →
      (parseIdent bytes).isSome = true → parseIdent p = some d → l' = { l with ids := l.ids ++ [(slot, d)] } →
      exec (.slotReadback slot bytes) s = .next { s with
        loads := { l' with stage := if (nextBack l').isSome then 3 else 4, since := s.now } :: rest,
        posts := s.posts ++ (match nextBack l' with | some k => [.readback k] | none => []) })
    ∧ (∀ slot bytes, (l.stage ≠ 3 ∨ nextBack l ≠ some slot) → exec (.slotReadback slot bytes) s = .next s)
    ∧ (∀ (c : Instr) (n : Nat),
      (((l.stage = 0 ∨ l.stage = 2) ∧ ∃ r, c = .slotFrame r ∧ loadRead s l r = (s, .fail) ∧ n = 9)
        ∨ (l.stage = 0 ∧ ∃ r b, c = .slotFrame r ∧ loadRead s l r = (s, .bytes b) ∧ n = hdrReason s b ∧ n ≠ 0)
        ∨ (l.stage = 2 ∧ ∃ r b, c = .slotFrame r ∧ loadRead s l r = (s, .bytes b)
            ∧ ((openSlotFrame l b = none ∧ l.tries = 3 ∧ n = 5)
              ∨ ((openSlotFrame l b).isSome = true ∧ (leNat (b.take 4) ≠ l.next ∨ leNat ((b.drop 8).take 4) ≠ frmBytes s
                  ∨ ∃ x ∈ (b.drop 16).take 16, x ≠ 0) ∧ n = 6)
              ∨ ((openSlotFrame l b).isSome = true ∧ leNat (b.take 4) = l.next ∧ leNat ((b.drop 8).take 4) = frmBytes s
                  ∧ (∀ x ∈ (b.drop 16).take 16, x = 0) ∧ (∃ k ∈ l.mask, s.build.wlen.getD k 0 ≤ leNat ((b.drop 4).take 4)) ∧ n = 7)))
        ∨ (l.stage = 3 ∧ n = 8 ∧ ∃ slot bytes, c = .slotReadback slot bytes ∧ nextBack l = some slot
            ∧ (parseIdent bytes = none ∨ l.zero.bind parseIdent = none))
        ∨ ((l.stage = 2 ∨ l.stage = 3) ∧ c = .framePortTimeout ∧ n = 9)) →
      (l.cmd = none → ∃ u q, exec c s = .next (enterRec q u) ∧ q.code = FCode.slotBootload.code ∧ u.loads = rest
        ∧ (∀ k, getSlt u k = if k ∈ l.mask then { getSlt s k with st := 3, iso := true, srst := true, ident := none, reason := n } else getSlt s k)
        ∧ u = { s with loads := u.loads, slots := u.slots })
      ∧ (∀ q seq, l.cmd = some (q, seq) → ∃ v, exec c s = .next (mcWork v) ∧ v.loads = rest
        ∧ (∀ k, getSlt v k = if l.stage ≠ 0 ∧ k ∈ l.mask then { getSlt s k with st := 3, iso := true, srst := true, ident := none, reason := n }
            else getSlt s k)
        ∧ (slotsWf s = true → ∀ e, cmdAt s q seq = some e → ∃ d idx, cmdAt v q seq = some d ∧ d.stage = .ended 1 idx)
        ∧ (s.flt.buf.length < 64 → ∃ x ∈ v.flt.buf, x.code = FCode.slotLoad.code)
        ∧ v = { s with loads := v.loads, slots := v.slots, host := v.host, posts := v.posts, flt := v.flt }))
    ∧ (l.stage = 4 → atEdge s = true → l.since < s.beat.start → (l.ids.map Prod.fst).Nodup →
      ∃ v, exec .slotReady s = .next (match l.cmd with
          | none => v
          | some (q, seq) => mcWork (doneCmd v q seq))
        ∧ (∀ e ∈ l.ids, getSlt v e.1 = { getSlt s e.1 with
              st := 2, iso := false, srst := false, reason := 0, ident := some e.2, dig := sha256 l.bytes, rstTo := s.beat.start + 16 * e.2.ratio, inTo := 0 }
            ∧ getMeas v (8 + e.1) = ⟨sha384 (dig48 (getMeas s (8 + e.1)).value ++ dig48 (sha384 l.bytes)), (getMeas s (8 + e.1)).extcnt + 1, true, true⟩)
        ∧ (∀ k, k ∉ l.ids.map Prod.fst → getSlt v k = getSlt s k ∧ getMeas v (8 + k) = getMeas s (8 + k))
        ∧ v = { s with loads := rest, slots := v.slots, meas := v.meas })
    ∧ ((l.stage ≠ 4 ∨ atEdge s = false ∨ s.beat.start ≤ l.since) → exec .slotReady s = .next s) ∧ (l.stage < 2 → exec .framePortTimeout s = .next s))
  ∧ (∀ (l : Load) (r : HostCpl) (k n : Nat) (s : State), (k, n) = unitSpan s l →
    (∀ a len, l.src = .host a len →
      ((len < k + n ∨ ∀ b, r ≠ .ok b) → loadRead s l r = (s, .fail))
      ∧ (∀ b, k + n ≤ len → r = .ok b → b.length = n → loadRead s l r = (s, .bytes b)))
    ∧ (∀ h p off len, l.src = .extent h p off len →
      (len < k + n → loadRead s l r = (s, .fail))
      ∧ (∀ e, k + n ≤ len → lookup s h p s.ext.epoch off len false = .ok e → s.stk.out = false → smGet noErr s.ext.errs (hIdx h / 2) = noErr →
          (∀ g ∈ stkSpan (e.addr + off + k) n, mgmtSlot s g = true ∧ smGet noErr s.stk.errs g = noErr) →
          loadRead s l r = (s, .bytes (stkBytes s (partKey s p) (e.addr + off + k) n)))
      ∧ (∀ e, k + n ≤ len → lookup s h p s.ext.epoch off len false = .ok e → s.stk.out = false → smGet noErr s.ext.errs (hIdx h / 2) = noErr →
          (∃ g ∈ stkSpan (e.addr + off + k) n, mgmtSlot s g = false) → loadRead s l r = (s, .wait))
      ∧ (∀ f, lookup s h p s.ext.epoch off len false = .bad f → (loadRead s l r).2 = .fail)))
  ∧ (∀ (slot : Nat) (r : HostCpl) (bytes : List Byte) (s : State), s.loads = [] →
    exec (.slotIsolate slot) s = .next s ∧ exec (.slotFrame r) s = .next s ∧ exec (.slotReadback slot bytes) s = .next s
    ∧ exec .slotReady s = .next s ∧ exec .framePortTimeout s = .next s)
  ∧ (∀ (f : Func) (slot : Nat) (s : State),
    (slot < s.build.nslot → (getSlt s slot).en = true → (getSlt s slot).iso = false → s.cfgDone = true → (getSlt s slot).spur ≠ 0xFFFF →
      ∃ u, exec (.slotSpuriousOutput slot) s = .next u ∧ getSlt u slot = { getSlt s slot with spur := (getSlt s slot).spur + 1 }
        ∧ (∀ k, k ≠ slot → getSlt u k = getSlt s k) ∧ u = { s with slots := u.slots })
    ∧ ((getSlt s slot).spur = 0xFFFF ∨ (getSlt s slot).iso = true ∨ (getSlt s slot).en = false → exec (.slotSpuriousOutput slot) s = .next s)
    ∧ (fnOn s f = false → exec (.sltErrRead f slot) s = .next s)
    ∧ (fnOn s f = true → vfPart f = none → slot < s.build.nslot → ∃ u, exec (.sltErrRead f slot) s = .next u
        ∧ getSlt u slot = { getSlt s slot with spur := 0 } ∧ (∀ k, k ≠ slot → getSlt u k = getSlt s k)
        ∧ u = { s with slots := u.slots, posts := s.posts ++ [.answer ((getSlt s slot).spur.zeroExtend 32)] })
    ∧ (fnOn s f = true → (vfPart f).isSome = true → exec (.sltErrRead f slot) s = .next { s with posts := s.posts ++ [.answer 0] }))

/-! ### Start-up (chapter 15) -/

/-- PORST, SRST, BOOT_ROM_START, BOOT_DESCRIPTOR, IMAGE_HEADER, IMAGE_FRAME, FOLLOWER_TIMEOUT, MEASUREMENT and FIRMWARE_START_TIMEOUT (R359 to R373, R379, R380, R428). A reset leaves
the state after reset of the build; SRST_N keeps the latched fuses and the retained records (a pulse of 100 ns to 1 µs may or may not be taken: log 11), but SFDP and the key store are
read anew. A read unit that is accepted moves on when no block of the group pulls CFG_RETRY_N; else it is read again, up to four times, and a block that rejects the fourth read fails with
its reason, as does one that finds a frame out of order at once, and a leader whose flash does not respond. Phase 5 compares the digests, sets measurement indices 1 to 4 and 16, derives
the DICE identity, draws the management key and starts the firmware, or fails with reason 9 or 0x0B. -/
def Obligations.ResetsAndReadUnits : Prop :=
  (∀ s : State, exec .porst s = .next { State.resetOf s.build with
      free := s.free, nextKey := s.nextKey, posts := s.posts, pending := s.pending, mc := { mcReset with areas := s.mc.areas } })
  ∧ (∀ (ns : Nat) (s soft : State), soft = { State.resetOf s.build with
        free := s.free, nextKey := s.nextKey, posts := s.posts, pending := s.pending, mc := { mcReset with areas := s.mc.areas },
        boot := { bootReset with fuses := s.boot.fuses, soft := true }, flt := { fltReset with retained := s.flt.retained } } →
    (ns < 100 → exec (.srst ns) s = .next s) ∧ (1000 ≤ ns → exec (.srst ns) s = .next soft)
    ∧ (100 ≤ ns → ns < 1000 →
        exec (.srst ns) s = .next { s with free := s.free + 1 } ∨ exec (.srst ns) s = .next { soft with free := s.free + 1 }))
  ∧ (∀ (fz f : Fuses) (s : State), s.boot.phase = 1 → s.boot.err = false →
    f = (match s.boot.fuses with | some x => if s.boot.soft then { x with store := fz.store, sfdpOk := fz.sfdpOk } else fz | none => fz) →
    ∃ u, exec (.bootRomStart fz) s = .next u ∧ u.boot.fuses = some f ∧ u.boot.phase = 2
      ∧ getMeas u 0 = ⟨Config.romIdentity, 0, true, false⟩ ∧ (∀ k, k ≠ 0 → getMeas u k = getMeas s k)
      ∧ (f.checkOk = true → f.pkhash ≠ 0 → f.sfdpOk = true → u.boot.err = false ∧ u = { s with boot := u.boot, meas := u.meas })
      ∧ ((f.checkOk = false ∨ f.pkhash = 0) → failedAs { s with meas := u.meas } u 1 ∧ u.boot.unit = 0)
      ∧ (f.checkOk = true → f.pkhash ≠ 0 → f.sfdpOk = false → failedAs { s with meas := u.meas } u 2 ∧ u.boot.unit = 0))
  ∧ (∀ (c : Instr) (rd : UnitRead) (cert : List Byte) (s : State), s.boot.err = false → rd.data = none →
    ((c = .bootDescriptor rd cert ∧ s.boot.phase = 2) ∨ (c = .imageHeader rd.data rd.groupLow ∧ s.boot.phase = 3 ∧ s.boot.fuses.isSome = true)
      ∨ (c = .imageFrame rd ∧ s.boot.phase = 4 ∧ ∃ h, s.boot.hdr = some h ∧ (secOf h s.boot.frame).isSome = true)) →
    ((∃ f, s.boot.fuses = some f ∧ f.leader = true) → ∃ u, exec c s = .next u ∧ failedAs s u 0x0A ∧ u.boot.phase = s.boot.phase)
    ∧ ((∀ f, s.boot.fuses = some f → f.leader = false) → exec c s = .next s))
  ∧ (∀ (c : Instr) (rd : UnitRead) (cert b : List Byte) (r ph k : Nat) (low : Bool) (s : State), s.boot.phase = ph → s.boot.err = false →
    rd.data = some b → low = rd.groupLow →
    ((c = .bootDescriptor rd cert ∧ ph = 2 ∧ r = (if descOk b then 0 else 2) ∧ k = 0xFFFFFFFF)
      ∨ (∃ f, c = .imageHeader rd.data rd.groupLow ∧ ph = 3 ∧ s.boot.fuses = some f ∧ r = headerReason s f b ∧ k = 0xFFFFFFFE)
      ∨ (∃ h x, c = .imageFrame rd ∧ ph = 4 ∧ s.boot.hdr = some h ∧ secOf h s.boot.frame = some x
          ∧ r = frameReason h x s.boot.frame b ∧ k = s.boot.frame)) →
    (s.boot.acc = false → r ≠ 0 → (3 ≤ s.boot.reads ∨ (c = .imageFrame rd ∧ r = 8)) → ∃ u, exec c s = .next u ∧ failedAs s u r
        ∧ u.boot.phase = ph ∧ u.boot.unit = BitVec.ofNat 32 k
        ∧ cfgStat u.boot = BitVec.ofNat 64 (ph % 16 + r % 256 * 2 ^ 4 + (BitVec.ofNat 32 k).toNat * 2 ^ 12))
    ∧ (s.boot.reads < 3 → s.boot.acc = false → r ≠ 0 → (c = .imageFrame rd → r ≠ 8) →
        exec c s = .next { s with boot := { s.boot with reads := s.boot.reads + 1, retry := true } })
    ∧ (s.boot.reads < 3 → (s.boot.acc = true ∨ r = 0) → low = true → ∃ u, exec c s = .next u ∧ u.boot.phase = ph
        ∧ u.boot.frame = s.boot.frame ∧ u.boot.reads = s.boot.reads + 1 ∧ u.boot.acc = true ∧ u.boot.retry = false ∧ u.boot.err = false)
    ∧ ((s.boot.acc = true ∨ r = 0) → (low = false ∨ 3 ≤ s.boot.reads) → ∃ u, exec c s = .next u ∧ u.boot.err = false
        ∧ u.boot.reads = 0 ∧ u.boot.acc = false ∧ u.boot.retry = false
        ∧ (ph < 4 → u.boot.phase = ph + 1 ∧ u.boot.frame = s.boot.frame)
        ∧ (ph = 4 → u.boot.frame = s.boot.frame + 1
            ∧ u.boot.phase = if s.boot.hdr.map (fun h => h.nfrm) = some (s.boot.frame + 1) then 5 else 4)
        ∧ (s.boot.acc = false →
          (c = .bootDescriptor rd cert → u.boot.desc = some (parseDesc4 b) ∧ u.boot.cert = cert ∧ u = { s with boot := u.boot })
          ∧ (c = .imageHeader rd.data rd.groupLow → u.boot.hdr = some (parseImgHdr s b) ∧ getMeas u 5 = ⟨sha384 (b.take 1312), 0, true, false⟩
              ∧ u = { s with boot := u.boot, meas := u.meas })
          ∧ (∀ h x p, c = .imageFrame rd → s.boot.hdr = some h → secOf h s.boot.frame = some x → openImgFrame h b = some p →
              section_ u x.type = section_ s x.type ++ p.take (frameLen x s.boot.frame)
              ∧ (∀ n, n ≠ x.type → section_ u n = section_ s n)
              ∧ u.loads = (if 0x10 ≤ x.type ∧ s.boot.frame = x.first ∧ x.type - 0x10 < s.build.nslot
                  then s.loads ++ [newLoad none (.image x.type) [x.type - 0x10]] else s.loads)
              ∧ (x.type = 2 → ∀ n, n < s.build.ncore → (getCore u n).ucode = (getCore s n).ucode ++ p.take (frameLen x s.boot.frame))
              ∧ (x.type ≠ 2 → u.cores = s.cores)
              ∧ u = { s with boot := u.boot, loads := u.loads, cores := u.cores }))))
  ∧ (∀ (f : Fuses) (s : State), s.boot.fuses = some f →
    (f.leader = false → (s.boot.phase = 2 ∨ s.boot.phase = 3 ∨ s.boot.phase = 4) → s.boot.err = false →
      ∃ u, exec .followerTimeout s = .next u ∧ failedAs s u 0x0A ∧ u.boot.phase = s.boot.phase)
    ∧ (f.leader = true → exec .followerTimeout s = .next s))
  ∧ (∀ (h : ImgHdr) (f : Fuses) (s : State), s.boot.phase = 5 → s.boot.err = false → s.boot.hdr = some h →
    s.boot.fuses = some f →
    (s.boot.started = false →
      ((∃ x ∈ h.secs, sha384 (section_ s x.type) ≠ x.digest) → ∃ u, exec .measurement s = .next u ∧ failedAs s u 9)
      ∧ ((∀ x ∈ h.secs, sha384 (section_ s x.type) = x.digest) →
        (paramBad (section_ s 3) = true → ∃ u, exec .measurement s = .next u ∧ failedAs s u 0x0B)
        ∧ (paramBad (section_ s 3) = false → ∃ u, exec .measurement s = .next u ∧ u.boot.started = true ∧ u.boot.uds = true
            ∧ u.boot.params = some (parseParams (section_ s 3)) ∧ u.boot.err = false ∧ u.boot.phase = 6
            ∧ (∀ t, 1 ≤ t → t ≤ 4 → getMeas u t = ⟨secDigest h t, 0, true, false⟩)
            ∧ getMeas u 16 = ⟨sha384 ((List.range 6).flatMap (fun i => dig48 (getMeas u i).value)), 0, true, false⟩
            ∧ (∀ t, t = 0 ∨ t = 5 ∨ 5 < t ∧ t ≠ 16 → getMeas u t = getMeas s t)
            ∧ u.boot.dice = some (diceOf f.uds (getMeas u 16).value s.boot.cert) ∧ u.boot.books.flatten = section_ s 4
            ∧ u.mkey = s.nextKey ∧ u.nextKey = s.nextKey + 1
            ∧ u.mc = { s.mc with run := true, svn := h.svn, imgid := h.imgid, fwver := Config.fwVersion (secDigest h 1) }
            ∧ u = { s with boot := u.boot, meas := u.meas, mc := u.mc, mkey := u.mkey, nextKey := u.nextKey })))
    ∧ (s.boot.started = true → exec .measurement s = .next s))
  ∧ (∀ s : State, s.boot.err = false →
    (s.boot.phase ≠ 5 → exec .measurement s = .next s)
    ∧ (s.boot.phase = 6 → s.boot.started = true → ∃ u, exec .firmwareStartTimeout s = .next u ∧ failedAs s u 0x0C ∧ u.boot.phase = 5)
    ∧ ((s.boot.phase ≠ 6 ∨ s.boot.started = false) → exec .firmwareStartTimeout s = .next s))

/-- INVENTORY, REPAIR_APPLY, BRAID_TRAINING, TWIN_HANDSHAKE, HOST_LINK_UP and CFG_DONE (R101, R118, R146, R154, R292, R361, R362, R374 to R379, R399). The MC takes stock of the stacks,
buses, modules, slots and board, and gives the I3C targets that the parameter block names their addresses. Repairs go into the remap tables, Wafer maps and self-test results, and every scratchpad row is zero. A cabled port comes into service under partition 0 and is in training, and the phase ends once every one has trained. The
twin's handshake, which refuses a peer of another major, leaves it SOLO. At CFG_DONE the inventory is measured and, after SRST_N, the retained records enter again. -/
def Obligations.InventoryRepairTrainingAndDone : Prop :=
  (∀ (o : InvObs) (s : State),
    (s.boot.phase = 6 → s.boot.err = false → mcUp s = true →
      ∃ u, exec (.inventory o) s = .next u
        ∧ u.boot = { s.boot with phase := 7, reads := 0, acc := false, retry := false, phy := { s.boot.phy with stk := List.range s.build.nstack } }
        ∧ u.mc.dyn = (i3cTargets s).filter (fun t => !u.mc.i3c.getLsbD t.1)
        ∧ (∀ p x y, p < s.build.nstack → x = o.stks.getD p ⟨false, 0, 0, 0, 0⟩ → y = o.stks.getD 0 ⟨false, 0, 0, 0, 0⟩ →
            (getStk u p).present = x.present
            ∧ ((getStk u p).mismatch = true ↔ x.present = true ∧ x.id1.toNat % 65536 ≠ y.id1.toNat % 65536)
            ∧ ((getStk u p).failed = true ↔ x.present = false ∨ (getStk u p).mismatch = true)
            ∧ (x.present = true → (getStk u p).id = [x.id0, x.id1, x.id2, x.id3])
            ∧ ((getStk u p).failed = false → liveReg u (rSTK p 0) = 1))
        ∧ (u.stk.out = true ↔ s.stk.out = true ∨ ∃ p, p < s.build.nstack ∧ (getStk u p).failed = true)
        ∧ (∀ b ∈ o.buses, b.stuck = true → b.bus ≤ 1 → u.mc.i3c.getLsbD (match b.channel with
            | some c => 8 + 8 * b.bus + c % 8
            | none => b.bus) = true)
        ∧ (o.buses = [] → u.mc.i3c = s.mc.i3c)
        ∧ u.mc.inv = (List.range s.build.nstack).map (stackEntry o)
            ++ (List.range s.build.nbraid).map (fun p => modEntry u (modOf o p))
            ++ (List.range s.build.nslot).map (slotEntry o) ++ boardEntry u o
        ∧ u = { s with boot := u.boot, mc := u.mc, stk := u.stk, regs := u.regs, flt := u.flt } ∧ u.stk.mem = s.stk.mem)
    ∧ ((s.boot.phase ≠ 6 ∨ mcUp s = false) → exec (.inventory o) s = .next s))
  ∧ (∀ (half0 half1 : List Byte) (a : Area) (st : List SelfTest) (f : Fuses) (s : State), s.boot.fuses = some f → a = activeHalf half0 half1 →
    (s.boot.phase ≠ 7 → exec (.repairApply ⟨half0, half1⟩ st) s = .next s)
    ∧ (s.boot.phase = 7 → s.boot.err = false → ∃ u, exec (.repairApply ⟨half0, half1⟩ st) s = .next u
      ∧ u.spad = [] ∧ u.rows = [] ∧ u.errs = [] ∧ areaAt u f.cfgpos = a
      ∧ ((∃ p ∈ cabled s, p ∉ s.boot.trained) → u.boot.phase = 8)
      ∧ ((∀ p ∈ cabled s, p ∈ s.boot.trained ∧ (getPort s p).train = none) → u.boot.phase = 9 ∨ u.boot.phase = 10)
      ∧ (f.testrep = [] → st = [] → ∀ e, a.ents = [e] →
        (e.crcOk = false → u.cores = s.cores ∧ (s.flt.buf = [] → ∃ r, u.flt.buf = [r] ∧ r.code = FCode.repairTorn.code))
        ∧ (∀ i, e.crcOk = true → e.kind = 1 → e.unit < s.build.ncore → freeRemap s e.unit e.sub = some i →
          (∀ k, k < 32 → ∀ m, smGet none (getCore s e.unit).remap (32 * e.sub + k) = some m → m.lrow ≠ e.val) →
          smGet none (getCore u e.unit).remap (32 * e.sub + i) = some ⟨true, e.val⟩
            ∧ ∀ k, k ≠ 32 * e.sub + i → smGet none (getCore u e.unit).remap k = smGet none (getCore s e.unit).remap k)
        ∧ (e.crcOk = true → e.kind = 3 → e.unit % 8 < s.build.nstack → e.val % 512 ≤ 287 → u.cores = s.cores
            ∧ (getStk u (e.unit % 8)).lanes = (getStk s (e.unit % 8)).lanes ++ [(e.sub, e.val % 512)])
        ∧ (e.crcOk = true → e.kind ≠ 3 → u.stk = s.stk)
        ∧ (e.crcOk = true → e.kind = 2 → e.unit < s.build.ncore → smGet 32 (getCore u e.unit).rowmap e.sub = e.val))
      ∧ (∀ x, st = [x] → x.core < s.build.ncore → (getCore u x.core).sout = x.sout)
      ∧ u.stk.mem = s.stk.mem
      ∧ u = { s with boot := u.boot, mc := u.mc, cores := u.cores, stk := u.stk, spad := [], rows := [], errs := [], flt := u.flt }))
  ∧ (∀ (port : Nat) (o : TrainObs) (pb : ParamBlk) (s : State), s.boot.params = some pb →
    (s.boot.phase ≠ 8 ∨ port ∉ cabled s ∨ port ∈ s.boot.trained → exec (.braidTraining port o) s = .next s)
    ∧ (s.boot.phase = 8 → s.boot.err = false → port ∈ cabled s → port ∉ s.boot.trained →
      ∃ u, exec (.braidTraining port o) s = .next u ∧ (getPort u port).en = true ∧ (getPort u port).part = 0
        ∧ u.boot.trained = port :: s.boot.trained
        ∧ (getPort u port).st = 1 ∧ (getPort u port).train = some o ∧ u.boot.phase = 8
        ∧ liveReg u (rBRD port 0) = BitVec.ofNat 32 (if pb.brdlr.getLsbD port then 3 else 1)
        ∧ u.boot.phy.bl = port :: s.boot.phy.bl
        ∧ (∀ k, k ≠ port → getPort u k = getPort s k) ∧ u = { s with boot := u.boot, regs := u.regs, ports := u.ports, posts := u.posts })
    ∧ (s.boot.phase = 8 → (∀ p ∈ cabled s, p ∈ s.boot.trained) →
        (settleTrain s).boot.phase = if s.build.twin && pb.twincab then 9 else 10)
    ∧ (s.boot.phase = 8 → (∃ p ∈ cabled s, p ∉ s.boot.trained) → (settleTrain s).boot.phase = 8))
  ∧ (∀ (reach : Bool) (peng minor maj stp : Nat) (bld : W64) (ms : BitVec 384) (body : List Byte) (s : State),
    body = natLe 2 peng ++ natLe 8 bld.toNat ++ natLe 1 stp ++ dig48 ms →
    (s.boot.phase ≠ 9 → exec (.twinHandshake reach peng minor ⟨maj, bld, stp, ms⟩) s = .next s)
    ∧ (s.boot.phase = 9 → s.boot.err = false → ∃ u, exec (.twinHandshake reach peng minor ⟨maj, bld, stp, ms⟩) s = .next u ∧ u.boot.phase = 10
      ∧ u.twin.st = s.twin.st ∧ (u.twin.linkup = true ↔ reach = true ∧ maj = 1 ∧ peng ≠ engId s) ∧ u.boot.phy.hl = true
      ∧ (u.twin.linkup = true → u.twin.peer = some peng ∧ u.mc.inv = s.mc.inv ++ [⟨5, 0, 0, body⟩])
      ∧ (u.twin.linkup = false → u.twin.peer = none ∧ u.mc.inv = s.mc.inv ++ [⟨5, 0, 2, []⟩])
      ∧ (∀ k, k < 16 → getPort u k = getPort s k)
      ∧ u = { s with boot := u.boot, twin := u.twin, ports := u.ports, mc := u.mc }))
  ∧ (∀ (l0 : Bool) (s : State), s.boot.err = false →
    (s.boot.phase = 10 → exec (.hostLinkUp l0) s
      = .next { s with boot := { s.boot with phase := 11, reads := 0, acc := false, retry := false, l0 := l0 } })
    ∧ (s.boot.phase = 11 → exec (.hostLinkUp l0) s = .next { s with boot := { s.boot with l0 := s.boot.l0 || l0 } })
    ∧ (s.boot.phase < 10 → exec (.hostLinkUp l0) s = .next s)
    ∧ (s.boot.phase ≠ 11 ∨ s.cfgDone = true → exec .cfgDone s = .next s)
    ∧ (s.boot.phase = 11 → s.cfgDone = false → ∃ u, exec .cfgDone s = .next u ∧ u.cfgDone = true
      ∧ getMeas u 6 = ⟨sha384 (dig48 (getMeas s 6).value ++ dig48 (sha384 (inventoryRec s))), (getMeas s 6).extcnt + 1, true, true⟩
      ∧ (∀ k, k ≠ 6 → getMeas u k = getMeas s k) ∧ (s.boot.soft = false → u.flt = s.flt)
      ∧ (s.boot.soft = true → (∀ r ∈ s.flt.retained, r.sev ≠ 0) → s.flt.buf.length + s.flt.retained.length ≤ 64 →
          u.flt.buf.length = s.flt.buf.length + s.flt.retained.length ∧ u.flt.next = s.flt.next + BitVec.ofNat 32 s.flt.retained.length
          ∧ (∀ r ∈ s.flt.retained, ∃ x ∈ u.flt.buf, x = { r with retained := true, id := x.id, seq := x.seq })
          ∧ (s.flt.buf = [] → u.flt.buf.map (fun r => (r.code, r.detail, r.retained)) = s.flt.retained.map (fun r => (r.code, r.detail, true))))
      ∧ u = { s with cfgDone := true, meas := u.meas, flt := u.flt }))

/-! ### SPDM (chapter 15) -/

/-- The SPDM requests (R362, R380, R381, R410, Table 15.12): while the responder is up, a request whose connection step, session and operands are in order is answered as listed, secured
where it stands in a session, and the connection of its transport goes on; another gets ERROR and leaves its connection, but for a failed FINISH, which ends the session. Where the
responder is not up, nothing happens. A measurement is answered with its value as it stands, its index raised by one. The codes and the layout of the bodies are the model's (log 36, PRESUMED). -/
def Obligations.SpdmRequestsAreAnswered : Prop :=
  (∀ (t : Tport) (x : Spdm) (s : State) (c : Instr) (ok : Prop) (sec : Bool) (code p1 p2 : Nat) (body tail : List Byte) (y : Spdm) (n : Nat)
    (blocks : List Nat → List Byte),
    spdmUp s t = true → x = getSpdm s t → tail = digBytes (Config.random s.free) ++ natLe 2 0 ++ aliasSign s 0 →
    (∀ is, blocks is = natLe 1 is.length ++ natLe 3 (is.flatMap (measBlock s)).length ++ is.flatMap (measBlock s) ++ tail) →
    ((c, ok, sec, code, p1, p2, body, y, n) ∈ ([
        (.getVersion t, True, false, 0x04, 0, 0, natLe 1 0 ++ natLe 1 2 ++ natLe 2 0x1200 ++ natLe 2 0x1300, { emptySpdm with step := 1 }, 0),
        (.getCapabilities t, 1 ≤ x.step, false, 0x61, 0, 0, natLe 1 0 ++ freeBytes s 0 1 ++ natLe 2 0 ++ natLe 4 capFlags ++ freeBytes s 1 8,
          { x with step := max x.step 2 }, 1),
        (.negotiateAlgorithms t true, 2 ≤ x.step, false, 0x63, 3, 0, algBytes, { x with step := 3 }, 0),
        (.negotiateAlgorithms t false, 2 ≤ x.step, false, 0x7F, 1, 0, [], x, 0),
        (.getDigests t, 3 ≤ x.step, false, 0x01, 1, 1, dig48 (sha384 (chain s)), x, 0),
        (.getCertificate t 0, 3 ≤ x.step, false, 0x02, 0, 0, natLe 2 (chain s).length ++ natLe 2 0 ++ chain s, x, 0),
        (.getMeasurements t 0, 3 ≤ x.step, false, 0x60, 16, 0, blocks [], x, 1),
        (.getMeasurements t 255, 3 ≤ x.step, false, 0x60, 0, 0, blocks measIndices, x, 1),
        (.heartbeat t, 3 ≤ x.step ∧ x.sess.isSome = true ∧ x.shake = false, true, 0x68, 0, 0, [], x, 0),
        (.keyUpdate t false, 3 ≤ x.step ∧ x.sess.isSome = true ∧ x.shake = false, true, 0x69, 1, 0, [], { x with kReq := x.kReq + 1 }, 0),
        (.keyUpdate t true, 3 ≤ x.step ∧ x.sess.isSome = true ∧ x.shake = false, true, 0x69, 2, 0, [],
          { x with kReq := x.kReq + 1, kRsp := x.kRsp + 1 }, 0),
        (.endSession t, 3 ≤ x.step ∧ x.sess.isSome = true ∧ x.shake = false, true, 0x6C, 0, 0, [], { x with sess := none, kReq := 0, kRsp := 0 }, 0),
        (.finish t true, 3 ≤ x.step ∧ x.sess.isSome = true ∧ x.shake = true, true, 0x65, 0, 0, [], { x with shake := false, kReq := 0, kRsp := 0 }, 0),
        (.finish t false, 3 ≤ x.step ∧ x.sess.isSome = true ∧ x.shake = true, true, 0x7F, 6, 0, [], { x with sess := none, shake := false }, 0)]
        : List (Instr × Prop × Bool × Nat × Nat × Nat × List Byte × Spdm × Nat))
      ∨ (sec = false ∧ p2 = 0 ∧ y = x
        ∧ ((∃ slot, slot ≠ 0 ∧ c = .getCertificate t slot ∧ ok = (3 ≤ x.step) ∧ code = 0x7F ∧ p1 = 1 ∧ body = [] ∧ n = 0)
          ∨ (∃ k, k ≠ 0 ∧ k ≠ 255 ∧ k - 1 ∉ measIndices ∧ c = .getMeasurements t k ∧ ok = (3 ≤ x.step) ∧ code = 0x7F ∧ p1 = 1 ∧ body = [] ∧ n = 0)
          ∨ (∃ i, i ∈ measIndices ∧ c = .getMeasurements t (i + 1) ∧ ok = (3 ≤ x.step) ∧ code = 0x60 ∧ p1 = 0 ∧ n = 1 ∧ body = blocks [i])
          ∨ (∃ sid, c = .keyExchange t sid ∧ ok = (3 ≤ x.step ∧ x.sess.isSome = true) ∧ code = 0x7F ∧ p1 = 10 ∧ n = 0 ∧ body = [])))
      ∨ (sec = false ∧ p1 = 0 ∧ p2 = 1 ∧ y = x ∧ n = 1
        ∧ ∃ nonce, c = .challenge t nonce ∧ ok = (3 ≤ x.step) ∧ code = 0x03 ∧ body = dig48 (sha384 (chain s)) ++ tail)
      ∨ (sec = false ∧ p1 = 0 ∧ p2 = 0 ∧ n = 1
        ∧ ∃ sid, c = .keyExchange t sid ∧ ok = (3 ≤ x.step ∧ x.sess = none) ∧ code = 0x64
          ∧ body = natLe 2 ((Config.random s.free).truncate 16 : BitVec 16).toNat ++ natLe 2 0 ++ freeBytes s 96 128 ++ natLe 2 0 ++ aliasSign s 0
              ++ freeBytes s 224 48
          ∧ y = { x with sess := some (sid, (Config.random s.free).truncate 16), shake := true })) →
    ok → ∃ u, exec c s = .next u ∧ getSpdm u t = y ∧ (∀ k, k ≠ t → getSpdm u k = getSpdm s k)
      ∧ u = { s with spdm := u.spdm, free := s.free + n, posts := s.posts ++ [.spdm t (msgType t sec) code (natLe 1 p1 ++ natLe 1 p2 ++ body)] })
  ∧ (∀ (t : Tport) (s : State) (c : Instr) (need : Nat) (sess sec : Bool),
    ((c = .getCapabilities t ∧ need = 1 ∧ sess = false ∧ sec = false) ∨ (∃ b, c = .negotiateAlgorithms t b ∧ need = 2 ∧ sess = false ∧ sec = false)
      ∨ (c = .getDigests t ∧ need = 3 ∧ sess = false ∧ sec = false) ∨ (∃ k, c = .getCertificate t k ∧ need = 3 ∧ sess = false ∧ sec = false)
      ∨ (∃ k, c = .challenge t k ∧ need = 3 ∧ sess = false ∧ sec = false) ∨ (∃ k, c = .getMeasurements t k ∧ need = 3 ∧ sess = false ∧ sec = false)
      ∨ (∃ k, c = .keyExchange t k ∧ need = 3 ∧ sess = false ∧ sec = false) ∨ (∃ k, c = .finish t k ∧ need = 3 ∧ sess = false ∧ sec = true)
      ∨ (c = .heartbeat t ∧ need = 3 ∧ sess = true ∧ sec = true) ∨ (∃ b, c = .keyUpdate t b ∧ need = 3 ∧ sess = true ∧ sec = true)
      ∨ (c = .endSession t ∧ need = 3 ∧ sess = true ∧ sec = true)) →
    (spdmUp s t = false → exec c s = .next s ∧ exec (.getVersion t) s = .next s)
    ∧ (spdmUp s t = true → ((getSpdm s t).step < need ∨ (sess = true ∧ ((getSpdm s t).sess = none ∨ (getSpdm s t).shake = true))) →
        exec c s = .next { s with posts := s.posts ++ [.spdm t (msgType t sec) 0x7F (natLe 1 4 ++ natLe 1 0)] }))
  ∧ (∀ (t : Tport) (b : Bool) (s : State), spdmUp s t = true → 3 ≤ (getSpdm s t).step →
    ((getSpdm s t).sess = none ∨ (getSpdm s t).shake = false) →
    exec (.finish t b) s = .next { s with posts := s.posts ++ [.spdm t (msgType t true) 0x7F (natLe 1 4 ++ natLe 1 0)] })
  ∧ (∀ (s : State) (i : Nat), measBlock s i
      = natLe 1 (i + 1) ++ natLe 1 1 ++ natLe 2 51 ++ natLe 1 (measType i) ++ natLe 2 48 ++ dig48 (getMeas s i).value)

/-! ### The whole block -/

/-- One step takes the command at the front of the queue and answers what it does with the queue's rest; no command touches that rest. On an empty
queue with no stream command waiting the block idles (log 2). The table's rows have no bits, so no word spells a command (log 3). -/
def Obligations.StepRunsTheFrontCommand : Prop :=
  (∀ (c : Instr) (rest : List Instr) (s : State), s.pending = c :: rest → step s = exec c { s with pending := rest })
  ∧ (∀ s : State, s.pending = [] → s.held = [] → step s = .next s)
  ∧ (∀ (c : Instr) (s u : State), exec c s = .next u → u.pending = s.pending)
  ∧ (∀ (nbits w : Nat) (s : State), Sys2Proof.decodeTableWord nbits w = none ∧ s.withFetchWord nbits w = s)

/-- What reset leaves, by the values the spec gives: count 0, LOCKED on the local source that BEAT_SRC selects (R240), start-up in phase 1 with no failure (R361), the fault buffer empty
and SEQ 0, FLT_CTL, PART_CTL and PART_QUOTA at their reset values (Tables 17.6, 18.7), no port UP, no slot loaded, the twin SOLO, no Extent valid, no key, no queue
resident; nothing waits. The invariant of StepsKeepTheInvariant holds. -/
def Obligations.ResetLeavesTheStatedValues : Prop :=
  State.reset.beat.b = 0 ∧ State.reset.beat.start = 0 ∧ State.reset.beat.st = .locked ∧ State.reset.beat.active = .loc
  ∧ (liveReg State.reset rBEAT_SRC).toNat % 4 = 3 ∧ State.reset.boot.phase = 1 ∧ State.reset.boot.err = false ∧ State.reset.cfgDone = false
  ∧ State.reset.flt.buf = [] ∧ State.reset.flt.next = 0 ∧ State.reset.flt.faultn = false ∧ liveReg State.reset rFLT_CTL = 0x0002000C
  ∧ (∀ p, p < 16 → liveReg State.reset (rPART p 8) = 0x200 ∧ liveReg State.reset (rPART p 0x10) = 0xFFFFFFFF
      ∧ liveReg State.reset (rPART p 0x14) = 0xFFFFFFFF ∧ liveReg State.reset (rPART p 0x18) = 0x01003040
      ∧ (getPart State.reset p).keySt = .empty ∧ (getPart State.reset p).seg = none ∧ (getPart State.reset p).link = none)
  ∧ (∀ p, (getPort State.reset p).st = 0 ∧ (getPort State.reset p).en = false) ∧ (∀ n, (getSlt State.reset n).st = 0)
  ∧ State.reset.twin.st = 0 ∧ (∀ n, (smGet emptyExt State.reset.ext.tab n).valid = false) ∧ State.reset.ext.epoch = 0
  ∧ (∀ q, queueAt State.reset q = none) ∧ State.reset.pending = [] ∧ State.reset.held = [] ∧ State.reset.stk.period = 35
  ∧ (∀ g k, getRow State.reset g = emptyRow ∧ memRead State.reset.spad (g * 128) k = List.replicate k 0)
  ∧ memoriesWf State.reset = true ∧ usesOrdered State.reset = true ∧ entsOrdered State.reset = true ∧ slotsWf State.reset = true

/-- Every step keeps the invariant of the block: scratchpad and stack memory in canonical form, the uses of every row and the events of every entry in the order
of their cycles, the scheduler's slots in canonical form; and the build never changes. It holds for every command in every state that meets it. -/
def Obligations.StepsKeepTheInvariant : Prop :=
  ∀ s u : State, memoriesWf s = true → usesOrdered s = true → entsOrdered s = true → slotsWf s = true → step s = .next u →
    memoriesWf u = true ∧ usesOrdered u = true ∧ entsOrdered u = true ∧ slotsWf u = true ∧ u.build = s.build
end

