-- ==== Sys2Proof/Laws/Issue.lean ====
section
/-!
SUPPORT. Laws/Issue.lean: what the issue of a stream instruction comes to, said once: where issuePoint names a cycle, the outcome is that of
the body there.
-/

namespace Sys2Proof.Machine

theorem issued_eq (i : Iss) (t : Nat) (s : State) :
    issued i t s = touch (modStrm s i.core i.strm (fun x => { x with lastIss := t })) t := rfl

theorem goesOn_next (t : State) : goesOn (.next t) := ⟨t, rfl⟩

theorem rampGuard_quiet (s : State) (core t : Nat)
    (h : changeCycles (getCore s core).acts (getCore s core).rampAt t = []) : rampGuard s core t = s := by
  simp [rampGuard, rampCheck, h]

/-- Where nothing is left for a core to do before a cycle, settling it there changes nothing. -/
theorem settleCore_quiet (s : State) (core t : Nat) (h : quietAt s core t = true) : settleCore s core t = s := by
  simp only [quietAt, Bool.and_eq_true, Bool.not_eq_true', beq_iff_eq] at h
  simp [settleCore, catchUp, h.1, rampGuard_quiet s core t h.2]

theorem runBody_ok (i : Iss) (self : Instr) (t : Nat) (fin : Bool) (body : Nat → State → Res) (s s1 : State) (done : Nat)
    (hb : body t (issued i t s) = .ok s1 done) (hw : late s i.strm done = false) :
    runBody i self t fin body s = completedAs (endsSharp self) i s fin s1 done := by
  simp only [issued] at hb
  simp [runBody, hb, hw, completedAs]

/-- An open-mode wait may end in the guard window and beyond (R30, R178). -/
theorem runBody_open (i : Iss) (self : Instr) (t : Nat) (fin : Bool) (body : Nat → State → Res) (s s1 : State) (done : Nat)
    (hb : body t (issued i t s) = .ok s1 done) (hw : openWaits self = true) :
    runBody i self t fin body s = completedAs (endsSharp self) i s fin s1 done := by
  simp only [issued] at hb
  simp [runBody, hb, hw, completedAs]

theorem runBody_bad (i : Iss) (self : Instr) (t : Nat) (fin : Bool) (body : Nat → State → Res) (s s1 : State) (f : Flt)
    (hb : body t (issued i t s) = .bad s1 f) :
    runBody i self t fin body s = raised i s s1 f := by
  simp only [issued] at hb
  simp [runBody, hb, raised]

theorem runBody_wait (i : Iss) (self : Instr) (t : Nat) (fin : Bool) (body : Nat → State → Res) (s : State)
    (hb : body t (issued i t s) = .wait) : runBody i self t fin body s = park s i self [i.strm] := by
  simp only [issued] at hb
  simp [runBody, hb]

/-- An instruction that issues in the state runs its body there. -/
theorem issueGen_point (i : Iss) (self : Instr) (cond : Option Cond) (fin : Bool) (skip : State → State)
    (body : Nat → State → Res) (s s0 : State) (t : Nat) (h : issueHere i cond s = some (t, s0)) :
    issueGen i self cond fin skip body s = .next (runBody i self t fin body s0) := by
  unfold issueHere at h
  split at h
  · rename_i ho
    simp only [opensAt, Bool.and_eq_true, decide_eq_true_eq, Bool.not_eq_true'] at ho
    obtain ⟨⟨⟨⟨⟨⟨⟨⟨h1, h2⟩, h3⟩, h4⟩, hr⟩, h5⟩, h6⟩, h7⟩, h8⟩ := ho
    have h1' : ¬ i.at_ > 4127 := by omega
    unfold issueGen
    simp only [h1', if_false, settleCore_quiet _ _ _ h8, h2, h3, h4, hr, h5, h6, h7, Bool.not_true, Bool.false_eq_true, Nat.lt_irrefl,
      gt_iff_lt]
    split at h
    · simp only [Option.some.injEq, Prod.mk.injEq] at h
      obtain ⟨rfl, rfl⟩ := h
      rfl
    · split at h
      · rename_i hb
        simp only [hb, Bool.not_true, Bool.false_eq_true, if_false]
        split at h
        · cases h
        · rename_i t' hw
          split at h
          · cases h
          · rename_i hl
            simp only [Option.some.injEq, Prod.mk.injEq] at h
            obtain ⟨rfl, rfl⟩ := h
            simp [hw, hl]
      · cases h
  · cases h

theorem issue_ok (i : Iss) (self : Instr) (cond : Option Cond) (body : Nat → State → Res) (s s0 s1 : State) (t done : Nat)
    (h : issueHere i cond s = some (t, s0)) (hb : body t (issued i t s0) = .ok s1 done) (hw : late s0 i.strm done = false) :
    issue i self cond body s = .next (completedAs (endsSharp self) i s0 i.fin s1 done) := by
  unfold issue
  rw [issueGen_point _ _ _ _ _ _ _ _ _ h, runBody_ok _ _ _ _ _ _ _ _ hb hw]

theorem issue_bad (i : Iss) (self : Instr) (cond : Option Cond) (body : Nat → State → Res) (s s0 s1 : State) (t : Nat) (f : Flt)
    (h : issueHere i cond s = some (t, s0)) (hb : body t (issued i t s0) = .bad s1 f) :
    issue i self cond body s = .next (raised i s0 s1 f) := by
  unfold issue
  rw [issueGen_point _ _ _ _ _ _ _ _ _ h, runBody_bad _ _ _ _ _ _ _ _ hb]

theorem issue_wait (i : Iss) (self : Instr) (cond : Option Cond) (body : Nat → State → Res) (s s0 : State) (t : Nat)
    (h : issueHere i cond s = some (t, s0)) (hb : body t (issued i t s0) = .wait) :
    issue i self cond body s = .next (park s0 i self [i.strm]) := by
  unfold issue
  rw [issueGen_point _ _ _ _ _ _ _ _ _ h, runBody_wait _ _ _ _ _ _ hb]

theorem check_none (s : State) (k : Unit → Res) : check s none k = k () := rfl
theorem check_some (s : State) (f : Flt) (k : Unit → Res) : check s (some f) k = .bad s f := rfl

theorem thenR_ok (s : State) (k : State → Res) : thenR (s, none) k = k s := rfl
theorem resOf_ok (s : State) (d : Nat) : resOf (s, none) d = .ok s d := rfl

theorem locate_spad (l : Loc) (n : W32) (m : Nat) (s : State) : (locate l n m s).spad = s.spad := by
  unfold locate; dsimp only; split
  · split <;> rfl
  · rfl
theorem locate_rows (l : Loc) (n : W32) (m : Nat) (s : State) : (locate l n m s).rows = s.rows := by
  unfold locate; dsimp only; split
  · split <;> rfl
  · rfl
theorem locate_cores (l : Loc) (n : W32) (m : Nat) (s : State) : (locate l n m s).cores = s.cores := by
  unfold locate; dsimp only; split
  · split <;> rfl
  · rfl
theorem locate_parts (l : Loc) (n : W32) (m : Nat) (s : State) : (locate l n m s).parts = s.parts := by
  unfold locate; dsimp only; split
  · split <;> rfl
  · rfl
theorem locate_pending (l : Loc) (n : W32) (m : Nat) (s : State) : (locate l n m s).pending = s.pending := by
  unfold locate; dsimp only; split
  · split <;> rfl
  · rfl
theorem locate_build (l : Loc) (n : W32) (m : Nat) (s : State) : (locate l n m s).build = s.build := by
  unfold locate; dsimp only; split
  · split <;> rfl
  · rfl
theorem locate_beat (l : Loc) (n : W32) (m : Nat) (s : State) : (locate l n m s).beat = s.beat := by
  unfold locate; dsimp only; split
  · split <;> rfl
  · rfl

end Sys2Proof.Machine
end

