-- ==== Sys2Proof/Laws/SMap.lean ====
section
/-!
SUPPORT. Laws/SMap.lean: read after write of sparse maps and byte memories, and that every operation keeps the canonical form.
-/

namespace Sys2Proof.Machine

theorem smGet_smDel_ne {α : Type} (d : α) (m : SMap α) (k j : Nat) (h : j ≠ k) :
    smGet d (smDel m k) j = smGet d m j := by
  induction m with
  | nil => rfl
  | cons e r ih =>
    unfold smDel at ih
    obtain ⟨a, v⟩ := e
    by_cases ha : a = k
    · subst ha
      simp [smDel, smGet, ih, Ne.symm h]
    · by_cases hj : a = j
      · subst hj; simp [smDel, smGet, ha]
      · simp [smDel, smGet, ha, hj, ih]

theorem smGet_smDel_same {α : Type} (d : α) (m : SMap α) (k : Nat) : smGet d (smDel m k) k = d := by
  induction m with
  | nil => rfl
  | cons e r ih =>
    unfold smDel at ih
    by_cases ha : e.1 = k <;> simp [smDel, smGet, ha, ih, List.filter_cons]

theorem smGet_smIns_ne {α : Type} (d : α) (m : SMap α) (k j : Nat) (v : α) (h : j ≠ k) :
    smGet d (smIns k v m) j = smGet d m j := by
  induction m with
  | nil => simp [smIns, smGet, Ne.symm h]
  | cons e r ih =>
    obtain ⟨a, w⟩ := e
    by_cases hk : k < a
    · simp [smIns, hk, smGet, Ne.symm h]
    · by_cases hj : a = j
      · subst hj; simp [smIns, hk, smGet]
      · simp [smIns, hk, smGet, hj, ih]

theorem smGet_smIns_same {α : Type} (d : α) (m : SMap α) (k : Nat) (v : α) (h : ∀ e ∈ m, e.1 ≠ k) :
    smGet d (smIns k v m) k = v := by
  induction m with
  | nil => simp [smIns, smGet]
  | cons e r ih =>
    unfold smIns
    have he := h e (by simp)
    by_cases hk : k < e.1
    · simp [hk, smGet]
    · simp [hk, smGet, he, ih (fun x hx => h x (by simp [hx]))]

@[simp] theorem smGet_smSet_same {α : Type} [DecidableEq α] (d : α) (m : SMap α) (k : Nat) (v : α) :
    smGet d (smSet d m k v) k = v := by
  unfold smSet
  by_cases hv : v = d
  · simp [hv, smGet_smDel_same]
  · simp only [hv, if_false]
    exact smGet_smIns_same d _ k v (by simp [smDel])

theorem smGet_smSet_ne {α : Type} [DecidableEq α] (d : α) (m : SMap α) (k j : Nat) (v : α) (h : j ≠ k) :
    smGet d (smSet d m k v) j = smGet d m j := by
  unfold smSet
  by_cases hv : v = d
  · simp [hv, smGet_smDel_ne d m k j h]
  · simp [hv, smGet_smIns_ne _ _ _ _ _ h, smGet_smDel_ne d m k j h]

theorem smGet_smSet {α : Type} [DecidableEq α] (d : α) (m : SMap α) (k j : Nat) (v : α) :
    smGet d (smSet d m k v) j = if j = k then v else smGet d m j := by
  by_cases h : j = k
  · subst h; simp
  · simp [h, smGet_smSet_ne]

/-- Every key of a canonical map is at least `lo`, keys rise, and no entry is the default. -/
def smFrom {α : Type} (d : α) : Nat → SMap α → Prop
  | _, [] => True
  | lo, (a, v) :: r => lo ≤ a ∧ v ≠ d ∧ smFrom d (a + 1) r

theorem smFrom_le {α : Type} {d : α} {lo lo' : Nat} {m : SMap α} (h : lo' ≤ lo) (hm : smFrom d lo m) :
    smFrom d lo' m := by
  cases m with
  | nil => trivial
  | cons e r => exact ⟨le_trans h hm.1, hm.2⟩

theorem smWf_cons {α : Type} [DecidableEq α] (d : α) (a : Nat) (v : α) (r : SMap α) :
    smWf d ((a, v) :: r) = true ↔ v ≠ d ∧ smFrom d (a + 1) r := by
  induction r generalizing a v with
  | nil => simp [smWf, smFrom]
  | cons e r ih =>
    obtain ⟨b, w⟩ := e
    simp only [smWf, Bool.and_eq_true, ih, smFrom]
    simp
    constructor
    · rintro ⟨⟨h1, h2⟩, h3, h4⟩; exact ⟨h1, by omega, h3, h4⟩
    · rintro ⟨h1, h2, h3, h4⟩; exact ⟨⟨h1, by omega⟩, h3, h4⟩

theorem smWf_iff {α : Type} [DecidableEq α] (d : α) (m : SMap α) : smWf d m = true ↔ smFrom d 0 m := by
  cases m with
  | nil => simp [smWf, smFrom]
  | cons e r => obtain ⟨a, v⟩ := e; simp [smWf_cons, smFrom]

theorem smFrom_filter {α : Type} (d : α) (lo : Nat) (m : SMap α) (p : Nat × α → Bool) (h : smFrom d lo m) :
    smFrom d lo (m.filter p) := by
  induction m generalizing lo with
  | nil => trivial
  | cons e r ih =>
    obtain ⟨a, v⟩ := e
    obtain ⟨h1, h2, h3⟩ := h
    by_cases hp : p (a, v) = true
    · simp only [List.filter_cons, hp, if_true]; exact ⟨h1, h2, ih _ h3⟩
    · simp only [List.filter_cons, hp]
      exact smFrom_le (by omega) (ih _ h3)

theorem smFrom_smIns {α : Type} (d : α) (lo k : Nat) (v : α) (m : SMap α) (hk : lo ≤ k) (hv : v ≠ d)
    (hm : smFrom d lo m) (hne : ∀ e ∈ m, e.1 ≠ k) : smFrom d lo (smIns k v m) := by
  induction m generalizing lo with
  | nil => exact ⟨hk, hv, trivial⟩
  | cons e r ih =>
    obtain ⟨a, w⟩ := e
    obtain ⟨h1, h2, h3⟩ := hm
    unfold smIns
    have ha : a ≠ k := hne (a, w) (by simp)
    by_cases hlt : k < a
    · simp only [hlt, if_true]; exact ⟨hk, hv, by omega, h2, h3⟩
    · simp only [hlt, if_false]
      exact ⟨h1, h2, ih (a + 1) (by omega) h3 (fun x hx => hne x (by simp [hx]))⟩

/-- Setting a key keeps the canonical form. -/
theorem smWf_smSet {α : Type} [DecidableEq α] (d : α) (m : SMap α) (k : Nat) (v : α) (h : smWf d m = true) :
    smWf d (smSet d m k v) = true := by
  rw [smWf_iff] at h ⊢
  unfold smSet
  have hd := smFrom_filter d 0 m (fun e => e.1 != k) h
  by_cases hv : v = d
  · simpa [hv, smDel] using hd
  · simp only [hv, if_false]
    exact smFrom_smIns d 0 k v _ (Nat.zero_le _) hv hd (by simp [smDel])

theorem smFrom_append {α : Type} (d : α) (lo mid : Nat) (m n : SMap α) (hm : smFrom d lo m) (hlt : ∀ e ∈ m, e.1 < mid)
    (hn : smFrom d mid n) (hle : lo ≤ mid) : smFrom d lo (m ++ n) := by
  induction m generalizing lo with
  | nil => exact smFrom_le hle hn
  | cons e r ih =>
    obtain ⟨a, v⟩ := e
    have ha : a < mid := hlt (a, v) (by simp)
    exact ⟨hm.1, hm.2.1, ih (a + 1) hm.2.2 (fun x hx => hlt x (by simp [hx])) (by omega)⟩

theorem smFrom_memCells (a : Nat) (bs : List Byte) : smFrom 0 a (memCells a bs) := by
  induction bs generalizing a with
  | nil => trivial
  | cons b r ih =>
    unfold memCells
    by_cases hb : b = 0
    · simp only [hb, if_true]; exact smFrom_le (by omega) (ih (a + 1))
    · simp only [hb, if_false]; exact ⟨le_refl _, hb, ih (a + 1)⟩

theorem memCells_lt (a : Nat) (bs : List Byte) : ∀ e ∈ memCells a bs, e.1 < a + bs.length := by
  induction bs generalizing a with
  | nil => simp [memCells]
  | cons b r ih =>
    intro e he
    unfold memCells at he
    by_cases hb : b = 0
    · simp only [hb, if_true] at he
      have := ih (a + 1) e he
      simp; omega
    · simp only [hb, if_false, List.mem_cons] at he
      rcases he with rfl | he
      · simp
      · have := ih (a + 1) e he
        simp; omega

theorem smFrom_filter_ge {α : Type} (d : α) (lo k : Nat) (m : SMap α) (h : smFrom d lo m) :
    smFrom d k (m.filter (fun e => decide (k ≤ e.1))) := by
  induction m generalizing lo with
  | nil => trivial
  | cons e r ih =>
    obtain ⟨a, v⟩ := e
    obtain ⟨h1, h2, h3⟩ := h
    by_cases hk : k ≤ a
    · simp only [List.filter_cons, hk, decide_true, if_true]
      exact ⟨hk, h2, smFrom_filter d (a + 1) r _ h3⟩
    · simp only [List.filter_cons, hk, decide_false]
      exact ih _ h3

/-- Writing bytes keeps the canonical form of a memory. -/
theorem memWrite_wf (m : Mem) (a : Nat) (bs : List Byte) (h : Memory.wf m = true) :
    Memory.wf (memWrite m a bs) = true := by
  unfold Memory.wf at *
  rw [smWf_iff] at h ⊢
  unfold memWrite
  rw [List.append_assoc]
  refine smFrom_append 0 0 a _ _ (smFrom_filter 0 0 m _ h) (by simp) ?_ (Nat.zero_le _)
  exact smFrom_append 0 a (a + bs.length) _ _ (smFrom_memCells a bs) (memCells_lt a bs)
    (smFrom_filter_ge 0 0 _ m h) (by omega)

theorem smGet_none {α : Type} (d : α) (m : SMap α) (k : Nat) (h : ∀ e ∈ m, e.1 ≠ k) : smGet d m k = d := by
  induction m with
  | nil => rfl
  | cons e r ih => simp [smGet, h e (by simp), ih (fun x hx => h x (by simp [hx]))]

theorem smGet_append {α : Type} (d : α) (m n : SMap α) (k : Nat) (h : ∀ e ∈ m, e.1 ≠ k) :
    smGet d (m ++ n) k = smGet d n k := by
  induction m with
  | nil => rfl
  | cons e r ih => simp [smGet, h e (by simp), ih (fun x hx => h x (by simp [hx]))]

theorem smGet_append_right {α : Type} (d : α) (m n : SMap α) (k : Nat) (h : ∀ e ∈ n, e.1 ≠ k) :
    smGet d (m ++ n) k = smGet d m k := by
  induction m with
  | nil => simpa [smGet] using smGet_none d n k h
  | cons e r ih => by_cases he : e.1 = k <;> simp [smGet, he, ih]

theorem smGet_filter {α : Type} (d : α) (m : SMap α) (k : Nat) (p : Nat × α → Bool) (h : ∀ v, p (k, v) = true) :
    smGet d (m.filter p) k = smGet d m k := by
  induction m with
  | nil => rfl
  | cons e r ih =>
    obtain ⟨a, v⟩ := e
    by_cases ha : a = k
    · subst ha; simp [List.filter_cons, h, smGet]
    · by_cases hp : p (a, v) = true <;> simp [List.filter_cons, hp, smGet, ha, ih]

theorem smGet_memCells (a i : Nat) (bs : List Byte) : smGet 0 (memCells a bs) (a + i) = bs.getD i 0 := by
  induction bs generalizing a i with
  | nil => simp [memCells, smGet]
  | cons b r ih =>
    unfold memCells
    cases i with
    | zero =>
      by_cases hb : b = 0
      · simp only [hb, if_true]
        have hlt : ∀ e ∈ memCells (a + 1) r, e.1 ≠ a := by
          intro e he h
          have := smFrom_memCells (a + 1) r
          have key : ∀ (lo : Nat) (m : Mem), smFrom 0 lo m → ∀ e ∈ m, lo ≤ e.1 := by
            intro lo m hm
            induction m generalizing lo with
            | nil => simp
            | cons x xs ihx =>
              intro e he
              rcases List.mem_cons.mp he with rfl | he
              · exact hm.1
              · have := ihx _ hm.2.2 e he; have := hm.1; omega
          have := key _ _ this e he
          omega
        simpa [hb] using smGet_none 0 _ a hlt
      · rw [if_neg hb]; simp [smGet]
    | succ i =>
      have e1 : a + (i + 1) = a + 1 + i := by omega
      by_cases hb : b = 0
      · simp only [hb, if_true, e1, ih]; simp
      · have : a ≠ a + 1 + i := by omega
        simp only [hb, if_false, e1, smGet, this, ih]; simp

/-- Reading a written byte gives what was written. -/
theorem memWrite_get_in (m : Mem) (a i : Nat) (bs : List Byte) (h : i < bs.length) :
    smGet 0 (memWrite m a bs) (a + i) = bs.getD i 0 := by
  unfold memWrite
  rw [List.append_assoc, smGet_append, smGet_append_right, smGet_memCells]
  · simp; intros; omega
  · simp; intros; omega

/-- A write leaves every other byte as it was. -/
theorem memWrite_get_out (m : Mem) (a k : Nat) (bs : List Byte) (h : k < a ∨ a + bs.length ≤ k) :
    smGet 0 (memWrite m a bs) k = smGet 0 m k := by
  unfold memWrite
  have hc : ∀ e ∈ memCells a bs, e.1 ≠ k := by
    intro e he hk
    have h1 := memCells_lt a bs e he
    have key : ∀ (lo : Nat) (m : Mem), smFrom 0 lo m → ∀ e ∈ m, lo ≤ e.1 := by
      intro lo m hm
      induction m generalizing lo with
      | nil => simp
      | cons x xs ihx =>
        intro e he
        rcases List.mem_cons.mp he with rfl | he
        · exact hm.1
        · have := ihx _ hm.2.2 e he; have := hm.1; omega
    have h2 := key a _ (smFrom_memCells a bs) e he
    omega
  rcases h with h | h
  · rw [List.append_assoc, smGet_append_right, smGet_filter]
    · simp [h]
    · intro e he
      rcases List.mem_append.mp he with he | he
      · exact hc e he
      · simp at he; omega
  · rw [smGet_append, smGet_filter]
    · simp [h]
    · intro e he
      rcases List.mem_append.mp he with he | he
      · simp at he; omega
      · exact hc e he

end Sys2Proof.Machine
end

