-- ==== Sys2Proof/Laws/Frames.lean ====
section
/-!
SUPPORT. Laws/Frames.lean: what the shared operations leave unchanged: reading back a core, a stream or a partition after one is replaced, and
the frame of raising a fault and of completing a stream instruction.
-/

namespace Sys2Proof.Machine

theorem strmCode_inj (a b : Strm) (h : strmCode a = strmCode b) : a = b := by
  cases a <;> cases b <;> first | rfl | exact absurd h (by decide)

theorem getCore_setCore (s : State) (c d : Nat) (v : Core) :
    getCore (setCore s c v) d = if d = c then v else getCore s d := by
  simp [getCore, setCore, smGet_smSet]

theorem getCore_modCore (s : State) (c d : Nat) (f : Core → Core) :
    getCore (modCore s c f) d = if d = c then f (getCore s c) else getCore s d := getCore_setCore s c d _

theorem getPart_setPart (s : State) (p q : Nat) (v : Part) :
    getPart (setPart s p v) q = if q = p then v else getPart s q := by
  simp [getPart, setPart, smGet_smSet]

theorem getPart_modPart (s : State) (p q : Nat) (f : Part → Part) :
    getPart (modPart s p f) q = if q = p then f (getPart s p) else getPart s q := getPart_setPart s p q _

theorem getStrm_setStrm (s : State) (c d : Nat) (k j : Strm) (v : StrmSt) :
    getStrm (setStrm s c k v) d j = if d = c ∧ j = k then v else getStrm s d j := by
  unfold getStrm setStrm
  rw [getCore_modCore]
  by_cases hd : d = c
  · subst hd
    by_cases hj : j = k
    · subst hj; simp
    · have : strmCode j ≠ strmCode k := fun h => hj (strmCode_inj _ _ h)
      simp [hj, smGet_smSet_ne _ _ _ _ _ this]
  · simp [hd]

theorem getStrm_modStrm (s : State) (c d : Nat) (k j : Strm) (f : StrmSt → StrmSt) :
    getStrm (modStrm s c k f) d j = if d = c ∧ j = k then f (getStrm s c k) else getStrm s d j := getStrm_setStrm s c d k j _

theorem sameOutside_refl (s : State) : sameOutside s s := by simp [sameOutside]

theorem sameOutside_trans {a b c : State} (h : sameOutside a b) (k : sameOutside b c) : sameOutside a c := by
  unfold sameOutside at *
  simp_all

theorem sameOutside_setCore (s : State) (c : Nat) (v : Core) : sameOutside s (setCore s c v) := by simp [sameOutside, setCore]
theorem sameOutside_setPart (s : State) (c : Nat) (v : Part) : sameOutside s (setPart s c v) := by simp [sameOutside, setPart]
theorem sameOutside_modCore (s : State) (c : Nat) (f : Core → Core) : sameOutside s (modCore s c f) := sameOutside_setCore _ _ _
theorem sameOutside_modPart (s : State) (c : Nat) (f : Part → Part) : sameOutside s (modPart s c f) := sameOutside_setPart _ _ _
theorem sameOutside_modStrm (s : State) (c : Nat) (k : Strm) (f : StrmSt → StrmSt) : sameOutside s (modStrm s c k f) :=
  sameOutside_modCore _ _ _
theorem sameOutside_touch (s : State) (t : Nat) : sameOutside s (touch s t) := by simp [sameOutside, touch]

theorem sameOutside_enterRec (r : FRec) (s : State) : sameOutside s (enterRec r s) := by
  unfold enterRec; repeat' split
  all_goals simp [sameOutside]

theorem enterRec_cores (r : FRec) (s : State) : (enterRec r s).cores = s.cores := by
  unfold enterRec; repeat' split
  all_goals rfl

theorem sameOutside_swapRec (id : W32) (r : FRec) (s : State) : sameOutside s (swapRec id r s) := by simp [sameOutside, swapRec]

theorem swapRec_cores (id : W32) (r : FRec) (s : State) : (swapRec id r s).cores = s.cores := rfl

theorem sameOutside_raiseRec (s : State) (p : Nat) (g : Seg) (c : FCode) (r : FRec) : sameOutside s (raiseRec s p g c r) := by
  unfold raiseRec; split
  · exact sameOutside_refl _
  · split
    · exact sameOutside_enterRec _ _
    · split
      · exact sameOutside_trans (sameOutside_enterRec _ _) (sameOutside_modPart _ _ _)
      · split
        · unfold earlierRec; dsimp only; split
          · exact sameOutside_trans (sameOutside_swapRec _ _ _) (sameOutside_modPart _ _ _)
          · exact sameOutside_trans (sameOutside_enterRec _ _) (sameOutside_modPart _ _ _)
        · exact sameOutside_enterRec _ _

theorem raiseRec_cores (s : State) (p : Nat) (g : Seg) (c : FCode) (r : FRec) : (raiseRec s p g c r).cores = s.cores := by
  unfold raiseRec; split
  · rfl
  · split
    · exact enterRec_cores _ _
    · split
      · exact enterRec_cores _ _
      · split
        · unfold earlierRec; dsimp only; split
          · rfl
          · exact enterRec_cores _ _
        · exact enterRec_cores _ _

theorem sameOutside_raiseSeg (s : State) (p : Nat) (f : Flt) (loc : Option Loc) : sameOutside s (raiseSeg s p f loc) := by
  unfold raiseSeg; split
  · exact sameOutside_enterRec _ _
  · exact sameOutside_raiseRec _ _ _ _ _

theorem raiseSeg_cores (s : State) (p : Nat) (f : Flt) (loc : Option Loc) : (raiseSeg s p f loc).cores = s.cores := by
  unfold raiseSeg; split
  · exact enterRec_cores _ _
  · exact raiseRec_cores _ _ _ _ _

/-- Locating what an instruction that made no claim has raised changes the fault unit alone. -/
theorem sameOutside_locate (l : Loc) (n : W32) (m : Nat) (s : State) (h : s.claims.length ≤ m) : sameOutside s (locate l n m s) := by
  have hk : s.claims.length - m = 0 := by omega
  unfold locate; dsimp only; rw [hk]
  split
  · split <;> simp [sameOutside]
  · simp [sameOutside]

theorem addCtr_frame (s : State) (core sc t : Nat) (v : W32) :
    sameOutside s (addCtr s core sc t v) ∧ ∃ m, addCtr s core sc t v = modCore s core (fun c => { c with sc := m }) :=
  ⟨sameOutside_modCore _ _ _, smMod zeroCtr (getCore s core).sc sc (fun x => { x with adds := x.adds ++ [(t, v)] }), rfl⟩

/-- What the end of an instruction may change of its core: the stream's block and end, and the counters. -/
def endOf (i : Iss) (s t : State) : Prop :=
  sameOutside s t ∧ (∀ c, c ≠ i.core → getCore t c = getCore s c) ∧
  ∃ sc strm, getCore t i.core = { getCore s i.core with sc := sc, strm := strm } ∧
    (∀ k, k ≠ i.strm → getStrm t i.core k = getStrm s i.core k) ∧
    ∃ b e, getStrm t i.core i.strm = { getStrm s i.core i.strm with blk := b, prevEnd := e }

theorem endOf_refl (i : Iss) (s : State) : endOf i s s :=
  ⟨sameOutside_refl s, fun _ _ => rfl, _, _, rfl, fun _ _ => rfl, _, _, rfl⟩

theorem endOf_trans {i : Iss} {a b c : State} (h : endOf i a b) (k : endOf i b c) : endOf i a c := by
  obtain ⟨h1, h2, hs, ht, h3, h4, hb, he, h5⟩ := h
  obtain ⟨k1, k2, ks, kt, k3, k4, kb, ke, k5⟩ := k
  refine ⟨sameOutside_trans h1 k1, fun c hc => (k2 c hc).trans (h2 c hc), ks, kt, ?_, fun j hj => (k4 j hj).trans (h4 j hj), kb, ke, ?_⟩
  · rw [k3, h3]
  · rw [k5, h5]

theorem endOf_of_cores {i : Iss} {s t : State} (h : sameOutside s t) (hc : t.cores = s.cores) : endOf i s t := by
  have hg : ∀ c, getCore t c = getCore s c := fun c => by simp [getCore, hc]
  have hs : ∀ k, getStrm t i.core k = getStrm s i.core k := fun k => by simp [getStrm, hg]
  exact ⟨h, fun c _ => hg c, (getCore s i.core).sc, (getCore s i.core).strm, hg _, fun k _ => hs k,
    (getStrm s i.core i.strm).blk, (getStrm s i.core i.strm).prevEnd, hs _⟩

theorem endOf_modBlk (i : Iss) (s : State) (b : Option Block) (e : StrmSt → Nat) :
    endOf i s (modStrm s i.core i.strm (fun x => { x with blk := b, prevEnd := e x })) := by
  refine ⟨sameOutside_modStrm _ _ _ _, fun c hc => ?_, (getCore s i.core).sc, _,
    (getCore_setCore s i.core i.core _).trans (if_pos rfl), fun k hk => ?_, b, e (getStrm s i.core i.strm), ?_⟩
  · simp [modStrm, setStrm, getCore_modCore, hc]
  · simp [getStrm_modStrm, hk]
  · simp only [getStrm_modStrm, and_self, if_true]

theorem endOf_addCtr (i : Iss) (s : State) (sc t : Nat) (v : W32) : endOf i s (addCtr s i.core sc t v) := by
  have hs : ∀ k, getStrm (addCtr s i.core sc t v) i.core k = getStrm s i.core k := fun k => by
    simp [addCtr, getStrm, getCore_modCore]
  refine ⟨(addCtr_frame s i.core sc t v).1, fun c hc => ?_, _, (getCore s i.core).strm,
    (getCore_setCore s i.core i.core _).trans (if_pos rfl), fun k _ => hs k, (getStrm s i.core i.strm).blk,
    (getStrm s i.core i.strm).prevEnd, hs _⟩
  simp [addCtr, getCore_modCore, hc]

theorem endOf_endBlock (i : Iss) (s : State) (t : Nat) : endOf i s (endBlock s i.core i.strm t) := by
  unfold endBlock; split
  · exact endOf_refl _ _
  · dsimp only
    have h := endOf_modBlk i s none (fun _ => t)
    split
    · exact endOf_trans h (endOf_addCtr _ _ _ _ _)
    · exact h

theorem endOf_raiseSeg (i : Iss) (s : State) (p : Nat) (f : Flt) (loc : Option Loc) : endOf i s (raiseSeg s p f loc) :=
  endOf_of_cores (sameOutside_raiseSeg _ _ _ _) (raiseSeg_cores _ _ _ _)

theorem endOf_tryEnd (i : Iss) (s : State) (t : Nat) : endOf i s (tryEnd s i.core i.strm t) := by
  unfold tryEnd; split
  · split
    · exact endOf_endBlock _ _ _
    · exact endOf_refl _ _
  · exact endOf_refl _ _

theorem endOf_setBlk (i : Iss) (s : State) (b : Option Block) :
    endOf i s (modStrm s i.core i.strm (fun x => { x with blk := b })) := endOf_modBlk i s b (fun x => x.prevEnd)

theorem endOf_finishInstr (i : Iss) (s : State) (sharp fin : Bool) (done : Nat) : endOf i s (finishInstr s i sharp fin done) := by
  unfold finishInstr; split
  · exact endOf_refl _ _
  · exact endOf_refl _ _
  · dsimp only
    split
    · exact endOf_setBlk i s _
    · split
      · exact endOf_trans (endOf_setBlk i s _) (endOf_trans (endOf_setBlk i _ _) (endOf_raiseSeg i _ _ _ _))
      · split
        · exact endOf_trans (endOf_setBlk i s _) (endOf_endBlock i _ _)
        · exact endOf_trans (endOf_setBlk i s _) (endOf_tryEnd i _ _)

theorem endOf_completedAs (sharp : Bool) (i : Iss) (s0 : State) (fin : Bool) (s1 : State) (done : Nat)
    (h : s1.claims.length ≤ s0.claims.length) : endOf i s1 (completedAs sharp i s0 fin s1 done) :=
  endOf_trans (endOf_of_cores (sameOutside_locate _ _ _ _ h) (locate_cores _ _ _ _)) (endOf_finishInstr i _ _ _ _)

theorem endOf_completed (i : Iss) (s0 : State) (fin : Bool) (s1 : State) (done : Nat) (h : s1.claims.length ≤ s0.claims.length) :
    endOf i s1 (completed i s0 fin s1 done) := endOf_completedAs false i s0 fin s1 done h

end Sys2Proof.Machine
end

