-- ==== Sys2Proof/Laws/Gcm.lean ====
section
/-!
SUPPORT. Laws/Gcm.lean: what GCM seals it opens again (gcmOpen_gcmSeal), for round keys of 16 bytes.
-/

namespace Sys2Proof.Machine

theorem xorBytes_length (a b : List Byte) : (xorBytes a b).length = min a.length b.length := by simp [xorBytes]

/-- What a key stream at least as long covers twice is itself. -/
theorem xorBytes_cancel : ∀ a k : List Byte, a.length ≤ k.length → xorBytes (xorBytes a k) k = a
  | [], _, _ => by simp [xorBytes]
  | _ :: _, [], h => by simp at h
  | x :: a, y :: k, h => by
    have := xorBytes_cancel a k (by simpa using h)
    simp only [xorBytes, List.zipWith_cons_cons, List.cons.injEq] at this ⊢
    exact ⟨by rw [BitVec.xor_assoc, BitVec.xor_self, BitVec.xor_zero], this⟩

theorem shiftRows_length (d : Nat) (b : List Byte) : (shiftRows d b).length = 16 := by simp [shiftRows]

theorem mixColumns_length (m : Nat × Nat × Nat × Nat) (b : List Byte) (h : b.length = 16) : (mixColumns m b).length = 16 := by
  match b, h with
  | [_, _, _, _, _, _, _, _, _, _, _, _, _, _, _, _], _ => rfl

theorem cipherRound_length (b : List Byte) (k : List Byte × Bool) (hk : k.1.length = 16) : (cipherRound b k).length = 16 := by
  simp only [cipherRound, xorBytes_length, hk]
  split
  · simp [shiftRows_length]
  · simp [mixColumns_length, shiftRows_length]

theorem cipherRounds_length : ∀ (ks : List (List Byte × Bool)) (b : List Byte), (∀ k ∈ ks, k.1.length = 16) → b.length = 16 →
    (ks.foldl cipherRound b).length = 16
  | [], _, _, hb => hb
  | k :: ks, b, h, _ => cipherRounds_length ks _ (fun x hx => h x (by simp [hx])) (cipherRound_length b k (h k (by simp)))

/-- A block enciphered under round keys of 16 bytes has 16 bytes. -/
theorem aesEnc_length (ks : List (List Byte)) (b : List Byte) (h : ∀ k ∈ ks, k.length = 16) (h0 : ks ≠ []) (hb : b.length = 16) :
    (aesEnc ks b).length = 16 := by
  apply cipherRounds_length
  · intro k hk
    obtain ⟨⟨a, i⟩, ha, rfl⟩ := List.mem_map.1 hk
    exact h a (List.mem_of_mem_tail (List.fst_mem_of_mem_zipIdx ha))
  · cases ks with
    | nil => exact absurd rfl h0
    | cons a t => simp [xorBytes_length, hb, h a (by simp)]

theorem natLe_length : ∀ n v : Nat, (natLe n v).length = n
  | 0, _ => by simp [natLe]
  | n + 1, v => by simp [natLe, natLe_length n]

theorem ctrBlock_length (iv n : Nat) : (ctrBlock iv n).length = 16 := by simp [ctrBlock, natBe, natLe_length]

/-- A string under the key stream whose first block is block `j`. -/
theorem keyStream_twice (e : Nat → List Byte) (he : ∀ j, (e j).length = 16) : ∀ (fuel j : Nat) (bs : List Byte), bs.length ≤ 16 * fuel →
    let c (x : List Byte) : List Byte := (((pieces 16 fuel x).zipIdx j).map (fun (b, j) => xorBytes b (e j))).flatten
    (c bs).length = bs.length ∧ c (c bs) = bs
  | 0, _, [], _ => by simp [pieces]
  | 0, _, _ :: _, h => by simp at h
  | n + 1, j, bs, h => by
    match bs with
    | [] => simp [pieces]
    | x :: xs =>
      have hl : ((x :: xs).drop 16).length ≤ 16 * n := by simp at h ⊢; omega
      obtain ⟨h1, h2⟩ := keyStream_twice e he n (j + 1) ((x :: xs).drop 16) hl
      intro c
      have hc : c (x :: xs) = xorBytes ((x :: xs).take 16) (e j)
          ++ (((pieces 16 n ((x :: xs).drop 16)).zipIdx (j + 1)).map (fun (b, j) => xorBytes b (e j))).flatten := by
        simp [c, pieces]
      have hk : (xorBytes ((x :: xs).take 16) (e j)).length = ((x :: xs).take 16).length := by rw [xorBytes_length, he, List.length_take]; omega
      have hlen : (c (x :: xs)).length = (x :: xs).length := by
        rw [hc, List.length_append, hk, h1, ← List.length_append, List.take_append_drop]
      refine ⟨hlen, ?_⟩
      have hne : (c (x :: xs)).isEmpty = false := by
        cases hcc : c (x :: xs) with
        | nil => rw [hcc] at hlen; exact absurd hlen (by simp)
        | cons _ _ => rfl
      have htake : (c (x :: xs)).take 16 = xorBytes ((x :: xs).take 16) (e j)
          ∧ (c (x :: xs)).drop 16 = (((pieces 16 n ((x :: xs).drop 16)).zipIdx (j + 1)).map (fun (b, j) => xorBytes b (e j))).flatten := by
        rw [hc]
        by_cases hx : 16 ≤ (x :: xs).length
        · have : (xorBytes ((x :: xs).take 16) (e j)).length = 16 := by rw [hk, List.length_take]; omega
          exact ⟨List.take_left' this, List.drop_left' this⟩
        · have h0 : (x :: xs).drop 16 = [] := List.drop_eq_nil_of_le (by omega)
          rw [h0] at h1 ⊢
          have h3 := List.length_eq_zero_iff.1 h1
          dsimp only at h3
          rw [h3, List.append_nil]
          have : (xorBytes ((x :: xs).take 16) (e j)).length ≤ 16 := by rw [hk, List.length_take]; omega
          exact ⟨List.take_of_length_le this, List.drop_eq_nil_of_le this⟩
      have hc2 : c (c (x :: xs)) = xorBytes ((c (x :: xs)).take 16) (e j)
          ++ (((pieces 16 n ((c (x :: xs)).drop 16)).zipIdx (j + 1)).map (fun (b, j) => xorBytes b (e j))).flatten := by
        show (((pieces 16 (n + 1) (c (x :: xs))).zipIdx j).map _).flatten = _
        rw [pieces, hne]; simp
      rw [hc2, htake.1, htake.2, xorBytes_cancel _ _ (by rw [he, List.length_take]; omega)]
      exact (congrArg _ h2).trans (List.take_append_drop 16 (x :: xs))

/-- The key stream applied twice gives the string back. -/
theorem gcmCrypt_gcmCrypt (ks : List (List Byte)) (iv : Nat) (bs : List Byte) (h : ∀ k ∈ ks, k.length = 16) (h0 : ks ≠ []) :
    gcmCrypt ks iv (gcmCrypt ks iv bs) = bs := by
  obtain ⟨h1, h2⟩ := keyStream_twice (fun j => aesEnc ks (ctrBlock iv (j + 2))) (fun j => aesEnc_length ks _ h h0 (ctrBlock_length iv _))
    ((bs.length + 15) / 16) 0 bs (by omega)
  unfold gcmCrypt
  rw [h1]
  exact h2

/-- Cipher text is as long as the plain text. -/
theorem gcmCrypt_length (ks : List (List Byte)) (iv : Nat) (bs : List Byte) (h : ∀ k ∈ ks, k.length = 16) (h0 : ks ≠ []) :
    (gcmCrypt ks iv bs).length = bs.length :=
  (keyStream_twice (fun j => aesEnc ks (ctrBlock iv (j + 2))) (fun j => aesEnc_length ks _ h h0 (ctrBlock_length iv _))
    ((bs.length + 15) / 16) 0 bs (by omega)).1

/-- What GCM seals it opens again. -/
theorem gcmOpen_gcmSeal (ks : List (List Byte)) (iv : Nat) (aad pt : List Byte) (h : ∀ k ∈ ks, k.length = 16) (h0 : ks ≠ []) :
    gcmOpen ks iv aad (gcmSeal ks iv aad pt).1 (gcmSeal ks iv aad pt).2 = some pt := by
  simp [gcmOpen, gcmSeal, gcmCrypt_gcmCrypt ks iv pt h h0]

end Sys2Proof.Machine
end

