-- ==== Sys2Proof/Laws/State.lean ====
section
/-!
SUPPORT. Laws/State.lean: what each update of one part of the state leaves in every other part: one lemma per update and field, true by
unfolding, so that no later proof unfolds a record update.
-/

namespace Sys2Proof.Machine

/-! ### setCore -/
@[simp] theorem setCore_build (s : State) (c : Nat) (v : Core) : (setCore s c v).build = s.build := rfl
@[simp] theorem setCore_beat (s : State) (c : Nat) (v : Core) : (setCore s c v).beat = s.beat := rfl
@[simp] theorem setCore_now (s : State) (c : Nat) (v : Core) : (setCore s c v).now = s.now := rfl
@[simp] theorem setCore_parts (s : State) (c : Nat) (v : Core) : (setCore s c v).parts = s.parts := rfl
@[simp] theorem setCore_spad (s : State) (c : Nat) (v : Core) : (setCore s c v).spad = s.spad := rfl
@[simp] theorem setCore_rows (s : State) (c : Nat) (v : Core) : (setCore s c v).rows = s.rows := rfl
@[simp] theorem setCore_stk (s : State) (c : Nat) (v : Core) : (setCore s c v).stk = s.stk := rfl
@[simp] theorem setCore_ext (s : State) (c : Nat) (v : Core) : (setCore s c v).ext = s.ext := rfl
@[simp] theorem setCore_host (s : State) (c : Nat) (v : Core) : (setCore s c v).host = s.host := rfl
@[simp] theorem setCore_ports (s : State) (c : Nat) (v : Core) : (setCore s c v).ports = s.ports := rfl
@[simp] theorem setCore_slots (s : State) (c : Nat) (v : Core) : (setCore s c v).slots = s.slots := rfl
@[simp] theorem setCore_flt (s : State) (c : Nat) (v : Core) : (setCore s c v).flt = s.flt := rfl
@[simp] theorem setCore_posts (s : State) (c : Nat) (v : Core) : (setCore s c v).posts = s.posts := rfl
@[simp] theorem setCore_regs (s : State) (c : Nat) (v : Core) : (setCore s c v).regs = s.regs := rfl
@[simp] theorem setCore_held (s : State) (c : Nat) (v : Core) : (setCore s c v).held = s.held := rfl
@[simp] theorem setCore_pending (s : State) (c : Nat) (v : Core) : (setCore s c v).pending = s.pending := rfl
@[simp] theorem setCore_twin (s : State) (c : Nat) (v : Core) : (setCore s c v).twin = s.twin := rfl
@[simp] theorem setCore_boot (s : State) (c : Nat) (v : Core) : (setCore s c v).boot = s.boot := rfl
@[simp] theorem setCore_errs (s : State) (c : Nat) (v : Core) : (setCore s c v).errs = s.errs := rfl
@[simp] theorem setCore_mesh (s : State) (c : Nat) (v : Core) : (setCore s c v).mesh = s.mesh := rfl
@[simp] theorem setCore_flitErrs (s : State) (c : Nat) (v : Core) : (setCore s c v).flitErrs = s.flitErrs := rfl
@[simp] theorem setCore_claims (s : State) (c : Nat) (v : Core) : (setCore s c v).claims = s.claims := rfl
@[simp] theorem setCore_lands (s : State) (c : Nat) (v : Core) : (setCore s c v).lands = s.lands := rfl
@[simp] theorem setCore_stores (s : State) (c : Nat) (v : Core) : (setCore s c v).stores = s.stores := rfl
@[simp] theorem setCore_nextId (s : State) (c : Nat) (v : Core) : (setCore s c v).nextId = s.nextId := rfl
@[simp] theorem setCore_nextKey (s : State) (c : Nat) (v : Core) : (setCore s c v).nextKey = s.nextKey := rfl
@[simp] theorem setCore_mkey (s : State) (c : Nat) (v : Core) : (setCore s c v).mkey = s.mkey := rfl
@[simp] theorem setCore_mbx (s : State) (c : Nat) (v : Core) : (setCore s c v).mbx = s.mbx := rfl
@[simp] theorem setCore_xouts (s : State) (c : Nat) (v : Core) : (setCore s c v).xouts = s.xouts := rfl
@[simp] theorem setCore_loads (s : State) (c : Nat) (v : Core) : (setCore s c v).loads = s.loads := rfl
@[simp] theorem setCore_meas (s : State) (c : Nat) (v : Core) : (setCore s c v).meas = s.meas := rfl
@[simp] theorem setCore_spdm (s : State) (c : Nat) (v : Core) : (setCore s c v).spdm = s.spdm := rfl
@[simp] theorem setCore_mc (s : State) (c : Nat) (v : Core) : (setCore s c v).mc = s.mc := rfl
@[simp] theorem setCore_therm (s : State) (c : Nat) (v : Core) : (setCore s c v).therm = s.therm := rfl
@[simp] theorem setCore_scrub (s : State) (c : Nat) (v : Core) : (setCore s c v).scrub = s.scrub := rfl
@[simp] theorem setCore_free (s : State) (c : Nat) (v : Core) : (setCore s c v).free = s.free := rfl
@[simp] theorem setCore_cfgDone (s : State) (c : Nat) (v : Core) : (setCore s c v).cfgDone = s.cfgDone := rfl

/-! ### modCore -/
@[simp] theorem modCore_build (s : State) (c : Nat) (f : Core → Core) : (modCore s c f).build = s.build := rfl
@[simp] theorem modCore_beat (s : State) (c : Nat) (f : Core → Core) : (modCore s c f).beat = s.beat := rfl
@[simp] theorem modCore_now (s : State) (c : Nat) (f : Core → Core) : (modCore s c f).now = s.now := rfl
@[simp] theorem modCore_parts (s : State) (c : Nat) (f : Core → Core) : (modCore s c f).parts = s.parts := rfl
@[simp] theorem modCore_spad (s : State) (c : Nat) (f : Core → Core) : (modCore s c f).spad = s.spad := rfl
@[simp] theorem modCore_rows (s : State) (c : Nat) (f : Core → Core) : (modCore s c f).rows = s.rows := rfl
@[simp] theorem modCore_stk (s : State) (c : Nat) (f : Core → Core) : (modCore s c f).stk = s.stk := rfl
@[simp] theorem modCore_ext (s : State) (c : Nat) (f : Core → Core) : (modCore s c f).ext = s.ext := rfl
@[simp] theorem modCore_host (s : State) (c : Nat) (f : Core → Core) : (modCore s c f).host = s.host := rfl
@[simp] theorem modCore_ports (s : State) (c : Nat) (f : Core → Core) : (modCore s c f).ports = s.ports := rfl
@[simp] theorem modCore_slots (s : State) (c : Nat) (f : Core → Core) : (modCore s c f).slots = s.slots := rfl
@[simp] theorem modCore_flt (s : State) (c : Nat) (f : Core → Core) : (modCore s c f).flt = s.flt := rfl
@[simp] theorem modCore_posts (s : State) (c : Nat) (f : Core → Core) : (modCore s c f).posts = s.posts := rfl
@[simp] theorem modCore_regs (s : State) (c : Nat) (f : Core → Core) : (modCore s c f).regs = s.regs := rfl
@[simp] theorem modCore_held (s : State) (c : Nat) (f : Core → Core) : (modCore s c f).held = s.held := rfl
@[simp] theorem modCore_pending (s : State) (c : Nat) (f : Core → Core) : (modCore s c f).pending = s.pending := rfl
@[simp] theorem modCore_twin (s : State) (c : Nat) (f : Core → Core) : (modCore s c f).twin = s.twin := rfl
@[simp] theorem modCore_boot (s : State) (c : Nat) (f : Core → Core) : (modCore s c f).boot = s.boot := rfl
@[simp] theorem modCore_errs (s : State) (c : Nat) (f : Core → Core) : (modCore s c f).errs = s.errs := rfl
@[simp] theorem modCore_mesh (s : State) (c : Nat) (f : Core → Core) : (modCore s c f).mesh = s.mesh := rfl
@[simp] theorem modCore_flitErrs (s : State) (c : Nat) (f : Core → Core) : (modCore s c f).flitErrs = s.flitErrs := rfl
@[simp] theorem modCore_claims (s : State) (c : Nat) (f : Core → Core) : (modCore s c f).claims = s.claims := rfl
@[simp] theorem modCore_lands (s : State) (c : Nat) (f : Core → Core) : (modCore s c f).lands = s.lands := rfl
@[simp] theorem modCore_stores (s : State) (c : Nat) (f : Core → Core) : (modCore s c f).stores = s.stores := rfl
@[simp] theorem modCore_nextId (s : State) (c : Nat) (f : Core → Core) : (modCore s c f).nextId = s.nextId := rfl
@[simp] theorem modCore_nextKey (s : State) (c : Nat) (f : Core → Core) : (modCore s c f).nextKey = s.nextKey := rfl
@[simp] theorem modCore_mkey (s : State) (c : Nat) (f : Core → Core) : (modCore s c f).mkey = s.mkey := rfl
@[simp] theorem modCore_mbx (s : State) (c : Nat) (f : Core → Core) : (modCore s c f).mbx = s.mbx := rfl
@[simp] theorem modCore_xouts (s : State) (c : Nat) (f : Core → Core) : (modCore s c f).xouts = s.xouts := rfl
@[simp] theorem modCore_loads (s : State) (c : Nat) (f : Core → Core) : (modCore s c f).loads = s.loads := rfl
@[simp] theorem modCore_meas (s : State) (c : Nat) (f : Core → Core) : (modCore s c f).meas = s.meas := rfl
@[simp] theorem modCore_spdm (s : State) (c : Nat) (f : Core → Core) : (modCore s c f).spdm = s.spdm := rfl
@[simp] theorem modCore_mc (s : State) (c : Nat) (f : Core → Core) : (modCore s c f).mc = s.mc := rfl
@[simp] theorem modCore_therm (s : State) (c : Nat) (f : Core → Core) : (modCore s c f).therm = s.therm := rfl
@[simp] theorem modCore_scrub (s : State) (c : Nat) (f : Core → Core) : (modCore s c f).scrub = s.scrub := rfl
@[simp] theorem modCore_free (s : State) (c : Nat) (f : Core → Core) : (modCore s c f).free = s.free := rfl
@[simp] theorem modCore_cfgDone (s : State) (c : Nat) (f : Core → Core) : (modCore s c f).cfgDone = s.cfgDone := rfl

/-! ### modStrm -/
@[simp] theorem modStrm_build (s : State) (c : Nat) (k : Strm) (f : StrmSt → StrmSt) : (modStrm s c k f).build = s.build := rfl
@[simp] theorem modStrm_beat (s : State) (c : Nat) (k : Strm) (f : StrmSt → StrmSt) : (modStrm s c k f).beat = s.beat := rfl
@[simp] theorem modStrm_now (s : State) (c : Nat) (k : Strm) (f : StrmSt → StrmSt) : (modStrm s c k f).now = s.now := rfl
@[simp] theorem modStrm_parts (s : State) (c : Nat) (k : Strm) (f : StrmSt → StrmSt) : (modStrm s c k f).parts = s.parts := rfl
@[simp] theorem modStrm_spad (s : State) (c : Nat) (k : Strm) (f : StrmSt → StrmSt) : (modStrm s c k f).spad = s.spad := rfl
@[simp] theorem modStrm_rows (s : State) (c : Nat) (k : Strm) (f : StrmSt → StrmSt) : (modStrm s c k f).rows = s.rows := rfl
@[simp] theorem modStrm_stk (s : State) (c : Nat) (k : Strm) (f : StrmSt → StrmSt) : (modStrm s c k f).stk = s.stk := rfl
@[simp] theorem modStrm_ext (s : State) (c : Nat) (k : Strm) (f : StrmSt → StrmSt) : (modStrm s c k f).ext = s.ext := rfl
@[simp] theorem modStrm_host (s : State) (c : Nat) (k : Strm) (f : StrmSt → StrmSt) : (modStrm s c k f).host = s.host := rfl
@[simp] theorem modStrm_ports (s : State) (c : Nat) (k : Strm) (f : StrmSt → StrmSt) : (modStrm s c k f).ports = s.ports := rfl
@[simp] theorem modStrm_slots (s : State) (c : Nat) (k : Strm) (f : StrmSt → StrmSt) : (modStrm s c k f).slots = s.slots := rfl
@[simp] theorem modStrm_flt (s : State) (c : Nat) (k : Strm) (f : StrmSt → StrmSt) : (modStrm s c k f).flt = s.flt := rfl
@[simp] theorem modStrm_posts (s : State) (c : Nat) (k : Strm) (f : StrmSt → StrmSt) : (modStrm s c k f).posts = s.posts := rfl
@[simp] theorem modStrm_regs (s : State) (c : Nat) (k : Strm) (f : StrmSt → StrmSt) : (modStrm s c k f).regs = s.regs := rfl
@[simp] theorem modStrm_held (s : State) (c : Nat) (k : Strm) (f : StrmSt → StrmSt) : (modStrm s c k f).held = s.held := rfl
@[simp] theorem modStrm_pending (s : State) (c : Nat) (k : Strm) (f : StrmSt → StrmSt) : (modStrm s c k f).pending = s.pending := rfl
@[simp] theorem modStrm_twin (s : State) (c : Nat) (k : Strm) (f : StrmSt → StrmSt) : (modStrm s c k f).twin = s.twin := rfl
@[simp] theorem modStrm_boot (s : State) (c : Nat) (k : Strm) (f : StrmSt → StrmSt) : (modStrm s c k f).boot = s.boot := rfl
@[simp] theorem modStrm_errs (s : State) (c : Nat) (k : Strm) (f : StrmSt → StrmSt) : (modStrm s c k f).errs = s.errs := rfl
@[simp] theorem modStrm_mesh (s : State) (c : Nat) (k : Strm) (f : StrmSt → StrmSt) : (modStrm s c k f).mesh = s.mesh := rfl
@[simp] theorem modStrm_flitErrs (s : State) (c : Nat) (k : Strm) (f : StrmSt → StrmSt) : (modStrm s c k f).flitErrs = s.flitErrs := rfl
@[simp] theorem modStrm_claims (s : State) (c : Nat) (k : Strm) (f : StrmSt → StrmSt) : (modStrm s c k f).claims = s.claims := rfl
@[simp] theorem modStrm_lands (s : State) (c : Nat) (k : Strm) (f : StrmSt → StrmSt) : (modStrm s c k f).lands = s.lands := rfl
@[simp] theorem modStrm_stores (s : State) (c : Nat) (k : Strm) (f : StrmSt → StrmSt) : (modStrm s c k f).stores = s.stores := rfl
@[simp] theorem modStrm_nextId (s : State) (c : Nat) (k : Strm) (f : StrmSt → StrmSt) : (modStrm s c k f).nextId = s.nextId := rfl
@[simp] theorem modStrm_nextKey (s : State) (c : Nat) (k : Strm) (f : StrmSt → StrmSt) : (modStrm s c k f).nextKey = s.nextKey := rfl
@[simp] theorem modStrm_mkey (s : State) (c : Nat) (k : Strm) (f : StrmSt → StrmSt) : (modStrm s c k f).mkey = s.mkey := rfl
@[simp] theorem modStrm_mbx (s : State) (c : Nat) (k : Strm) (f : StrmSt → StrmSt) : (modStrm s c k f).mbx = s.mbx := rfl
@[simp] theorem modStrm_xouts (s : State) (c : Nat) (k : Strm) (f : StrmSt → StrmSt) : (modStrm s c k f).xouts = s.xouts := rfl
@[simp] theorem modStrm_loads (s : State) (c : Nat) (k : Strm) (f : StrmSt → StrmSt) : (modStrm s c k f).loads = s.loads := rfl
@[simp] theorem modStrm_meas (s : State) (c : Nat) (k : Strm) (f : StrmSt → StrmSt) : (modStrm s c k f).meas = s.meas := rfl
@[simp] theorem modStrm_spdm (s : State) (c : Nat) (k : Strm) (f : StrmSt → StrmSt) : (modStrm s c k f).spdm = s.spdm := rfl
@[simp] theorem modStrm_mc (s : State) (c : Nat) (k : Strm) (f : StrmSt → StrmSt) : (modStrm s c k f).mc = s.mc := rfl
@[simp] theorem modStrm_therm (s : State) (c : Nat) (k : Strm) (f : StrmSt → StrmSt) : (modStrm s c k f).therm = s.therm := rfl
@[simp] theorem modStrm_scrub (s : State) (c : Nat) (k : Strm) (f : StrmSt → StrmSt) : (modStrm s c k f).scrub = s.scrub := rfl
@[simp] theorem modStrm_free (s : State) (c : Nat) (k : Strm) (f : StrmSt → StrmSt) : (modStrm s c k f).free = s.free := rfl
@[simp] theorem modStrm_cfgDone (s : State) (c : Nat) (k : Strm) (f : StrmSt → StrmSt) : (modStrm s c k f).cfgDone = s.cfgDone := rfl

/-! ### addCtr -/
@[simp] theorem addCtr_build (s : State) (c sc t : Nat) (v : W32) : (addCtr s c sc t v).build = s.build := rfl
@[simp] theorem addCtr_beat (s : State) (c sc t : Nat) (v : W32) : (addCtr s c sc t v).beat = s.beat := rfl
@[simp] theorem addCtr_now (s : State) (c sc t : Nat) (v : W32) : (addCtr s c sc t v).now = s.now := rfl
@[simp] theorem addCtr_parts (s : State) (c sc t : Nat) (v : W32) : (addCtr s c sc t v).parts = s.parts := rfl
@[simp] theorem addCtr_spad (s : State) (c sc t : Nat) (v : W32) : (addCtr s c sc t v).spad = s.spad := rfl
@[simp] theorem addCtr_rows (s : State) (c sc t : Nat) (v : W32) : (addCtr s c sc t v).rows = s.rows := rfl
@[simp] theorem addCtr_stk (s : State) (c sc t : Nat) (v : W32) : (addCtr s c sc t v).stk = s.stk := rfl
@[simp] theorem addCtr_ext (s : State) (c sc t : Nat) (v : W32) : (addCtr s c sc t v).ext = s.ext := rfl
@[simp] theorem addCtr_host (s : State) (c sc t : Nat) (v : W32) : (addCtr s c sc t v).host = s.host := rfl
@[simp] theorem addCtr_ports (s : State) (c sc t : Nat) (v : W32) : (addCtr s c sc t v).ports = s.ports := rfl
@[simp] theorem addCtr_slots (s : State) (c sc t : Nat) (v : W32) : (addCtr s c sc t v).slots = s.slots := rfl
@[simp] theorem addCtr_flt (s : State) (c sc t : Nat) (v : W32) : (addCtr s c sc t v).flt = s.flt := rfl
@[simp] theorem addCtr_posts (s : State) (c sc t : Nat) (v : W32) : (addCtr s c sc t v).posts = s.posts := rfl
@[simp] theorem addCtr_regs (s : State) (c sc t : Nat) (v : W32) : (addCtr s c sc t v).regs = s.regs := rfl
@[simp] theorem addCtr_held (s : State) (c sc t : Nat) (v : W32) : (addCtr s c sc t v).held = s.held := rfl
@[simp] theorem addCtr_pending (s : State) (c sc t : Nat) (v : W32) : (addCtr s c sc t v).pending = s.pending := rfl
@[simp] theorem addCtr_twin (s : State) (c sc t : Nat) (v : W32) : (addCtr s c sc t v).twin = s.twin := rfl
@[simp] theorem addCtr_boot (s : State) (c sc t : Nat) (v : W32) : (addCtr s c sc t v).boot = s.boot := rfl
@[simp] theorem addCtr_errs (s : State) (c sc t : Nat) (v : W32) : (addCtr s c sc t v).errs = s.errs := rfl
@[simp] theorem addCtr_mesh (s : State) (c sc t : Nat) (v : W32) : (addCtr s c sc t v).mesh = s.mesh := rfl
@[simp] theorem addCtr_flitErrs (s : State) (c sc t : Nat) (v : W32) : (addCtr s c sc t v).flitErrs = s.flitErrs := rfl
@[simp] theorem addCtr_claims (s : State) (c sc t : Nat) (v : W32) : (addCtr s c sc t v).claims = s.claims := rfl
@[simp] theorem addCtr_lands (s : State) (c sc t : Nat) (v : W32) : (addCtr s c sc t v).lands = s.lands := rfl
@[simp] theorem addCtr_stores (s : State) (c sc t : Nat) (v : W32) : (addCtr s c sc t v).stores = s.stores := rfl
@[simp] theorem addCtr_nextId (s : State) (c sc t : Nat) (v : W32) : (addCtr s c sc t v).nextId = s.nextId := rfl
@[simp] theorem addCtr_nextKey (s : State) (c sc t : Nat) (v : W32) : (addCtr s c sc t v).nextKey = s.nextKey := rfl
@[simp] theorem addCtr_mkey (s : State) (c sc t : Nat) (v : W32) : (addCtr s c sc t v).mkey = s.mkey := rfl
@[simp] theorem addCtr_mbx (s : State) (c sc t : Nat) (v : W32) : (addCtr s c sc t v).mbx = s.mbx := rfl
@[simp] theorem addCtr_xouts (s : State) (c sc t : Nat) (v : W32) : (addCtr s c sc t v).xouts = s.xouts := rfl
@[simp] theorem addCtr_loads (s : State) (c sc t : Nat) (v : W32) : (addCtr s c sc t v).loads = s.loads := rfl
@[simp] theorem addCtr_meas (s : State) (c sc t : Nat) (v : W32) : (addCtr s c sc t v).meas = s.meas := rfl
@[simp] theorem addCtr_spdm (s : State) (c sc t : Nat) (v : W32) : (addCtr s c sc t v).spdm = s.spdm := rfl
@[simp] theorem addCtr_mc (s : State) (c sc t : Nat) (v : W32) : (addCtr s c sc t v).mc = s.mc := rfl
@[simp] theorem addCtr_therm (s : State) (c sc t : Nat) (v : W32) : (addCtr s c sc t v).therm = s.therm := rfl
@[simp] theorem addCtr_scrub (s : State) (c sc t : Nat) (v : W32) : (addCtr s c sc t v).scrub = s.scrub := rfl
@[simp] theorem addCtr_free (s : State) (c sc t : Nat) (v : W32) : (addCtr s c sc t v).free = s.free := rfl
@[simp] theorem addCtr_cfgDone (s : State) (c sc t : Nat) (v : W32) : (addCtr s c sc t v).cfgDone = s.cfgDone := rfl

/-! ### setPart -/
@[simp] theorem setPart_build (s : State) (p : Nat) (v : Part) : (setPart s p v).build = s.build := rfl
@[simp] theorem setPart_beat (s : State) (p : Nat) (v : Part) : (setPart s p v).beat = s.beat := rfl
@[simp] theorem setPart_now (s : State) (p : Nat) (v : Part) : (setPart s p v).now = s.now := rfl
@[simp] theorem setPart_cores (s : State) (p : Nat) (v : Part) : (setPart s p v).cores = s.cores := rfl
@[simp] theorem setPart_spad (s : State) (p : Nat) (v : Part) : (setPart s p v).spad = s.spad := rfl
@[simp] theorem setPart_rows (s : State) (p : Nat) (v : Part) : (setPart s p v).rows = s.rows := rfl
@[simp] theorem setPart_stk (s : State) (p : Nat) (v : Part) : (setPart s p v).stk = s.stk := rfl
@[simp] theorem setPart_ext (s : State) (p : Nat) (v : Part) : (setPart s p v).ext = s.ext := rfl
@[simp] theorem setPart_host (s : State) (p : Nat) (v : Part) : (setPart s p v).host = s.host := rfl
@[simp] theorem setPart_ports (s : State) (p : Nat) (v : Part) : (setPart s p v).ports = s.ports := rfl
@[simp] theorem setPart_slots (s : State) (p : Nat) (v : Part) : (setPart s p v).slots = s.slots := rfl
@[simp] theorem setPart_flt (s : State) (p : Nat) (v : Part) : (setPart s p v).flt = s.flt := rfl
@[simp] theorem setPart_posts (s : State) (p : Nat) (v : Part) : (setPart s p v).posts = s.posts := rfl
@[simp] theorem setPart_regs (s : State) (p : Nat) (v : Part) : (setPart s p v).regs = s.regs := rfl
@[simp] theorem setPart_held (s : State) (p : Nat) (v : Part) : (setPart s p v).held = s.held := rfl
@[simp] theorem setPart_pending (s : State) (p : Nat) (v : Part) : (setPart s p v).pending = s.pending := rfl
@[simp] theorem setPart_twin (s : State) (p : Nat) (v : Part) : (setPart s p v).twin = s.twin := rfl
@[simp] theorem setPart_boot (s : State) (p : Nat) (v : Part) : (setPart s p v).boot = s.boot := rfl
@[simp] theorem setPart_errs (s : State) (p : Nat) (v : Part) : (setPart s p v).errs = s.errs := rfl
@[simp] theorem setPart_mesh (s : State) (p : Nat) (v : Part) : (setPart s p v).mesh = s.mesh := rfl
@[simp] theorem setPart_flitErrs (s : State) (p : Nat) (v : Part) : (setPart s p v).flitErrs = s.flitErrs := rfl
@[simp] theorem setPart_claims (s : State) (p : Nat) (v : Part) : (setPart s p v).claims = s.claims := rfl
@[simp] theorem setPart_lands (s : State) (p : Nat) (v : Part) : (setPart s p v).lands = s.lands := rfl
@[simp] theorem setPart_stores (s : State) (p : Nat) (v : Part) : (setPart s p v).stores = s.stores := rfl
@[simp] theorem setPart_nextId (s : State) (p : Nat) (v : Part) : (setPart s p v).nextId = s.nextId := rfl
@[simp] theorem setPart_nextKey (s : State) (p : Nat) (v : Part) : (setPart s p v).nextKey = s.nextKey := rfl
@[simp] theorem setPart_mkey (s : State) (p : Nat) (v : Part) : (setPart s p v).mkey = s.mkey := rfl
@[simp] theorem setPart_mbx (s : State) (p : Nat) (v : Part) : (setPart s p v).mbx = s.mbx := rfl
@[simp] theorem setPart_xouts (s : State) (p : Nat) (v : Part) : (setPart s p v).xouts = s.xouts := rfl
@[simp] theorem setPart_loads (s : State) (p : Nat) (v : Part) : (setPart s p v).loads = s.loads := rfl
@[simp] theorem setPart_meas (s : State) (p : Nat) (v : Part) : (setPart s p v).meas = s.meas := rfl
@[simp] theorem setPart_spdm (s : State) (p : Nat) (v : Part) : (setPart s p v).spdm = s.spdm := rfl
@[simp] theorem setPart_mc (s : State) (p : Nat) (v : Part) : (setPart s p v).mc = s.mc := rfl
@[simp] theorem setPart_therm (s : State) (p : Nat) (v : Part) : (setPart s p v).therm = s.therm := rfl
@[simp] theorem setPart_scrub (s : State) (p : Nat) (v : Part) : (setPart s p v).scrub = s.scrub := rfl
@[simp] theorem setPart_free (s : State) (p : Nat) (v : Part) : (setPart s p v).free = s.free := rfl
@[simp] theorem setPart_cfgDone (s : State) (p : Nat) (v : Part) : (setPart s p v).cfgDone = s.cfgDone := rfl

/-! ### modPart -/
@[simp] theorem modPart_build (s : State) (p : Nat) (f : Part → Part) : (modPart s p f).build = s.build := rfl
@[simp] theorem modPart_beat (s : State) (p : Nat) (f : Part → Part) : (modPart s p f).beat = s.beat := rfl
@[simp] theorem modPart_now (s : State) (p : Nat) (f : Part → Part) : (modPart s p f).now = s.now := rfl
@[simp] theorem modPart_cores (s : State) (p : Nat) (f : Part → Part) : (modPart s p f).cores = s.cores := rfl
@[simp] theorem modPart_spad (s : State) (p : Nat) (f : Part → Part) : (modPart s p f).spad = s.spad := rfl
@[simp] theorem modPart_rows (s : State) (p : Nat) (f : Part → Part) : (modPart s p f).rows = s.rows := rfl
@[simp] theorem modPart_stk (s : State) (p : Nat) (f : Part → Part) : (modPart s p f).stk = s.stk := rfl
@[simp] theorem modPart_ext (s : State) (p : Nat) (f : Part → Part) : (modPart s p f).ext = s.ext := rfl
@[simp] theorem modPart_host (s : State) (p : Nat) (f : Part → Part) : (modPart s p f).host = s.host := rfl
@[simp] theorem modPart_ports (s : State) (p : Nat) (f : Part → Part) : (modPart s p f).ports = s.ports := rfl
@[simp] theorem modPart_slots (s : State) (p : Nat) (f : Part → Part) : (modPart s p f).slots = s.slots := rfl
@[simp] theorem modPart_flt (s : State) (p : Nat) (f : Part → Part) : (modPart s p f).flt = s.flt := rfl
@[simp] theorem modPart_posts (s : State) (p : Nat) (f : Part → Part) : (modPart s p f).posts = s.posts := rfl
@[simp] theorem modPart_regs (s : State) (p : Nat) (f : Part → Part) : (modPart s p f).regs = s.regs := rfl
@[simp] theorem modPart_held (s : State) (p : Nat) (f : Part → Part) : (modPart s p f).held = s.held := rfl
@[simp] theorem modPart_pending (s : State) (p : Nat) (f : Part → Part) : (modPart s p f).pending = s.pending := rfl
@[simp] theorem modPart_twin (s : State) (p : Nat) (f : Part → Part) : (modPart s p f).twin = s.twin := rfl
@[simp] theorem modPart_boot (s : State) (p : Nat) (f : Part → Part) : (modPart s p f).boot = s.boot := rfl
@[simp] theorem modPart_errs (s : State) (p : Nat) (f : Part → Part) : (modPart s p f).errs = s.errs := rfl
@[simp] theorem modPart_mesh (s : State) (p : Nat) (f : Part → Part) : (modPart s p f).mesh = s.mesh := rfl
@[simp] theorem modPart_flitErrs (s : State) (p : Nat) (f : Part → Part) : (modPart s p f).flitErrs = s.flitErrs := rfl
@[simp] theorem modPart_claims (s : State) (p : Nat) (f : Part → Part) : (modPart s p f).claims = s.claims := rfl
@[simp] theorem modPart_lands (s : State) (p : Nat) (f : Part → Part) : (modPart s p f).lands = s.lands := rfl
@[simp] theorem modPart_stores (s : State) (p : Nat) (f : Part → Part) : (modPart s p f).stores = s.stores := rfl
@[simp] theorem modPart_nextId (s : State) (p : Nat) (f : Part → Part) : (modPart s p f).nextId = s.nextId := rfl
@[simp] theorem modPart_nextKey (s : State) (p : Nat) (f : Part → Part) : (modPart s p f).nextKey = s.nextKey := rfl
@[simp] theorem modPart_mkey (s : State) (p : Nat) (f : Part → Part) : (modPart s p f).mkey = s.mkey := rfl
@[simp] theorem modPart_mbx (s : State) (p : Nat) (f : Part → Part) : (modPart s p f).mbx = s.mbx := rfl
@[simp] theorem modPart_xouts (s : State) (p : Nat) (f : Part → Part) : (modPart s p f).xouts = s.xouts := rfl
@[simp] theorem modPart_loads (s : State) (p : Nat) (f : Part → Part) : (modPart s p f).loads = s.loads := rfl
@[simp] theorem modPart_meas (s : State) (p : Nat) (f : Part → Part) : (modPart s p f).meas = s.meas := rfl
@[simp] theorem modPart_spdm (s : State) (p : Nat) (f : Part → Part) : (modPart s p f).spdm = s.spdm := rfl
@[simp] theorem modPart_mc (s : State) (p : Nat) (f : Part → Part) : (modPart s p f).mc = s.mc := rfl
@[simp] theorem modPart_therm (s : State) (p : Nat) (f : Part → Part) : (modPart s p f).therm = s.therm := rfl
@[simp] theorem modPart_scrub (s : State) (p : Nat) (f : Part → Part) : (modPart s p f).scrub = s.scrub := rfl
@[simp] theorem modPart_free (s : State) (p : Nat) (f : Part → Part) : (modPart s p f).free = s.free := rfl
@[simp] theorem modPart_cfgDone (s : State) (p : Nat) (f : Part → Part) : (modPart s p f).cfgDone = s.cfgDone := rfl

/-! ### modSeg -/
@[simp] theorem modSeg_build (s : State) (p : Nat) (f : Seg → Seg) : (modSeg s p f).build = s.build := rfl
@[simp] theorem modSeg_beat (s : State) (p : Nat) (f : Seg → Seg) : (modSeg s p f).beat = s.beat := rfl
@[simp] theorem modSeg_now (s : State) (p : Nat) (f : Seg → Seg) : (modSeg s p f).now = s.now := rfl
@[simp] theorem modSeg_cores (s : State) (p : Nat) (f : Seg → Seg) : (modSeg s p f).cores = s.cores := rfl
@[simp] theorem modSeg_spad (s : State) (p : Nat) (f : Seg → Seg) : (modSeg s p f).spad = s.spad := rfl
@[simp] theorem modSeg_rows (s : State) (p : Nat) (f : Seg → Seg) : (modSeg s p f).rows = s.rows := rfl
@[simp] theorem modSeg_stk (s : State) (p : Nat) (f : Seg → Seg) : (modSeg s p f).stk = s.stk := rfl
@[simp] theorem modSeg_ext (s : State) (p : Nat) (f : Seg → Seg) : (modSeg s p f).ext = s.ext := rfl
@[simp] theorem modSeg_host (s : State) (p : Nat) (f : Seg → Seg) : (modSeg s p f).host = s.host := rfl
@[simp] theorem modSeg_ports (s : State) (p : Nat) (f : Seg → Seg) : (modSeg s p f).ports = s.ports := rfl
@[simp] theorem modSeg_slots (s : State) (p : Nat) (f : Seg → Seg) : (modSeg s p f).slots = s.slots := rfl
@[simp] theorem modSeg_flt (s : State) (p : Nat) (f : Seg → Seg) : (modSeg s p f).flt = s.flt := rfl
@[simp] theorem modSeg_posts (s : State) (p : Nat) (f : Seg → Seg) : (modSeg s p f).posts = s.posts := rfl
@[simp] theorem modSeg_regs (s : State) (p : Nat) (f : Seg → Seg) : (modSeg s p f).regs = s.regs := rfl
@[simp] theorem modSeg_held (s : State) (p : Nat) (f : Seg → Seg) : (modSeg s p f).held = s.held := rfl
@[simp] theorem modSeg_pending (s : State) (p : Nat) (f : Seg → Seg) : (modSeg s p f).pending = s.pending := rfl
@[simp] theorem modSeg_twin (s : State) (p : Nat) (f : Seg → Seg) : (modSeg s p f).twin = s.twin := rfl
@[simp] theorem modSeg_boot (s : State) (p : Nat) (f : Seg → Seg) : (modSeg s p f).boot = s.boot := rfl
@[simp] theorem modSeg_errs (s : State) (p : Nat) (f : Seg → Seg) : (modSeg s p f).errs = s.errs := rfl
@[simp] theorem modSeg_mesh (s : State) (p : Nat) (f : Seg → Seg) : (modSeg s p f).mesh = s.mesh := rfl
@[simp] theorem modSeg_flitErrs (s : State) (p : Nat) (f : Seg → Seg) : (modSeg s p f).flitErrs = s.flitErrs := rfl
@[simp] theorem modSeg_claims (s : State) (p : Nat) (f : Seg → Seg) : (modSeg s p f).claims = s.claims := rfl
@[simp] theorem modSeg_lands (s : State) (p : Nat) (f : Seg → Seg) : (modSeg s p f).lands = s.lands := rfl
@[simp] theorem modSeg_stores (s : State) (p : Nat) (f : Seg → Seg) : (modSeg s p f).stores = s.stores := rfl
@[simp] theorem modSeg_nextId (s : State) (p : Nat) (f : Seg → Seg) : (modSeg s p f).nextId = s.nextId := rfl
@[simp] theorem modSeg_nextKey (s : State) (p : Nat) (f : Seg → Seg) : (modSeg s p f).nextKey = s.nextKey := rfl
@[simp] theorem modSeg_mkey (s : State) (p : Nat) (f : Seg → Seg) : (modSeg s p f).mkey = s.mkey := rfl
@[simp] theorem modSeg_mbx (s : State) (p : Nat) (f : Seg → Seg) : (modSeg s p f).mbx = s.mbx := rfl
@[simp] theorem modSeg_xouts (s : State) (p : Nat) (f : Seg → Seg) : (modSeg s p f).xouts = s.xouts := rfl
@[simp] theorem modSeg_loads (s : State) (p : Nat) (f : Seg → Seg) : (modSeg s p f).loads = s.loads := rfl
@[simp] theorem modSeg_meas (s : State) (p : Nat) (f : Seg → Seg) : (modSeg s p f).meas = s.meas := rfl
@[simp] theorem modSeg_spdm (s : State) (p : Nat) (f : Seg → Seg) : (modSeg s p f).spdm = s.spdm := rfl
@[simp] theorem modSeg_mc (s : State) (p : Nat) (f : Seg → Seg) : (modSeg s p f).mc = s.mc := rfl
@[simp] theorem modSeg_therm (s : State) (p : Nat) (f : Seg → Seg) : (modSeg s p f).therm = s.therm := rfl
@[simp] theorem modSeg_scrub (s : State) (p : Nat) (f : Seg → Seg) : (modSeg s p f).scrub = s.scrub := rfl
@[simp] theorem modSeg_free (s : State) (p : Nat) (f : Seg → Seg) : (modSeg s p f).free = s.free := rfl
@[simp] theorem modSeg_cfgDone (s : State) (p : Nat) (f : Seg → Seg) : (modSeg s p f).cfgDone = s.cfgDone := rfl

/-! ### touch -/
@[simp] theorem touch_build (s : State) (t : Nat) : (touch s t).build = s.build := rfl
@[simp] theorem touch_beat (s : State) (t : Nat) : (touch s t).beat = s.beat := rfl
@[simp] theorem touch_parts (s : State) (t : Nat) : (touch s t).parts = s.parts := rfl
@[simp] theorem touch_cores (s : State) (t : Nat) : (touch s t).cores = s.cores := rfl
@[simp] theorem touch_spad (s : State) (t : Nat) : (touch s t).spad = s.spad := rfl
@[simp] theorem touch_rows (s : State) (t : Nat) : (touch s t).rows = s.rows := rfl
@[simp] theorem touch_stk (s : State) (t : Nat) : (touch s t).stk = s.stk := rfl
@[simp] theorem touch_ext (s : State) (t : Nat) : (touch s t).ext = s.ext := rfl
@[simp] theorem touch_host (s : State) (t : Nat) : (touch s t).host = s.host := rfl
@[simp] theorem touch_ports (s : State) (t : Nat) : (touch s t).ports = s.ports := rfl
@[simp] theorem touch_slots (s : State) (t : Nat) : (touch s t).slots = s.slots := rfl
@[simp] theorem touch_flt (s : State) (t : Nat) : (touch s t).flt = s.flt := rfl
@[simp] theorem touch_posts (s : State) (t : Nat) : (touch s t).posts = s.posts := rfl
@[simp] theorem touch_regs (s : State) (t : Nat) : (touch s t).regs = s.regs := rfl
@[simp] theorem touch_held (s : State) (t : Nat) : (touch s t).held = s.held := rfl
@[simp] theorem touch_pending (s : State) (t : Nat) : (touch s t).pending = s.pending := rfl
@[simp] theorem touch_twin (s : State) (t : Nat) : (touch s t).twin = s.twin := rfl
@[simp] theorem touch_boot (s : State) (t : Nat) : (touch s t).boot = s.boot := rfl
@[simp] theorem touch_errs (s : State) (t : Nat) : (touch s t).errs = s.errs := rfl
@[simp] theorem touch_mesh (s : State) (t : Nat) : (touch s t).mesh = s.mesh := rfl
@[simp] theorem touch_flitErrs (s : State) (t : Nat) : (touch s t).flitErrs = s.flitErrs := rfl
@[simp] theorem touch_claims (s : State) (t : Nat) : (touch s t).claims = s.claims := rfl
@[simp] theorem touch_lands (s : State) (t : Nat) : (touch s t).lands = s.lands := rfl
@[simp] theorem touch_stores (s : State) (t : Nat) : (touch s t).stores = s.stores := rfl
@[simp] theorem touch_nextId (s : State) (t : Nat) : (touch s t).nextId = s.nextId := rfl
@[simp] theorem touch_nextKey (s : State) (t : Nat) : (touch s t).nextKey = s.nextKey := rfl
@[simp] theorem touch_mkey (s : State) (t : Nat) : (touch s t).mkey = s.mkey := rfl
@[simp] theorem touch_mbx (s : State) (t : Nat) : (touch s t).mbx = s.mbx := rfl
@[simp] theorem touch_xouts (s : State) (t : Nat) : (touch s t).xouts = s.xouts := rfl
@[simp] theorem touch_loads (s : State) (t : Nat) : (touch s t).loads = s.loads := rfl
@[simp] theorem touch_meas (s : State) (t : Nat) : (touch s t).meas = s.meas := rfl
@[simp] theorem touch_spdm (s : State) (t : Nat) : (touch s t).spdm = s.spdm := rfl
@[simp] theorem touch_mc (s : State) (t : Nat) : (touch s t).mc = s.mc := rfl
@[simp] theorem touch_therm (s : State) (t : Nat) : (touch s t).therm = s.therm := rfl
@[simp] theorem touch_scrub (s : State) (t : Nat) : (touch s t).scrub = s.scrub := rfl
@[simp] theorem touch_free (s : State) (t : Nat) : (touch s t).free = s.free := rfl
@[simp] theorem touch_cfgDone (s : State) (t : Nat) : (touch s t).cfgDone = s.cfgDone := rfl

/-! ### setPort -/
@[simp] theorem setPort_build (s : State) (p : Nat) (v : Port) : (setPort s p v).build = s.build := rfl
@[simp] theorem setPort_beat (s : State) (p : Nat) (v : Port) : (setPort s p v).beat = s.beat := rfl
@[simp] theorem setPort_now (s : State) (p : Nat) (v : Port) : (setPort s p v).now = s.now := rfl
@[simp] theorem setPort_parts (s : State) (p : Nat) (v : Port) : (setPort s p v).parts = s.parts := rfl
@[simp] theorem setPort_cores (s : State) (p : Nat) (v : Port) : (setPort s p v).cores = s.cores := rfl
@[simp] theorem setPort_spad (s : State) (p : Nat) (v : Port) : (setPort s p v).spad = s.spad := rfl
@[simp] theorem setPort_rows (s : State) (p : Nat) (v : Port) : (setPort s p v).rows = s.rows := rfl
@[simp] theorem setPort_stk (s : State) (p : Nat) (v : Port) : (setPort s p v).stk = s.stk := rfl
@[simp] theorem setPort_ext (s : State) (p : Nat) (v : Port) : (setPort s p v).ext = s.ext := rfl
@[simp] theorem setPort_host (s : State) (p : Nat) (v : Port) : (setPort s p v).host = s.host := rfl
@[simp] theorem setPort_slots (s : State) (p : Nat) (v : Port) : (setPort s p v).slots = s.slots := rfl
@[simp] theorem setPort_flt (s : State) (p : Nat) (v : Port) : (setPort s p v).flt = s.flt := rfl
@[simp] theorem setPort_posts (s : State) (p : Nat) (v : Port) : (setPort s p v).posts = s.posts := rfl
@[simp] theorem setPort_regs (s : State) (p : Nat) (v : Port) : (setPort s p v).regs = s.regs := rfl
@[simp] theorem setPort_held (s : State) (p : Nat) (v : Port) : (setPort s p v).held = s.held := rfl
@[simp] theorem setPort_pending (s : State) (p : Nat) (v : Port) : (setPort s p v).pending = s.pending := rfl
@[simp] theorem setPort_twin (s : State) (p : Nat) (v : Port) : (setPort s p v).twin = s.twin := rfl
@[simp] theorem setPort_boot (s : State) (p : Nat) (v : Port) : (setPort s p v).boot = s.boot := rfl
@[simp] theorem setPort_errs (s : State) (p : Nat) (v : Port) : (setPort s p v).errs = s.errs := rfl
@[simp] theorem setPort_mesh (s : State) (p : Nat) (v : Port) : (setPort s p v).mesh = s.mesh := rfl
@[simp] theorem setPort_flitErrs (s : State) (p : Nat) (v : Port) : (setPort s p v).flitErrs = s.flitErrs := rfl
@[simp] theorem setPort_claims (s : State) (p : Nat) (v : Port) : (setPort s p v).claims = s.claims := rfl
@[simp] theorem setPort_lands (s : State) (p : Nat) (v : Port) : (setPort s p v).lands = s.lands := rfl
@[simp] theorem setPort_stores (s : State) (p : Nat) (v : Port) : (setPort s p v).stores = s.stores := rfl
@[simp] theorem setPort_nextId (s : State) (p : Nat) (v : Port) : (setPort s p v).nextId = s.nextId := rfl
@[simp] theorem setPort_nextKey (s : State) (p : Nat) (v : Port) : (setPort s p v).nextKey = s.nextKey := rfl
@[simp] theorem setPort_mkey (s : State) (p : Nat) (v : Port) : (setPort s p v).mkey = s.mkey := rfl
@[simp] theorem setPort_mbx (s : State) (p : Nat) (v : Port) : (setPort s p v).mbx = s.mbx := rfl
@[simp] theorem setPort_xouts (s : State) (p : Nat) (v : Port) : (setPort s p v).xouts = s.xouts := rfl
@[simp] theorem setPort_loads (s : State) (p : Nat) (v : Port) : (setPort s p v).loads = s.loads := rfl
@[simp] theorem setPort_meas (s : State) (p : Nat) (v : Port) : (setPort s p v).meas = s.meas := rfl
@[simp] theorem setPort_spdm (s : State) (p : Nat) (v : Port) : (setPort s p v).spdm = s.spdm := rfl
@[simp] theorem setPort_mc (s : State) (p : Nat) (v : Port) : (setPort s p v).mc = s.mc := rfl
@[simp] theorem setPort_therm (s : State) (p : Nat) (v : Port) : (setPort s p v).therm = s.therm := rfl
@[simp] theorem setPort_scrub (s : State) (p : Nat) (v : Port) : (setPort s p v).scrub = s.scrub := rfl
@[simp] theorem setPort_free (s : State) (p : Nat) (v : Port) : (setPort s p v).free = s.free := rfl
@[simp] theorem setPort_cfgDone (s : State) (p : Nat) (v : Port) : (setPort s p v).cfgDone = s.cfgDone := rfl

/-! ### modPort -/
@[simp] theorem modPort_build (s : State) (p : Nat) (f : Port → Port) : (modPort s p f).build = s.build := rfl
@[simp] theorem modPort_beat (s : State) (p : Nat) (f : Port → Port) : (modPort s p f).beat = s.beat := rfl
@[simp] theorem modPort_now (s : State) (p : Nat) (f : Port → Port) : (modPort s p f).now = s.now := rfl
@[simp] theorem modPort_parts (s : State) (p : Nat) (f : Port → Port) : (modPort s p f).parts = s.parts := rfl
@[simp] theorem modPort_cores (s : State) (p : Nat) (f : Port → Port) : (modPort s p f).cores = s.cores := rfl
@[simp] theorem modPort_spad (s : State) (p : Nat) (f : Port → Port) : (modPort s p f).spad = s.spad := rfl
@[simp] theorem modPort_rows (s : State) (p : Nat) (f : Port → Port) : (modPort s p f).rows = s.rows := rfl
@[simp] theorem modPort_stk (s : State) (p : Nat) (f : Port → Port) : (modPort s p f).stk = s.stk := rfl
@[simp] theorem modPort_ext (s : State) (p : Nat) (f : Port → Port) : (modPort s p f).ext = s.ext := rfl
@[simp] theorem modPort_host (s : State) (p : Nat) (f : Port → Port) : (modPort s p f).host = s.host := rfl
@[simp] theorem modPort_slots (s : State) (p : Nat) (f : Port → Port) : (modPort s p f).slots = s.slots := rfl
@[simp] theorem modPort_flt (s : State) (p : Nat) (f : Port → Port) : (modPort s p f).flt = s.flt := rfl
@[simp] theorem modPort_posts (s : State) (p : Nat) (f : Port → Port) : (modPort s p f).posts = s.posts := rfl
@[simp] theorem modPort_regs (s : State) (p : Nat) (f : Port → Port) : (modPort s p f).regs = s.regs := rfl
@[simp] theorem modPort_held (s : State) (p : Nat) (f : Port → Port) : (modPort s p f).held = s.held := rfl
@[simp] theorem modPort_pending (s : State) (p : Nat) (f : Port → Port) : (modPort s p f).pending = s.pending := rfl
@[simp] theorem modPort_twin (s : State) (p : Nat) (f : Port → Port) : (modPort s p f).twin = s.twin := rfl
@[simp] theorem modPort_boot (s : State) (p : Nat) (f : Port → Port) : (modPort s p f).boot = s.boot := rfl
@[simp] theorem modPort_errs (s : State) (p : Nat) (f : Port → Port) : (modPort s p f).errs = s.errs := rfl
@[simp] theorem modPort_mesh (s : State) (p : Nat) (f : Port → Port) : (modPort s p f).mesh = s.mesh := rfl
@[simp] theorem modPort_flitErrs (s : State) (p : Nat) (f : Port → Port) : (modPort s p f).flitErrs = s.flitErrs := rfl
@[simp] theorem modPort_claims (s : State) (p : Nat) (f : Port → Port) : (modPort s p f).claims = s.claims := rfl
@[simp] theorem modPort_lands (s : State) (p : Nat) (f : Port → Port) : (modPort s p f).lands = s.lands := rfl
@[simp] theorem modPort_stores (s : State) (p : Nat) (f : Port → Port) : (modPort s p f).stores = s.stores := rfl
@[simp] theorem modPort_nextId (s : State) (p : Nat) (f : Port → Port) : (modPort s p f).nextId = s.nextId := rfl
@[simp] theorem modPort_nextKey (s : State) (p : Nat) (f : Port → Port) : (modPort s p f).nextKey = s.nextKey := rfl
@[simp] theorem modPort_mkey (s : State) (p : Nat) (f : Port → Port) : (modPort s p f).mkey = s.mkey := rfl
@[simp] theorem modPort_mbx (s : State) (p : Nat) (f : Port → Port) : (modPort s p f).mbx = s.mbx := rfl
@[simp] theorem modPort_xouts (s : State) (p : Nat) (f : Port → Port) : (modPort s p f).xouts = s.xouts := rfl
@[simp] theorem modPort_loads (s : State) (p : Nat) (f : Port → Port) : (modPort s p f).loads = s.loads := rfl
@[simp] theorem modPort_meas (s : State) (p : Nat) (f : Port → Port) : (modPort s p f).meas = s.meas := rfl
@[simp] theorem modPort_spdm (s : State) (p : Nat) (f : Port → Port) : (modPort s p f).spdm = s.spdm := rfl
@[simp] theorem modPort_mc (s : State) (p : Nat) (f : Port → Port) : (modPort s p f).mc = s.mc := rfl
@[simp] theorem modPort_therm (s : State) (p : Nat) (f : Port → Port) : (modPort s p f).therm = s.therm := rfl
@[simp] theorem modPort_scrub (s : State) (p : Nat) (f : Port → Port) : (modPort s p f).scrub = s.scrub := rfl
@[simp] theorem modPort_free (s : State) (p : Nat) (f : Port → Port) : (modPort s p f).free = s.free := rfl
@[simp] theorem modPort_cfgDone (s : State) (p : Nat) (f : Port → Port) : (modPort s p f).cfgDone = s.cfgDone := rfl

/-! ### setSlt -/
@[simp] theorem setSlt_build (s : State) (n : Nat) (v : SlotSt) : (setSlt s n v).build = s.build := rfl
@[simp] theorem setSlt_beat (s : State) (n : Nat) (v : SlotSt) : (setSlt s n v).beat = s.beat := rfl
@[simp] theorem setSlt_now (s : State) (n : Nat) (v : SlotSt) : (setSlt s n v).now = s.now := rfl
@[simp] theorem setSlt_parts (s : State) (n : Nat) (v : SlotSt) : (setSlt s n v).parts = s.parts := rfl
@[simp] theorem setSlt_cores (s : State) (n : Nat) (v : SlotSt) : (setSlt s n v).cores = s.cores := rfl
@[simp] theorem setSlt_spad (s : State) (n : Nat) (v : SlotSt) : (setSlt s n v).spad = s.spad := rfl
@[simp] theorem setSlt_rows (s : State) (n : Nat) (v : SlotSt) : (setSlt s n v).rows = s.rows := rfl
@[simp] theorem setSlt_stk (s : State) (n : Nat) (v : SlotSt) : (setSlt s n v).stk = s.stk := rfl
@[simp] theorem setSlt_ext (s : State) (n : Nat) (v : SlotSt) : (setSlt s n v).ext = s.ext := rfl
@[simp] theorem setSlt_host (s : State) (n : Nat) (v : SlotSt) : (setSlt s n v).host = s.host := rfl
@[simp] theorem setSlt_ports (s : State) (n : Nat) (v : SlotSt) : (setSlt s n v).ports = s.ports := rfl
@[simp] theorem setSlt_flt (s : State) (n : Nat) (v : SlotSt) : (setSlt s n v).flt = s.flt := rfl
@[simp] theorem setSlt_posts (s : State) (n : Nat) (v : SlotSt) : (setSlt s n v).posts = s.posts := rfl
@[simp] theorem setSlt_regs (s : State) (n : Nat) (v : SlotSt) : (setSlt s n v).regs = s.regs := rfl
@[simp] theorem setSlt_held (s : State) (n : Nat) (v : SlotSt) : (setSlt s n v).held = s.held := rfl
@[simp] theorem setSlt_pending (s : State) (n : Nat) (v : SlotSt) : (setSlt s n v).pending = s.pending := rfl
@[simp] theorem setSlt_twin (s : State) (n : Nat) (v : SlotSt) : (setSlt s n v).twin = s.twin := rfl
@[simp] theorem setSlt_boot (s : State) (n : Nat) (v : SlotSt) : (setSlt s n v).boot = s.boot := rfl
@[simp] theorem setSlt_errs (s : State) (n : Nat) (v : SlotSt) : (setSlt s n v).errs = s.errs := rfl
@[simp] theorem setSlt_mesh (s : State) (n : Nat) (v : SlotSt) : (setSlt s n v).mesh = s.mesh := rfl
@[simp] theorem setSlt_flitErrs (s : State) (n : Nat) (v : SlotSt) : (setSlt s n v).flitErrs = s.flitErrs := rfl
@[simp] theorem setSlt_claims (s : State) (n : Nat) (v : SlotSt) : (setSlt s n v).claims = s.claims := rfl
@[simp] theorem setSlt_lands (s : State) (n : Nat) (v : SlotSt) : (setSlt s n v).lands = s.lands := rfl
@[simp] theorem setSlt_stores (s : State) (n : Nat) (v : SlotSt) : (setSlt s n v).stores = s.stores := rfl
@[simp] theorem setSlt_nextId (s : State) (n : Nat) (v : SlotSt) : (setSlt s n v).nextId = s.nextId := rfl
@[simp] theorem setSlt_nextKey (s : State) (n : Nat) (v : SlotSt) : (setSlt s n v).nextKey = s.nextKey := rfl
@[simp] theorem setSlt_mkey (s : State) (n : Nat) (v : SlotSt) : (setSlt s n v).mkey = s.mkey := rfl
@[simp] theorem setSlt_mbx (s : State) (n : Nat) (v : SlotSt) : (setSlt s n v).mbx = s.mbx := rfl
@[simp] theorem setSlt_xouts (s : State) (n : Nat) (v : SlotSt) : (setSlt s n v).xouts = s.xouts := rfl
@[simp] theorem setSlt_loads (s : State) (n : Nat) (v : SlotSt) : (setSlt s n v).loads = s.loads := rfl
@[simp] theorem setSlt_meas (s : State) (n : Nat) (v : SlotSt) : (setSlt s n v).meas = s.meas := rfl
@[simp] theorem setSlt_spdm (s : State) (n : Nat) (v : SlotSt) : (setSlt s n v).spdm = s.spdm := rfl
@[simp] theorem setSlt_mc (s : State) (n : Nat) (v : SlotSt) : (setSlt s n v).mc = s.mc := rfl
@[simp] theorem setSlt_therm (s : State) (n : Nat) (v : SlotSt) : (setSlt s n v).therm = s.therm := rfl
@[simp] theorem setSlt_scrub (s : State) (n : Nat) (v : SlotSt) : (setSlt s n v).scrub = s.scrub := rfl
@[simp] theorem setSlt_free (s : State) (n : Nat) (v : SlotSt) : (setSlt s n v).free = s.free := rfl
@[simp] theorem setSlt_cfgDone (s : State) (n : Nat) (v : SlotSt) : (setSlt s n v).cfgDone = s.cfgDone := rfl

/-! ### modSlt -/
@[simp] theorem modSlt_build (s : State) (n : Nat) (f : SlotSt → SlotSt) : (modSlt s n f).build = s.build := rfl
@[simp] theorem modSlt_beat (s : State) (n : Nat) (f : SlotSt → SlotSt) : (modSlt s n f).beat = s.beat := rfl
@[simp] theorem modSlt_now (s : State) (n : Nat) (f : SlotSt → SlotSt) : (modSlt s n f).now = s.now := rfl
@[simp] theorem modSlt_parts (s : State) (n : Nat) (f : SlotSt → SlotSt) : (modSlt s n f).parts = s.parts := rfl
@[simp] theorem modSlt_cores (s : State) (n : Nat) (f : SlotSt → SlotSt) : (modSlt s n f).cores = s.cores := rfl
@[simp] theorem modSlt_spad (s : State) (n : Nat) (f : SlotSt → SlotSt) : (modSlt s n f).spad = s.spad := rfl
@[simp] theorem modSlt_rows (s : State) (n : Nat) (f : SlotSt → SlotSt) : (modSlt s n f).rows = s.rows := rfl
@[simp] theorem modSlt_stk (s : State) (n : Nat) (f : SlotSt → SlotSt) : (modSlt s n f).stk = s.stk := rfl
@[simp] theorem modSlt_ext (s : State) (n : Nat) (f : SlotSt → SlotSt) : (modSlt s n f).ext = s.ext := rfl
@[simp] theorem modSlt_host (s : State) (n : Nat) (f : SlotSt → SlotSt) : (modSlt s n f).host = s.host := rfl
@[simp] theorem modSlt_ports (s : State) (n : Nat) (f : SlotSt → SlotSt) : (modSlt s n f).ports = s.ports := rfl
@[simp] theorem modSlt_flt (s : State) (n : Nat) (f : SlotSt → SlotSt) : (modSlt s n f).flt = s.flt := rfl
@[simp] theorem modSlt_posts (s : State) (n : Nat) (f : SlotSt → SlotSt) : (modSlt s n f).posts = s.posts := rfl
@[simp] theorem modSlt_regs (s : State) (n : Nat) (f : SlotSt → SlotSt) : (modSlt s n f).regs = s.regs := rfl
@[simp] theorem modSlt_held (s : State) (n : Nat) (f : SlotSt → SlotSt) : (modSlt s n f).held = s.held := rfl
@[simp] theorem modSlt_pending (s : State) (n : Nat) (f : SlotSt → SlotSt) : (modSlt s n f).pending = s.pending := rfl
@[simp] theorem modSlt_twin (s : State) (n : Nat) (f : SlotSt → SlotSt) : (modSlt s n f).twin = s.twin := rfl
@[simp] theorem modSlt_boot (s : State) (n : Nat) (f : SlotSt → SlotSt) : (modSlt s n f).boot = s.boot := rfl
@[simp] theorem modSlt_errs (s : State) (n : Nat) (f : SlotSt → SlotSt) : (modSlt s n f).errs = s.errs := rfl
@[simp] theorem modSlt_mesh (s : State) (n : Nat) (f : SlotSt → SlotSt) : (modSlt s n f).mesh = s.mesh := rfl
@[simp] theorem modSlt_flitErrs (s : State) (n : Nat) (f : SlotSt → SlotSt) : (modSlt s n f).flitErrs = s.flitErrs := rfl
@[simp] theorem modSlt_claims (s : State) (n : Nat) (f : SlotSt → SlotSt) : (modSlt s n f).claims = s.claims := rfl
@[simp] theorem modSlt_lands (s : State) (n : Nat) (f : SlotSt → SlotSt) : (modSlt s n f).lands = s.lands := rfl
@[simp] theorem modSlt_stores (s : State) (n : Nat) (f : SlotSt → SlotSt) : (modSlt s n f).stores = s.stores := rfl
@[simp] theorem modSlt_nextId (s : State) (n : Nat) (f : SlotSt → SlotSt) : (modSlt s n f).nextId = s.nextId := rfl
@[simp] theorem modSlt_nextKey (s : State) (n : Nat) (f : SlotSt → SlotSt) : (modSlt s n f).nextKey = s.nextKey := rfl
@[simp] theorem modSlt_mkey (s : State) (n : Nat) (f : SlotSt → SlotSt) : (modSlt s n f).mkey = s.mkey := rfl
@[simp] theorem modSlt_mbx (s : State) (n : Nat) (f : SlotSt → SlotSt) : (modSlt s n f).mbx = s.mbx := rfl
@[simp] theorem modSlt_xouts (s : State) (n : Nat) (f : SlotSt → SlotSt) : (modSlt s n f).xouts = s.xouts := rfl
@[simp] theorem modSlt_loads (s : State) (n : Nat) (f : SlotSt → SlotSt) : (modSlt s n f).loads = s.loads := rfl
@[simp] theorem modSlt_meas (s : State) (n : Nat) (f : SlotSt → SlotSt) : (modSlt s n f).meas = s.meas := rfl
@[simp] theorem modSlt_spdm (s : State) (n : Nat) (f : SlotSt → SlotSt) : (modSlt s n f).spdm = s.spdm := rfl
@[simp] theorem modSlt_mc (s : State) (n : Nat) (f : SlotSt → SlotSt) : (modSlt s n f).mc = s.mc := rfl
@[simp] theorem modSlt_therm (s : State) (n : Nat) (f : SlotSt → SlotSt) : (modSlt s n f).therm = s.therm := rfl
@[simp] theorem modSlt_scrub (s : State) (n : Nat) (f : SlotSt → SlotSt) : (modSlt s n f).scrub = s.scrub := rfl
@[simp] theorem modSlt_free (s : State) (n : Nat) (f : SlotSt → SlotSt) : (modSlt s n f).free = s.free := rfl
@[simp] theorem modSlt_cfgDone (s : State) (n : Nat) (f : SlotSt → SlotSt) : (modSlt s n f).cfgDone = s.cfgDone := rfl

/-! ### setMbx -/
@[simp] theorem setMbx_build (s : State) (n : Nat) (v : Mbx) : (setMbx s n v).build = s.build := rfl
@[simp] theorem setMbx_beat (s : State) (n : Nat) (v : Mbx) : (setMbx s n v).beat = s.beat := rfl
@[simp] theorem setMbx_now (s : State) (n : Nat) (v : Mbx) : (setMbx s n v).now = s.now := rfl
@[simp] theorem setMbx_parts (s : State) (n : Nat) (v : Mbx) : (setMbx s n v).parts = s.parts := rfl
@[simp] theorem setMbx_cores (s : State) (n : Nat) (v : Mbx) : (setMbx s n v).cores = s.cores := rfl
@[simp] theorem setMbx_spad (s : State) (n : Nat) (v : Mbx) : (setMbx s n v).spad = s.spad := rfl
@[simp] theorem setMbx_rows (s : State) (n : Nat) (v : Mbx) : (setMbx s n v).rows = s.rows := rfl
@[simp] theorem setMbx_stk (s : State) (n : Nat) (v : Mbx) : (setMbx s n v).stk = s.stk := rfl
@[simp] theorem setMbx_ext (s : State) (n : Nat) (v : Mbx) : (setMbx s n v).ext = s.ext := rfl
@[simp] theorem setMbx_host (s : State) (n : Nat) (v : Mbx) : (setMbx s n v).host = s.host := rfl
@[simp] theorem setMbx_ports (s : State) (n : Nat) (v : Mbx) : (setMbx s n v).ports = s.ports := rfl
@[simp] theorem setMbx_slots (s : State) (n : Nat) (v : Mbx) : (setMbx s n v).slots = s.slots := rfl
@[simp] theorem setMbx_flt (s : State) (n : Nat) (v : Mbx) : (setMbx s n v).flt = s.flt := rfl
@[simp] theorem setMbx_posts (s : State) (n : Nat) (v : Mbx) : (setMbx s n v).posts = s.posts := rfl
@[simp] theorem setMbx_regs (s : State) (n : Nat) (v : Mbx) : (setMbx s n v).regs = s.regs := rfl
@[simp] theorem setMbx_held (s : State) (n : Nat) (v : Mbx) : (setMbx s n v).held = s.held := rfl
@[simp] theorem setMbx_pending (s : State) (n : Nat) (v : Mbx) : (setMbx s n v).pending = s.pending := rfl
@[simp] theorem setMbx_twin (s : State) (n : Nat) (v : Mbx) : (setMbx s n v).twin = s.twin := rfl
@[simp] theorem setMbx_boot (s : State) (n : Nat) (v : Mbx) : (setMbx s n v).boot = s.boot := rfl
@[simp] theorem setMbx_errs (s : State) (n : Nat) (v : Mbx) : (setMbx s n v).errs = s.errs := rfl
@[simp] theorem setMbx_mesh (s : State) (n : Nat) (v : Mbx) : (setMbx s n v).mesh = s.mesh := rfl
@[simp] theorem setMbx_flitErrs (s : State) (n : Nat) (v : Mbx) : (setMbx s n v).flitErrs = s.flitErrs := rfl
@[simp] theorem setMbx_claims (s : State) (n : Nat) (v : Mbx) : (setMbx s n v).claims = s.claims := rfl
@[simp] theorem setMbx_lands (s : State) (n : Nat) (v : Mbx) : (setMbx s n v).lands = s.lands := rfl
@[simp] theorem setMbx_stores (s : State) (n : Nat) (v : Mbx) : (setMbx s n v).stores = s.stores := rfl
@[simp] theorem setMbx_nextId (s : State) (n : Nat) (v : Mbx) : (setMbx s n v).nextId = s.nextId := rfl
@[simp] theorem setMbx_nextKey (s : State) (n : Nat) (v : Mbx) : (setMbx s n v).nextKey = s.nextKey := rfl
@[simp] theorem setMbx_mkey (s : State) (n : Nat) (v : Mbx) : (setMbx s n v).mkey = s.mkey := rfl
@[simp] theorem setMbx_xouts (s : State) (n : Nat) (v : Mbx) : (setMbx s n v).xouts = s.xouts := rfl
@[simp] theorem setMbx_loads (s : State) (n : Nat) (v : Mbx) : (setMbx s n v).loads = s.loads := rfl
@[simp] theorem setMbx_meas (s : State) (n : Nat) (v : Mbx) : (setMbx s n v).meas = s.meas := rfl
@[simp] theorem setMbx_spdm (s : State) (n : Nat) (v : Mbx) : (setMbx s n v).spdm = s.spdm := rfl
@[simp] theorem setMbx_mc (s : State) (n : Nat) (v : Mbx) : (setMbx s n v).mc = s.mc := rfl
@[simp] theorem setMbx_therm (s : State) (n : Nat) (v : Mbx) : (setMbx s n v).therm = s.therm := rfl
@[simp] theorem setMbx_scrub (s : State) (n : Nat) (v : Mbx) : (setMbx s n v).scrub = s.scrub := rfl
@[simp] theorem setMbx_free (s : State) (n : Nat) (v : Mbx) : (setMbx s n v).free = s.free := rfl
@[simp] theorem setMbx_cfgDone (s : State) (n : Nat) (v : Mbx) : (setMbx s n v).cfgDone = s.cfgDone := rfl

/-! ### setMeas -/
@[simp] theorem setMeas_build (s : State) (i : Nat) (m : Meas) : (setMeas s i m).build = s.build := rfl
@[simp] theorem setMeas_beat (s : State) (i : Nat) (m : Meas) : (setMeas s i m).beat = s.beat := rfl
@[simp] theorem setMeas_now (s : State) (i : Nat) (m : Meas) : (setMeas s i m).now = s.now := rfl
@[simp] theorem setMeas_parts (s : State) (i : Nat) (m : Meas) : (setMeas s i m).parts = s.parts := rfl
@[simp] theorem setMeas_cores (s : State) (i : Nat) (m : Meas) : (setMeas s i m).cores = s.cores := rfl
@[simp] theorem setMeas_spad (s : State) (i : Nat) (m : Meas) : (setMeas s i m).spad = s.spad := rfl
@[simp] theorem setMeas_rows (s : State) (i : Nat) (m : Meas) : (setMeas s i m).rows = s.rows := rfl
@[simp] theorem setMeas_stk (s : State) (i : Nat) (m : Meas) : (setMeas s i m).stk = s.stk := rfl
@[simp] theorem setMeas_ext (s : State) (i : Nat) (m : Meas) : (setMeas s i m).ext = s.ext := rfl
@[simp] theorem setMeas_host (s : State) (i : Nat) (m : Meas) : (setMeas s i m).host = s.host := rfl
@[simp] theorem setMeas_ports (s : State) (i : Nat) (m : Meas) : (setMeas s i m).ports = s.ports := rfl
@[simp] theorem setMeas_slots (s : State) (i : Nat) (m : Meas) : (setMeas s i m).slots = s.slots := rfl
@[simp] theorem setMeas_flt (s : State) (i : Nat) (m : Meas) : (setMeas s i m).flt = s.flt := rfl
@[simp] theorem setMeas_posts (s : State) (i : Nat) (m : Meas) : (setMeas s i m).posts = s.posts := rfl
@[simp] theorem setMeas_regs (s : State) (i : Nat) (m : Meas) : (setMeas s i m).regs = s.regs := rfl
@[simp] theorem setMeas_held (s : State) (i : Nat) (m : Meas) : (setMeas s i m).held = s.held := rfl
@[simp] theorem setMeas_pending (s : State) (i : Nat) (m : Meas) : (setMeas s i m).pending = s.pending := rfl
@[simp] theorem setMeas_twin (s : State) (i : Nat) (m : Meas) : (setMeas s i m).twin = s.twin := rfl
@[simp] theorem setMeas_boot (s : State) (i : Nat) (m : Meas) : (setMeas s i m).boot = s.boot := rfl
@[simp] theorem setMeas_errs (s : State) (i : Nat) (m : Meas) : (setMeas s i m).errs = s.errs := rfl
@[simp] theorem setMeas_mesh (s : State) (i : Nat) (m : Meas) : (setMeas s i m).mesh = s.mesh := rfl
@[simp] theorem setMeas_flitErrs (s : State) (i : Nat) (m : Meas) : (setMeas s i m).flitErrs = s.flitErrs := rfl
@[simp] theorem setMeas_claims (s : State) (i : Nat) (m : Meas) : (setMeas s i m).claims = s.claims := rfl
@[simp] theorem setMeas_lands (s : State) (i : Nat) (m : Meas) : (setMeas s i m).lands = s.lands := rfl
@[simp] theorem setMeas_stores (s : State) (i : Nat) (m : Meas) : (setMeas s i m).stores = s.stores := rfl
@[simp] theorem setMeas_nextId (s : State) (i : Nat) (m : Meas) : (setMeas s i m).nextId = s.nextId := rfl
@[simp] theorem setMeas_nextKey (s : State) (i : Nat) (m : Meas) : (setMeas s i m).nextKey = s.nextKey := rfl
@[simp] theorem setMeas_mkey (s : State) (i : Nat) (m : Meas) : (setMeas s i m).mkey = s.mkey := rfl
@[simp] theorem setMeas_mbx (s : State) (i : Nat) (m : Meas) : (setMeas s i m).mbx = s.mbx := rfl
@[simp] theorem setMeas_xouts (s : State) (i : Nat) (m : Meas) : (setMeas s i m).xouts = s.xouts := rfl
@[simp] theorem setMeas_loads (s : State) (i : Nat) (m : Meas) : (setMeas s i m).loads = s.loads := rfl
@[simp] theorem setMeas_spdm (s : State) (i : Nat) (m : Meas) : (setMeas s i m).spdm = s.spdm := rfl
@[simp] theorem setMeas_mc (s : State) (i : Nat) (m : Meas) : (setMeas s i m).mc = s.mc := rfl
@[simp] theorem setMeas_therm (s : State) (i : Nat) (m : Meas) : (setMeas s i m).therm = s.therm := rfl
@[simp] theorem setMeas_scrub (s : State) (i : Nat) (m : Meas) : (setMeas s i m).scrub = s.scrub := rfl
@[simp] theorem setMeas_free (s : State) (i : Nat) (m : Meas) : (setMeas s i m).free = s.free := rfl
@[simp] theorem setMeas_cfgDone (s : State) (i : Nat) (m : Meas) : (setMeas s i m).cfgDone = s.cfgDone := rfl

/-! ### setStk -/
@[simp] theorem setStk_build (s : State) (p : Nat) (v : StkPort) : (setStk s p v).build = s.build := rfl
@[simp] theorem setStk_beat (s : State) (p : Nat) (v : StkPort) : (setStk s p v).beat = s.beat := rfl
@[simp] theorem setStk_now (s : State) (p : Nat) (v : StkPort) : (setStk s p v).now = s.now := rfl
@[simp] theorem setStk_parts (s : State) (p : Nat) (v : StkPort) : (setStk s p v).parts = s.parts := rfl
@[simp] theorem setStk_cores (s : State) (p : Nat) (v : StkPort) : (setStk s p v).cores = s.cores := rfl
@[simp] theorem setStk_spad (s : State) (p : Nat) (v : StkPort) : (setStk s p v).spad = s.spad := rfl
@[simp] theorem setStk_rows (s : State) (p : Nat) (v : StkPort) : (setStk s p v).rows = s.rows := rfl
@[simp] theorem setStk_ext (s : State) (p : Nat) (v : StkPort) : (setStk s p v).ext = s.ext := rfl
@[simp] theorem setStk_host (s : State) (p : Nat) (v : StkPort) : (setStk s p v).host = s.host := rfl
@[simp] theorem setStk_ports (s : State) (p : Nat) (v : StkPort) : (setStk s p v).ports = s.ports := rfl
@[simp] theorem setStk_slots (s : State) (p : Nat) (v : StkPort) : (setStk s p v).slots = s.slots := rfl
@[simp] theorem setStk_flt (s : State) (p : Nat) (v : StkPort) : (setStk s p v).flt = s.flt := rfl
@[simp] theorem setStk_posts (s : State) (p : Nat) (v : StkPort) : (setStk s p v).posts = s.posts := rfl
@[simp] theorem setStk_regs (s : State) (p : Nat) (v : StkPort) : (setStk s p v).regs = s.regs := rfl
@[simp] theorem setStk_held (s : State) (p : Nat) (v : StkPort) : (setStk s p v).held = s.held := rfl
@[simp] theorem setStk_pending (s : State) (p : Nat) (v : StkPort) : (setStk s p v).pending = s.pending := rfl
@[simp] theorem setStk_twin (s : State) (p : Nat) (v : StkPort) : (setStk s p v).twin = s.twin := rfl
@[simp] theorem setStk_boot (s : State) (p : Nat) (v : StkPort) : (setStk s p v).boot = s.boot := rfl
@[simp] theorem setStk_errs (s : State) (p : Nat) (v : StkPort) : (setStk s p v).errs = s.errs := rfl
@[simp] theorem setStk_mesh (s : State) (p : Nat) (v : StkPort) : (setStk s p v).mesh = s.mesh := rfl
@[simp] theorem setStk_flitErrs (s : State) (p : Nat) (v : StkPort) : (setStk s p v).flitErrs = s.flitErrs := rfl
@[simp] theorem setStk_claims (s : State) (p : Nat) (v : StkPort) : (setStk s p v).claims = s.claims := rfl
@[simp] theorem setStk_lands (s : State) (p : Nat) (v : StkPort) : (setStk s p v).lands = s.lands := rfl
@[simp] theorem setStk_stores (s : State) (p : Nat) (v : StkPort) : (setStk s p v).stores = s.stores := rfl
@[simp] theorem setStk_nextId (s : State) (p : Nat) (v : StkPort) : (setStk s p v).nextId = s.nextId := rfl
@[simp] theorem setStk_nextKey (s : State) (p : Nat) (v : StkPort) : (setStk s p v).nextKey = s.nextKey := rfl
@[simp] theorem setStk_mkey (s : State) (p : Nat) (v : StkPort) : (setStk s p v).mkey = s.mkey := rfl
@[simp] theorem setStk_mbx (s : State) (p : Nat) (v : StkPort) : (setStk s p v).mbx = s.mbx := rfl
@[simp] theorem setStk_xouts (s : State) (p : Nat) (v : StkPort) : (setStk s p v).xouts = s.xouts := rfl
@[simp] theorem setStk_loads (s : State) (p : Nat) (v : StkPort) : (setStk s p v).loads = s.loads := rfl
@[simp] theorem setStk_meas (s : State) (p : Nat) (v : StkPort) : (setStk s p v).meas = s.meas := rfl
@[simp] theorem setStk_spdm (s : State) (p : Nat) (v : StkPort) : (setStk s p v).spdm = s.spdm := rfl
@[simp] theorem setStk_mc (s : State) (p : Nat) (v : StkPort) : (setStk s p v).mc = s.mc := rfl
@[simp] theorem setStk_therm (s : State) (p : Nat) (v : StkPort) : (setStk s p v).therm = s.therm := rfl
@[simp] theorem setStk_scrub (s : State) (p : Nat) (v : StkPort) : (setStk s p v).scrub = s.scrub := rfl
@[simp] theorem setStk_free (s : State) (p : Nat) (v : StkPort) : (setStk s p v).free = s.free := rfl
@[simp] theorem setStk_cfgDone (s : State) (p : Nat) (v : StkPort) : (setStk s p v).cfgDone = s.cfgDone := rfl

/-! ### setSlot -/
@[simp] theorem setSlot_build (s : State) (n : Nat) (v : Option QSlot) : (setSlot s n v).build = s.build := rfl
@[simp] theorem setSlot_beat (s : State) (n : Nat) (v : Option QSlot) : (setSlot s n v).beat = s.beat := rfl
@[simp] theorem setSlot_now (s : State) (n : Nat) (v : Option QSlot) : (setSlot s n v).now = s.now := rfl
@[simp] theorem setSlot_parts (s : State) (n : Nat) (v : Option QSlot) : (setSlot s n v).parts = s.parts := rfl
@[simp] theorem setSlot_cores (s : State) (n : Nat) (v : Option QSlot) : (setSlot s n v).cores = s.cores := rfl
@[simp] theorem setSlot_spad (s : State) (n : Nat) (v : Option QSlot) : (setSlot s n v).spad = s.spad := rfl
@[simp] theorem setSlot_rows (s : State) (n : Nat) (v : Option QSlot) : (setSlot s n v).rows = s.rows := rfl
@[simp] theorem setSlot_stk (s : State) (n : Nat) (v : Option QSlot) : (setSlot s n v).stk = s.stk := rfl
@[simp] theorem setSlot_ext (s : State) (n : Nat) (v : Option QSlot) : (setSlot s n v).ext = s.ext := rfl
@[simp] theorem setSlot_ports (s : State) (n : Nat) (v : Option QSlot) : (setSlot s n v).ports = s.ports := rfl
@[simp] theorem setSlot_slots (s : State) (n : Nat) (v : Option QSlot) : (setSlot s n v).slots = s.slots := rfl
@[simp] theorem setSlot_flt (s : State) (n : Nat) (v : Option QSlot) : (setSlot s n v).flt = s.flt := rfl
@[simp] theorem setSlot_posts (s : State) (n : Nat) (v : Option QSlot) : (setSlot s n v).posts = s.posts := rfl
@[simp] theorem setSlot_regs (s : State) (n : Nat) (v : Option QSlot) : (setSlot s n v).regs = s.regs := rfl
@[simp] theorem setSlot_held (s : State) (n : Nat) (v : Option QSlot) : (setSlot s n v).held = s.held := rfl
@[simp] theorem setSlot_pending (s : State) (n : Nat) (v : Option QSlot) : (setSlot s n v).pending = s.pending := rfl
@[simp] theorem setSlot_twin (s : State) (n : Nat) (v : Option QSlot) : (setSlot s n v).twin = s.twin := rfl
@[simp] theorem setSlot_boot (s : State) (n : Nat) (v : Option QSlot) : (setSlot s n v).boot = s.boot := rfl
@[simp] theorem setSlot_errs (s : State) (n : Nat) (v : Option QSlot) : (setSlot s n v).errs = s.errs := rfl
@[simp] theorem setSlot_mesh (s : State) (n : Nat) (v : Option QSlot) : (setSlot s n v).mesh = s.mesh := rfl
@[simp] theorem setSlot_flitErrs (s : State) (n : Nat) (v : Option QSlot) : (setSlot s n v).flitErrs = s.flitErrs := rfl
@[simp] theorem setSlot_claims (s : State) (n : Nat) (v : Option QSlot) : (setSlot s n v).claims = s.claims := rfl
@[simp] theorem setSlot_lands (s : State) (n : Nat) (v : Option QSlot) : (setSlot s n v).lands = s.lands := rfl
@[simp] theorem setSlot_stores (s : State) (n : Nat) (v : Option QSlot) : (setSlot s n v).stores = s.stores := rfl
@[simp] theorem setSlot_nextId (s : State) (n : Nat) (v : Option QSlot) : (setSlot s n v).nextId = s.nextId := rfl
@[simp] theorem setSlot_nextKey (s : State) (n : Nat) (v : Option QSlot) : (setSlot s n v).nextKey = s.nextKey := rfl
@[simp] theorem setSlot_mkey (s : State) (n : Nat) (v : Option QSlot) : (setSlot s n v).mkey = s.mkey := rfl
@[simp] theorem setSlot_mbx (s : State) (n : Nat) (v : Option QSlot) : (setSlot s n v).mbx = s.mbx := rfl
@[simp] theorem setSlot_xouts (s : State) (n : Nat) (v : Option QSlot) : (setSlot s n v).xouts = s.xouts := rfl
@[simp] theorem setSlot_loads (s : State) (n : Nat) (v : Option QSlot) : (setSlot s n v).loads = s.loads := rfl
@[simp] theorem setSlot_meas (s : State) (n : Nat) (v : Option QSlot) : (setSlot s n v).meas = s.meas := rfl
@[simp] theorem setSlot_spdm (s : State) (n : Nat) (v : Option QSlot) : (setSlot s n v).spdm = s.spdm := rfl
@[simp] theorem setSlot_mc (s : State) (n : Nat) (v : Option QSlot) : (setSlot s n v).mc = s.mc := rfl
@[simp] theorem setSlot_therm (s : State) (n : Nat) (v : Option QSlot) : (setSlot s n v).therm = s.therm := rfl
@[simp] theorem setSlot_scrub (s : State) (n : Nat) (v : Option QSlot) : (setSlot s n v).scrub = s.scrub := rfl
@[simp] theorem setSlot_free (s : State) (n : Nat) (v : Option QSlot) : (setSlot s n v).free = s.free := rfl
@[simp] theorem setSlot_cfgDone (s : State) (n : Nat) (v : Option QSlot) : (setSlot s n v).cfgDone = s.cfgDone := rfl

/-! ### setCtx -/
@[simp] theorem setCtx_build (s : State) (id : Nat) (c : Ctx) : (setCtx s id c).build = s.build := rfl
@[simp] theorem setCtx_beat (s : State) (id : Nat) (c : Ctx) : (setCtx s id c).beat = s.beat := rfl
@[simp] theorem setCtx_now (s : State) (id : Nat) (c : Ctx) : (setCtx s id c).now = s.now := rfl
@[simp] theorem setCtx_parts (s : State) (id : Nat) (c : Ctx) : (setCtx s id c).parts = s.parts := rfl
@[simp] theorem setCtx_cores (s : State) (id : Nat) (c : Ctx) : (setCtx s id c).cores = s.cores := rfl
@[simp] theorem setCtx_spad (s : State) (id : Nat) (c : Ctx) : (setCtx s id c).spad = s.spad := rfl
@[simp] theorem setCtx_rows (s : State) (id : Nat) (c : Ctx) : (setCtx s id c).rows = s.rows := rfl
@[simp] theorem setCtx_stk (s : State) (id : Nat) (c : Ctx) : (setCtx s id c).stk = s.stk := rfl
@[simp] theorem setCtx_ext (s : State) (id : Nat) (c : Ctx) : (setCtx s id c).ext = s.ext := rfl
@[simp] theorem setCtx_ports (s : State) (id : Nat) (c : Ctx) : (setCtx s id c).ports = s.ports := rfl
@[simp] theorem setCtx_slots (s : State) (id : Nat) (c : Ctx) : (setCtx s id c).slots = s.slots := rfl
@[simp] theorem setCtx_flt (s : State) (id : Nat) (c : Ctx) : (setCtx s id c).flt = s.flt := rfl
@[simp] theorem setCtx_posts (s : State) (id : Nat) (c : Ctx) : (setCtx s id c).posts = s.posts := rfl
@[simp] theorem setCtx_regs (s : State) (id : Nat) (c : Ctx) : (setCtx s id c).regs = s.regs := rfl
@[simp] theorem setCtx_held (s : State) (id : Nat) (c : Ctx) : (setCtx s id c).held = s.held := rfl
@[simp] theorem setCtx_pending (s : State) (id : Nat) (c : Ctx) : (setCtx s id c).pending = s.pending := rfl
@[simp] theorem setCtx_twin (s : State) (id : Nat) (c : Ctx) : (setCtx s id c).twin = s.twin := rfl
@[simp] theorem setCtx_boot (s : State) (id : Nat) (c : Ctx) : (setCtx s id c).boot = s.boot := rfl
@[simp] theorem setCtx_errs (s : State) (id : Nat) (c : Ctx) : (setCtx s id c).errs = s.errs := rfl
@[simp] theorem setCtx_mesh (s : State) (id : Nat) (c : Ctx) : (setCtx s id c).mesh = s.mesh := rfl
@[simp] theorem setCtx_flitErrs (s : State) (id : Nat) (c : Ctx) : (setCtx s id c).flitErrs = s.flitErrs := rfl
@[simp] theorem setCtx_claims (s : State) (id : Nat) (c : Ctx) : (setCtx s id c).claims = s.claims := rfl
@[simp] theorem setCtx_lands (s : State) (id : Nat) (c : Ctx) : (setCtx s id c).lands = s.lands := rfl
@[simp] theorem setCtx_stores (s : State) (id : Nat) (c : Ctx) : (setCtx s id c).stores = s.stores := rfl
@[simp] theorem setCtx_nextId (s : State) (id : Nat) (c : Ctx) : (setCtx s id c).nextId = s.nextId := rfl
@[simp] theorem setCtx_nextKey (s : State) (id : Nat) (c : Ctx) : (setCtx s id c).nextKey = s.nextKey := rfl
@[simp] theorem setCtx_mkey (s : State) (id : Nat) (c : Ctx) : (setCtx s id c).mkey = s.mkey := rfl
@[simp] theorem setCtx_mbx (s : State) (id : Nat) (c : Ctx) : (setCtx s id c).mbx = s.mbx := rfl
@[simp] theorem setCtx_xouts (s : State) (id : Nat) (c : Ctx) : (setCtx s id c).xouts = s.xouts := rfl
@[simp] theorem setCtx_loads (s : State) (id : Nat) (c : Ctx) : (setCtx s id c).loads = s.loads := rfl
@[simp] theorem setCtx_meas (s : State) (id : Nat) (c : Ctx) : (setCtx s id c).meas = s.meas := rfl
@[simp] theorem setCtx_spdm (s : State) (id : Nat) (c : Ctx) : (setCtx s id c).spdm = s.spdm := rfl
@[simp] theorem setCtx_mc (s : State) (id : Nat) (c : Ctx) : (setCtx s id c).mc = s.mc := rfl
@[simp] theorem setCtx_therm (s : State) (id : Nat) (c : Ctx) : (setCtx s id c).therm = s.therm := rfl
@[simp] theorem setCtx_scrub (s : State) (id : Nat) (c : Ctx) : (setCtx s id c).scrub = s.scrub := rfl
@[simp] theorem setCtx_free (s : State) (id : Nat) (c : Ctx) : (setCtx s id c).free = s.free := rfl
@[simp] theorem setCtx_cfgDone (s : State) (id : Nat) (c : Ctx) : (setCtx s id c).cfgDone = s.cfgDone := rfl

/-! ### setEvt -/
@[simp] theorem setEvt_build (s : State) (i : Nat) (e : Option ResEvt) : (setEvt s i e).build = s.build := rfl
@[simp] theorem setEvt_beat (s : State) (i : Nat) (e : Option ResEvt) : (setEvt s i e).beat = s.beat := rfl
@[simp] theorem setEvt_now (s : State) (i : Nat) (e : Option ResEvt) : (setEvt s i e).now = s.now := rfl
@[simp] theorem setEvt_parts (s : State) (i : Nat) (e : Option ResEvt) : (setEvt s i e).parts = s.parts := rfl
@[simp] theorem setEvt_cores (s : State) (i : Nat) (e : Option ResEvt) : (setEvt s i e).cores = s.cores := rfl
@[simp] theorem setEvt_spad (s : State) (i : Nat) (e : Option ResEvt) : (setEvt s i e).spad = s.spad := rfl
@[simp] theorem setEvt_rows (s : State) (i : Nat) (e : Option ResEvt) : (setEvt s i e).rows = s.rows := rfl
@[simp] theorem setEvt_stk (s : State) (i : Nat) (e : Option ResEvt) : (setEvt s i e).stk = s.stk := rfl
@[simp] theorem setEvt_ext (s : State) (i : Nat) (e : Option ResEvt) : (setEvt s i e).ext = s.ext := rfl
@[simp] theorem setEvt_ports (s : State) (i : Nat) (e : Option ResEvt) : (setEvt s i e).ports = s.ports := rfl
@[simp] theorem setEvt_slots (s : State) (i : Nat) (e : Option ResEvt) : (setEvt s i e).slots = s.slots := rfl
@[simp] theorem setEvt_flt (s : State) (i : Nat) (e : Option ResEvt) : (setEvt s i e).flt = s.flt := rfl
@[simp] theorem setEvt_posts (s : State) (i : Nat) (e : Option ResEvt) : (setEvt s i e).posts = s.posts := rfl
@[simp] theorem setEvt_regs (s : State) (i : Nat) (e : Option ResEvt) : (setEvt s i e).regs = s.regs := rfl
@[simp] theorem setEvt_held (s : State) (i : Nat) (e : Option ResEvt) : (setEvt s i e).held = s.held := rfl
@[simp] theorem setEvt_pending (s : State) (i : Nat) (e : Option ResEvt) : (setEvt s i e).pending = s.pending := rfl
@[simp] theorem setEvt_twin (s : State) (i : Nat) (e : Option ResEvt) : (setEvt s i e).twin = s.twin := rfl
@[simp] theorem setEvt_boot (s : State) (i : Nat) (e : Option ResEvt) : (setEvt s i e).boot = s.boot := rfl
@[simp] theorem setEvt_errs (s : State) (i : Nat) (e : Option ResEvt) : (setEvt s i e).errs = s.errs := rfl
@[simp] theorem setEvt_mesh (s : State) (i : Nat) (e : Option ResEvt) : (setEvt s i e).mesh = s.mesh := rfl
@[simp] theorem setEvt_flitErrs (s : State) (i : Nat) (e : Option ResEvt) : (setEvt s i e).flitErrs = s.flitErrs := rfl
@[simp] theorem setEvt_claims (s : State) (i : Nat) (e : Option ResEvt) : (setEvt s i e).claims = s.claims := rfl
@[simp] theorem setEvt_lands (s : State) (i : Nat) (e : Option ResEvt) : (setEvt s i e).lands = s.lands := rfl
@[simp] theorem setEvt_stores (s : State) (i : Nat) (e : Option ResEvt) : (setEvt s i e).stores = s.stores := rfl
@[simp] theorem setEvt_nextId (s : State) (i : Nat) (e : Option ResEvt) : (setEvt s i e).nextId = s.nextId := rfl
@[simp] theorem setEvt_nextKey (s : State) (i : Nat) (e : Option ResEvt) : (setEvt s i e).nextKey = s.nextKey := rfl
@[simp] theorem setEvt_mkey (s : State) (i : Nat) (e : Option ResEvt) : (setEvt s i e).mkey = s.mkey := rfl
@[simp] theorem setEvt_mbx (s : State) (i : Nat) (e : Option ResEvt) : (setEvt s i e).mbx = s.mbx := rfl
@[simp] theorem setEvt_xouts (s : State) (i : Nat) (e : Option ResEvt) : (setEvt s i e).xouts = s.xouts := rfl
@[simp] theorem setEvt_loads (s : State) (i : Nat) (e : Option ResEvt) : (setEvt s i e).loads = s.loads := rfl
@[simp] theorem setEvt_meas (s : State) (i : Nat) (e : Option ResEvt) : (setEvt s i e).meas = s.meas := rfl
@[simp] theorem setEvt_spdm (s : State) (i : Nat) (e : Option ResEvt) : (setEvt s i e).spdm = s.spdm := rfl
@[simp] theorem setEvt_mc (s : State) (i : Nat) (e : Option ResEvt) : (setEvt s i e).mc = s.mc := rfl
@[simp] theorem setEvt_therm (s : State) (i : Nat) (e : Option ResEvt) : (setEvt s i e).therm = s.therm := rfl
@[simp] theorem setEvt_scrub (s : State) (i : Nat) (e : Option ResEvt) : (setEvt s i e).scrub = s.scrub := rfl
@[simp] theorem setEvt_free (s : State) (i : Nat) (e : Option ResEvt) : (setEvt s i e).free = s.free := rfl
@[simp] theorem setEvt_cfgDone (s : State) (i : Nat) (e : Option ResEvt) : (setEvt s i e).cfgDone = s.cfgDone := rfl

/-! ### putLive -/
@[simp] theorem putLive_build (s : State) (off : Nat) (v : W32) : (putLive off v s).build = s.build := rfl
@[simp] theorem putLive_beat (s : State) (off : Nat) (v : W32) : (putLive off v s).beat = s.beat := rfl
@[simp] theorem putLive_now (s : State) (off : Nat) (v : W32) : (putLive off v s).now = s.now := rfl
@[simp] theorem putLive_parts (s : State) (off : Nat) (v : W32) : (putLive off v s).parts = s.parts := rfl
@[simp] theorem putLive_cores (s : State) (off : Nat) (v : W32) : (putLive off v s).cores = s.cores := rfl
@[simp] theorem putLive_spad (s : State) (off : Nat) (v : W32) : (putLive off v s).spad = s.spad := rfl
@[simp] theorem putLive_rows (s : State) (off : Nat) (v : W32) : (putLive off v s).rows = s.rows := rfl
@[simp] theorem putLive_stk (s : State) (off : Nat) (v : W32) : (putLive off v s).stk = s.stk := rfl
@[simp] theorem putLive_ext (s : State) (off : Nat) (v : W32) : (putLive off v s).ext = s.ext := rfl
@[simp] theorem putLive_host (s : State) (off : Nat) (v : W32) : (putLive off v s).host = s.host := rfl
@[simp] theorem putLive_ports (s : State) (off : Nat) (v : W32) : (putLive off v s).ports = s.ports := rfl
@[simp] theorem putLive_slots (s : State) (off : Nat) (v : W32) : (putLive off v s).slots = s.slots := rfl
@[simp] theorem putLive_flt (s : State) (off : Nat) (v : W32) : (putLive off v s).flt = s.flt := rfl
@[simp] theorem putLive_posts (s : State) (off : Nat) (v : W32) : (putLive off v s).posts = s.posts := rfl
@[simp] theorem putLive_held (s : State) (off : Nat) (v : W32) : (putLive off v s).held = s.held := rfl
@[simp] theorem putLive_pending (s : State) (off : Nat) (v : W32) : (putLive off v s).pending = s.pending := rfl
@[simp] theorem putLive_twin (s : State) (off : Nat) (v : W32) : (putLive off v s).twin = s.twin := rfl
@[simp] theorem putLive_boot (s : State) (off : Nat) (v : W32) : (putLive off v s).boot = s.boot := rfl


/-! ### Records and posts -/
@[simp] theorem enterRec_build (r : FRec) (s : State) : (enterRec r s).build = s.build := by
  unfold enterRec; (repeat' split) <;> rfl
@[simp] theorem enterRec_beat (r : FRec) (s : State) : (enterRec r s).beat = s.beat := by
  unfold enterRec; (repeat' split) <;> rfl
@[simp] theorem enterRec_now (r : FRec) (s : State) : (enterRec r s).now = s.now := by
  unfold enterRec; (repeat' split) <;> rfl
@[simp] theorem enterRec_parts (r : FRec) (s : State) : (enterRec r s).parts = s.parts := by
  unfold enterRec; (repeat' split) <;> rfl
@[simp] theorem enterRec_cores_eq (r : FRec) (s : State) : (enterRec r s).cores = s.cores := by
  unfold enterRec; (repeat' split) <;> rfl
@[simp] theorem enterRec_spad (r : FRec) (s : State) : (enterRec r s).spad = s.spad := by
  unfold enterRec; (repeat' split) <;> rfl
@[simp] theorem enterRec_rows (r : FRec) (s : State) : (enterRec r s).rows = s.rows := by
  unfold enterRec; (repeat' split) <;> rfl
@[simp] theorem enterRec_stk (r : FRec) (s : State) : (enterRec r s).stk = s.stk := by
  unfold enterRec; (repeat' split) <;> rfl
@[simp] theorem enterRec_ext (r : FRec) (s : State) : (enterRec r s).ext = s.ext := by
  unfold enterRec; (repeat' split) <;> rfl
@[simp] theorem enterRec_host (r : FRec) (s : State) : (enterRec r s).host = s.host := by
  unfold enterRec; (repeat' split) <;> rfl
@[simp] theorem enterRec_ports (r : FRec) (s : State) : (enterRec r s).ports = s.ports := by
  unfold enterRec; (repeat' split) <;> rfl
@[simp] theorem enterRec_slots (r : FRec) (s : State) : (enterRec r s).slots = s.slots := by
  unfold enterRec; (repeat' split) <;> rfl
@[simp] theorem enterRec_posts (r : FRec) (s : State) : (enterRec r s).posts = s.posts := by
  unfold enterRec; (repeat' split) <;> rfl
@[simp] theorem enterRec_regs (r : FRec) (s : State) : (enterRec r s).regs = s.regs := by
  unfold enterRec; (repeat' split) <;> rfl
@[simp] theorem enterRec_held (r : FRec) (s : State) : (enterRec r s).held = s.held := by
  unfold enterRec; (repeat' split) <;> rfl
@[simp] theorem enterRec_pending (r : FRec) (s : State) : (enterRec r s).pending = s.pending := by
  unfold enterRec; (repeat' split) <;> rfl
@[simp] theorem enterRec_twin (r : FRec) (s : State) : (enterRec r s).twin = s.twin := by
  unfold enterRec; (repeat' split) <;> rfl
@[simp] theorem enterRec_boot (r : FRec) (s : State) : (enterRec r s).boot = s.boot := by
  unfold enterRec; (repeat' split) <;> rfl
@[simp] theorem note_build (s : State) (f : Flt) (p : Option Nat) : (note s f p).build = s.build := enterRec_build _ s
@[simp] theorem note_beat (s : State) (f : Flt) (p : Option Nat) : (note s f p).beat = s.beat := enterRec_beat _ s
@[simp] theorem note_now (s : State) (f : Flt) (p : Option Nat) : (note s f p).now = s.now := enterRec_now _ s
@[simp] theorem note_parts (s : State) (f : Flt) (p : Option Nat) : (note s f p).parts = s.parts := enterRec_parts _ s
@[simp] theorem note_cores (s : State) (f : Flt) (p : Option Nat) : (note s f p).cores = s.cores := enterRec_cores_eq _ s
@[simp] theorem note_spad (s : State) (f : Flt) (p : Option Nat) : (note s f p).spad = s.spad := enterRec_spad _ s
@[simp] theorem note_rows (s : State) (f : Flt) (p : Option Nat) : (note s f p).rows = s.rows := enterRec_rows _ s
@[simp] theorem note_stk (s : State) (f : Flt) (p : Option Nat) : (note s f p).stk = s.stk := enterRec_stk _ s
@[simp] theorem note_ext (s : State) (f : Flt) (p : Option Nat) : (note s f p).ext = s.ext := enterRec_ext _ s
@[simp] theorem note_host (s : State) (f : Flt) (p : Option Nat) : (note s f p).host = s.host := enterRec_host _ s
@[simp] theorem note_ports (s : State) (f : Flt) (p : Option Nat) : (note s f p).ports = s.ports := enterRec_ports _ s
@[simp] theorem note_slots (s : State) (f : Flt) (p : Option Nat) : (note s f p).slots = s.slots := enterRec_slots _ s
@[simp] theorem note_posts (s : State) (f : Flt) (p : Option Nat) : (note s f p).posts = s.posts := enterRec_posts _ s
@[simp] theorem note_regs (s : State) (f : Flt) (p : Option Nat) : (note s f p).regs = s.regs := enterRec_regs _ s
@[simp] theorem note_held (s : State) (f : Flt) (p : Option Nat) : (note s f p).held = s.held := enterRec_held _ s
@[simp] theorem note_pending (s : State) (f : Flt) (p : Option Nat) : (note s f p).pending = s.pending := enterRec_pending _ s
@[simp] theorem note_twin (s : State) (f : Flt) (p : Option Nat) : (note s f p).twin = s.twin := enterRec_twin _ s
@[simp] theorem note_boot (s : State) (f : Flt) (p : Option Nat) : (note s f p).boot = s.boot := enterRec_boot _ s
@[simp] theorem post_build (s : State) (p : Post) : (post s p).build = s.build := by unfold post; split <;> rfl
@[simp] theorem post_beat (s : State) (p : Post) : (post s p).beat = s.beat := by unfold post; split <;> rfl
@[simp] theorem post_now (s : State) (p : Post) : (post s p).now = s.now := by unfold post; split <;> rfl
@[simp] theorem post_parts (s : State) (p : Post) : (post s p).parts = s.parts := by unfold post; split <;> rfl
@[simp] theorem post_cores (s : State) (p : Post) : (post s p).cores = s.cores := by unfold post; split <;> rfl
@[simp] theorem post_spad (s : State) (p : Post) : (post s p).spad = s.spad := by unfold post; split <;> rfl
@[simp] theorem post_rows (s : State) (p : Post) : (post s p).rows = s.rows := by unfold post; split <;> rfl
@[simp] theorem post_stk (s : State) (p : Post) : (post s p).stk = s.stk := by unfold post; split <;> rfl
@[simp] theorem post_ext (s : State) (p : Post) : (post s p).ext = s.ext := by unfold post; split <;> rfl
@[simp] theorem post_host (s : State) (p : Post) : (post s p).host = s.host := by unfold post; split <;> rfl
@[simp] theorem post_ports (s : State) (p : Post) : (post s p).ports = s.ports := by unfold post; split <;> rfl
@[simp] theorem post_slots (s : State) (p : Post) : (post s p).slots = s.slots := by unfold post; split <;> rfl
@[simp] theorem post_flt (s : State) (p : Post) : (post s p).flt = s.flt := by unfold post; split <;> rfl
@[simp] theorem post_regs (s : State) (p : Post) : (post s p).regs = s.regs := by unfold post; split <;> rfl
@[simp] theorem post_held (s : State) (p : Post) : (post s p).held = s.held := by unfold post; split <;> rfl
@[simp] theorem post_pending (s : State) (p : Post) : (post s p).pending = s.pending := by unfold post; split <;> rfl
@[simp] theorem post_twin (s : State) (p : Post) : (post s p).twin = s.twin := by unfold post; split <;> rfl
@[simp] theorem post_boot (s : State) (p : Post) : (post s p).boot = s.boot := by unfold post; split <;> rfl

/-- What leaves for elsewhere than the host is always sent. -/
theorem post_out (s : State) (p : Post) (h : toHost p = false) : post s p = { s with posts := s.posts ++ [p] } := by
  simp [post, h]

end Sys2Proof.Machine
end

