-- ==== Sys2Proof/Machine/Dvis.lean ====
section
/-!
DEFINITION. Dvis.lean: DVIS programs as they stand before they are baked: the instruction words and their refusals (R185 to R197, R200,
R205, R207, R210 to R212, Tables 8.1 to 8.9), the container header (R216 to R219) and the relocations (R220, R221). Springen, on the
host, reads them; the block never does (R217, log 37): its commands are the instructions that these words spell.
-/

namespace Sys2Proof.Machine

/-! ### Words (R185, R186) -/

/-- One DVIS instruction: word 0 and its extension words (Tables 8.1, 8.2). -/
structure DWords where
  w    : Nat
  arg1 : Option Nat
  arg2 : Option Nat
  ext  : Ext
deriving DecidableEq, Repr

/-- COND of Table 8.3; none where a reserved bit is set. -/
def condOf (v : Nat) : Option Cond :=
  if bitsOf v 32 18 != 0 then none else some ⟨bitsOf v 54 6, BitVec.ofNat 4 (bitsOf v 50 4), BitVec.ofNat 32 v⟩

/-- SIGNAL of Table 8.3. -/
def sigOf (v : Nat) : Option Sig := if bitsOf v 32 22 != 0 then none else some ⟨bitsOf v 54 6, BitVec.ofNat 32 v⟩

/-- CHECK of Table 8.3. -/
def chkOf (v : Nat) : Option Chk :=
  if bitsOf v 19 41 != 0 then none else some ⟨BitVec.ofNat 3 (bitsOf v 16 3), BitVec.ofNat 16 v⟩

/-- R186: one extension word after words of kinds up to `last`: each kind at most once, in ascending order. -/
def extWord (last : Nat) (v : Nat) (d : DWords) : Option (Nat × DWords) :=
  let k := bitsOf v 60 4
  if k ≤ last then none
  else match k with
  | 1 => some (k, { d with arg1 := some (bitsOf v 0 60) })
  | 2 => some (k, { d with arg2 := some (bitsOf v 0 60) })
  | 4 => (condOf v).map (fun c => (k, { d with ext := { d.ext with cond := some c } }))
  | 5 => (sigOf v).map (fun g => (k, { d with ext := { d.ext with sig := some g } }))
  | 6 => (chkOf v).map (fun c => (k, { d with ext := { d.ext with chk := some c } }))
  | _ => none

/-- The extension words of one instruction. -/
def extWords : Nat → DWords → List W64 → Option DWords
  | _, d, [] => some d
  | last, d, v :: vs => (extWord last v.toNat d).bind (fun r => extWords r.1 r.2 vs)

/-- R185: the extension words that word 0 announces; none where NEXT is not zero without EXT, or announces four. -/
def extCount (w : Nat) : Option Nat :=
  if bitsOf w 55 1 == 0 then (if bitsOf w 53 2 == 0 then some 0 else none)
  else if bitsOf w 53 2 == 3 then none else some (bitsOf w 53 2 + 1)

/-- R185: the first instruction of a stream of words, and the words after it. -/
def splitDvis : List W64 → Option (DWords × List W64)
  | [] => none
  | v :: vs => (extCount v.toNat).bind fun n =>
    if vs.length < n then none
    else (extWords 0 ⟨v.toNat, none, none, ⟨none, none, none⟩⟩ (vs.take n)).map (fun d => (d, vs.drop n))

/-! ### The opcode map (R193) and the used bits of each layout (Tables 8.6 to 8.9) -/

/-- A mask of bits [hi : lo]. -/
def bitMask (hi lo : Nat) : Nat := 2 ^ (hi + 1) - 2 ^ lo

/-- One opcode: its stream (none: every stream), the used bits of MOD, of OPS, of ARG1 and ARG2, and whether COND, SIGNAL and
CHECK are permitted. -/
structure DRow where
  opc  : Nat
  strm : Option Strm
  mods : Nat
  ops  : Nat
  a1   : Nat
  a2   : Nat
  cond : Bool
  sig  : Bool
  chk  : Bool
deriving DecidableEq, Repr

/-- Table 8.6. Bits [28:5] of LAUNCH are placement and zero in DVIS (R190). -/
def dvisCommon : List DRow :=
  [⟨0x01, none, 7, bitMask 47 0, bitMask 47 0, 0, false, false, false⟩,
   ⟨0x02, none, 3, bitMask 47 0, bitMask 47 0, 0, false, false, false⟩,
   ⟨0x03, none, 3, bitMask 47 0, bitMask 47 0, 0, false, false, false⟩,
   ⟨0x04, none, 0, bitMask 47 40 + bitMask 31 0, 0, 0, false, false, false⟩,
   ⟨0x05, none, 0, 0, 0, 0, false, false, false⟩,
   ⟨0x06, none, 1, bitMask 47 44 + bitMask 37 0, 0, 0, false, false, false⟩,
   ⟨0x07, none, 0, bitMask 47 47 + bitMask 45 40 + bitMask 37 0, 0, 0, false, false, false⟩,
   ⟨0x08, none, 0, bitMask 1 0, 0, 0, false, false, false⟩,
   ⟨0x10, some .control, 0, bitMask 47 29, bitMask 19 0, 0, false, true, false⟩,
   ⟨0x11, some .control, 0, bitMask 47 41 + bitMask 39 30, bitMask 31 0, 0, false, false, false⟩,
   ⟨0x12, some .control, 0, bitMask 2 0, 0, 0, false, false, false⟩,
   ⟨0x13, some .control, 0, 0, 0, 0, false, false, false⟩,
   ⟨0x14, some .control, 0, bitMask 44 32, 0, 0, false, false, false⟩,
   ⟨0x15, some .control, 0, bitMask 39 32, 0, 0, false, false, false⟩,
   ⟨0x16, some .control, 0, bitMask 31 0, 0, 0, false, false, false⟩]

/-- Table 8.7. -/
def dvisMove : List DRow :=
  [⟨0x20, some .load, 0, bitMask 47 0, 0, 0, false, false, false⟩, ⟨0x21, some .load, 0, bitMask 47 0, 0, 0, false, false, false⟩,
   ⟨0x22, some .load, 0, bitMask 47 0, 0, 0, false, false, false⟩,
   ⟨0x30, some .store, 1, bitMask 47 35 + bitMask 31 0, 0, 0, false, false, false⟩,
   ⟨0x31, some .store, 1, bitMask 47 35 + bitMask 31 0, 0, 0, false, false, false⟩,
   ⟨0x32, some .store, 1, bitMask 47 35, 0, 0, false, false, false⟩,
   ⟨0x40, some .move, 0, bitMask 47 40 + bitMask 15 0, 0, 0, false, true, true⟩,
   ⟨0x41, some .move, 0, bitMask 47 40 + bitMask 31 0, 0, 0, false, false, true⟩,
   ⟨0x42, some .move, 0, bitMask 47 44 + bitMask 16 0, bitMask 31 0, 0, false, false, false⟩,
   ⟨0x43, some .move, 0, bitMask 47 40 + bitMask 16 0, 0, 0, false, false, true⟩]

/-- Tables 8.8 and 8.9. -/
def dvisArray : List DRow :=
  [⟨0x50, some .matrix, 0, bitMask 47 28, bitMask 59 44, 0, true, false, true⟩,
   ⟨0x51, some .matrix, 3, bitMask 47 22, bitMask 59 44 + bitMask 39 0, bitMask 59 18, true, true, true⟩,
   ⟨0x52, some .matrix, 15, bitMask 47 1, bitMask 59 44 + bitMask 31 0, 0, true, true, false⟩,
   ⟨0x53, some .matrix, 3, bitMask 47 44 + bitMask 39 18, 0, 0, true, true, true⟩,
   ⟨0x54, some .matrix, 1, bitMask 47 7, 0, 0, true, true, true⟩,
   ⟨0x55, some .matrix, 1, bitMask 39 18, 0, 0, false, false, false⟩,
   ⟨0x60, some .strudel, 3, bitMask 47 2, bitMask 59 31, 0, true, false, true⟩,
   ⟨0x61, some .strudel, 7, bitMask 47 40 + bitMask 29 1, bitMask 59 41, 0, true, true, false⟩]

/-- R207 and R210 to R212: the Glaze layouts. -/
def dvisGlaze : List DRow :=
  ([0x70, 0x71, 0x72, 0x73, 0x76, 0x78, 0x79, 0x7A, 0x7B, 0x7C, 0x7D].map (fun o =>
    (⟨o, some .glaze, 0, bitMask 47 0, 0, 0, true, true, true⟩ : DRow)))
  ++ [⟨0x74, some .glaze, 7, bitMask 47 40 + bitMask 34 0, 0, 0, true, true, true⟩,
      ⟨0x75, some .glaze, 31, bitMask 47 36 + bitMask 29 0, 0, 0, true, true, true⟩,
      ⟨0x7F, some .glaze, 0, bitMask 47 25 + bitMask 23 0, 0, 0, true, true, true⟩]

/-- Table 8.5. -/
def dvisRows : List DRow := dvisCommon ++ dvisMove ++ dvisArray ++ dvisGlaze

/-- No bit of `v` outside the mask. -/
def within (v mask : Nat) : Bool := v &&& mask == v

/-- R186: whether the operand table requires ARG1: a 48-bit immediate source, a CMP immediate, or a layout that has the word. -/
def wantsArg1 (r : DRow) (w : Nat) : Bool :=
  if r.opc ≤ 3 then bitsOf w 36 4 == 14
  else if r.opc == 0x11 then bitsOf w 41 2 == 1
  else r.a1 != 0

/-- R186: whether it requires ARG2: an MMA whose output is FUSED or SPILL, or with CARRIED set. -/
def wantsArg2 (r : DRow) (w : Nat) : Bool := r.opc == 0x51 && (bitsOf w 25 2 != 0 || bitsOf w 49 1 == 1)

/-- R188: opcode, stream, reserved bits and extension words are in order; the row. -/
def dvisRow (k : Strm) (d : DWords) : Option DRow :=
  (dvisRows.find? (fun r => r.opc == bitsOf d.w 56 8)).filter fun r =>
    r.strm.all (· == k) && within (bitsOf d.w 48 5) r.mods && within (bitsOf d.w 0 48) r.ops
      && (d.arg1.isSome == wantsArg1 r d.w) && within (d.arg1.getD 0) r.a1
      && (d.arg2.isSome == wantsArg2 r d.w) && within (d.arg2.getD 0) r.a2
      && (r.cond || d.ext.cond.isNone) && (r.sig || d.ext.sig.isNone) && (r.chk || d.ext.chk.isNone)

/-! ### Operands -/

/-- Table 8.4 and R191: the register a class and an index name in a stream. -/
def dvisReg (k : Strm) (cls idx lvl : Nat) : Option Reg :=
  if k == .control then
    (match cls with
    | 0 => some (.s idx)
    | 1 => if idx < 8 then some (.l idx) else none
    | 2 => if idx < 4 then some (.sd idx) else none
    | 3 => if idx < 8 then some (.an idx) else none
    | _ => none)
  else
    (match cls with
    | 8 => some (.a idx)
    | 9 => some (.d idx lvl)
    | 10 => if idx < 4 then some (.p idx) else none
    | _ => none)

/-- Whether a register is a stride, which alone uses the loop level of MOD. -/
def isStride : Reg → Bool
  | .d _ _ => true
  | _ => false

/-- Whether a register is an SD register. -/
def isSeed : Reg → Bool
  | .sd _ => true
  | _ => false

/-- SET, ADD and SUB (Table 8.6, R195): destination, source and HI. -/
def dvisSet (k : Strm) (isSet : Bool) (d : DWords) : Option (Reg × Src × Bool) := do
  let lvl := bitsOf d.w 48 2
  let hi := bitsOf d.w 50 1 == 1
  let dst ← dvisReg k (bitsOf d.w 44 4) (bitsOf d.w 40 4) lvl
  let src ← (match bitsOf d.w 36 4 with
    | 14 => some (Src.imm48 (BitVec.ofNat 48 (d.arg1.getD 0)))
    | 15 => some (Src.imm32 (BitVec.ofNat 32 d.w))
    | c => (dvisReg k c (bitsOf d.w 32 4) lvl).map Src.reg)
  let wide := match src with | .imm48 _ => true | _ => false
  let srcD := match src with | .reg r => isStride r | _ => false
  let isA := match dst with | .a _ => true | _ => false
  if (wide && !(isSet && isA)) || (!isSet && isSeed dst) || (hi && !isSeed dst) || (lvl != 0 && !isStride dst && !srcD)
  then none else some (dst, src, hi)

/-- The mode field of Table 8.8. -/
def dvisMode : Nat → Option AMode
  | 0 => some .torte | 1 => some .tier | 2 => some .solo | _ => none

/-- The output field of Table 8.8. -/
def dvisOut : Nat → Option OMode
  | 0 => some .acc | 1 => some .fused | 2 => some .spill | _ => none

/-- The engine field of LAUNCH (Table 8.6). -/
def dvisEngine : Nat → Option Strm
  | 0 => some .load | 1 => some .store | 2 => some .move | 3 => some .matrix | 4 => some .strudel | 5 => some .glaze
  | _ => none

/-- A format code that is not reserved (Table 2.1). -/
def fmtCode (f : Nat) : Option Nat := if f == 15 then none else some f

/-- The common layouts of Table 8.6. -/
def dvisCommonInstr (i : Iss) (d : DWords) : Option Instr :=
  let w := d.w
  match bitsOf w 56 8 with
  | 0x01 => (dvisSet i.strm true d).map (fun r => .set i r.1 r.2.1 r.2.2)
  | 0x02 => (dvisSet i.strm false d).map (fun r => .add i r.1 r.2.1)
  | 0x03 => (dvisSet i.strm false d).map (fun r => .sub i r.1 r.2.1)
  | 0x04 =>
    let c := bitsOf w 44 4
    if i.strm == .control && 1 < c then none
    else if i.strm != .control && c != 10 then none
    else (dvisReg i.strm c (bitsOf w 40 4) 0).map (fun r => .loop i r (BitVec.ofNat 32 w))
  | 0x05 => some (.endloop i)
  | 0x06 => if i.strm == .control && bitsOf w 44 4 != 0 then none
    else some (.waitsc i (if bitsOf w 48 1 == 1 then some .other else none) ⟨bitsOf w 32 6, BitVec.ofNat 4 (bitsOf w 44 4), BitVec.ofNat 32 w⟩)
  | 0x07 => some (.signalsc i (if bitsOf w 47 1 == 1 then some (bitsOf w 40 6) else none) ⟨bitsOf w 32 6, BitVec.ofNat 32 w⟩)
  | 0x08 => some (.realign i (bitsOf w 0 2))
  | 0x10 => (dvisEngine (bitsOf w 45 3)).bind fun e =>
      let a := d.arg1.getD 0
      if d.ext.sig.any (fun g => 65536 ≤ g.amt.toNat) then none
      else some (.launch i e (bitsOf w 29 16) 0 0
        ((List.range 4).map (fun n => if bitsOf a (16 + n) 1 == 1 then some (bitsOf a (4 * n) 4) else none)) d.ext.sig)
  | 0x11 =>
    let y := bitsOf w 30 6
    let c := bitsOf w 43 3
    if c == 7 then none
    else (match bitsOf w 41 2 with
      | 0 => if y < 16 then some (CmpSrc.s y) else none
      | 1 => some (CmpSrc.imm (BitVec.ofNat 32 (d.arg1.getD 0)))
      | 2 => some (CmpSrc.sc y)
      | _ => none).map (fun s => .cmp i (bitsOf w 46 2) c (bitsOf w 36 4) s)
  | 0x12 => some (.skipif i (bitsOf w 2 1 == 1) (bitsOf w 0 2) false)
  | 0x13 => some (.segend i)
  | 0x14 => some (.mbxsend i (bitsOf w 40 5) (bitsOf w 36 4) (bitsOf w 32 4))
  | 0x15 => some (.beatread i (bitsOf w 36 4) (bitsOf w 32 4))
  | 0x16 => some (.halt i (BitVec.ofNat 32 w))
  | _ => none

/-- The layouts of Table 8.7; a zero length or count is refused (R197). -/
def dvisMoveInstr (i : Iss) (d : DWords) : Option Instr :=
  let w := d.w
  let a := bitsOf w 44 4
  let b := bitsOf w 40 4
  let p := bitsOf w 38 2
  let len := bitsOf w 0 32
  let ld : LdOps := ⟨a, b, p, bitsOf w 32 6, len⟩
  let st : StOps := ⟨bitsOf w 48 1 == 1, a, b, p, bitsOf w 35 3, len⟩
  let nz (n : Nat) (x : Instr) : Option Instr := if n == 0 then none else some x
  match bitsOf w 56 8 with
  | 0x20 => nz len (.lds i ld)
  | 0x21 => nz len (.ldh i ld)
  | 0x22 => nz len (.ldw i ld)
  | 0x30 => nz len (.sts i st)
  | 0x31 => nz len (.sth i st)
  | 0x32 => if bitsOf w 48 1 == 0 then (if a == 0 then some (.digestOpen i b p (bitsOf w 35 3)) else none)
    else if b == 0 && p == 0 then some (.digestClose i a (bitsOf w 35 3)) else none
  | 0x40 => nz (bitsOf w 0 16) (.mvm i a b (bitsOf w 0 16) d.ext)
  | 0x41 => nz len (.mvb i a b len d.ext)
  | 0x42 => if 65536 < bitsOf w 0 17 then none else nz (bitsOf w 0 17) (.fillc i a (bitsOf w 0 17) (BitVec.ofNat 32 (d.arg1.getD 0)))
  | 0x43 => nz (bitsOf w 0 17) (.copyr i a b (bitsOf w 0 17) d.ext)
  | _ => none

/-- The layouts of Tables 8.8 and 8.9. What a HOLD loads comes from the MMA it binds to (R201; dvisBind). -/
def dvisArrayInstr (i : Iss) (d : DWords) : Option Instr :=
  let w := d.w
  let a := bitsOf w 44 4
  let b := bitsOf w 40 4
  let u := bitsOf w 35 5
  let n := bitsOf w 30 5 + 1
  let x := d.arg1.getD 0
  let y := d.arg2.getD 0
  match bitsOf w 56 8 with
  | 0x50 => (dvisMode (bitsOf w 28 2)).map (fun m => .hold i ⟨a, b, u, n, m, bitsOf x 44 16, 0, 0, 1, 0, 0⟩ d.ext)
  | 0x51 => do
    let m ← dvisMode (bitsOf w 28 2)
    let o ← dvisOut (bitsOf w 25 2)
    let f ← fmtCode (bitsOf y 48 4)
    some (.mma i { clear := bitsOf w 48 1 == 1, carried := bitsOf w 49 1 == 1, aBase := a, aDesc := b, unit := u, units := n,
                   mode := m, aHeld := bitsOf w 27 1 == 1, out := o, anchor := bitsOf w 22 3, pitch := bitsOf x 44 16,
                   m := bitsOf x 28 12 + 1, n := bitsOf x 16 12 + 1, k := bitsOf x 0 16 + 1, aOut := bitsOf y 56 4,
                   aRec := bitsOf y 52 4, ofmt := f, oexp := BitVec.ofNat 8 (bitsOf y 40 8), stoch := bitsOf y 39 1 == 1,
                   seed := bitsOf y 37 2, pIdx := bitsOf y 35 2, close := bitsOf y 34 1 == 1, opitch := bitsOf y 18 16 } d.ext)
  | 0x52 => (fmtCode (bitsOf w 14 4)).map (fun f =>
      .drain i { clear := bitsOf w 48 1 == 1, carried := bitsOf w 49 1 == 1, close := bitsOf w 50 1 == 1, trans := bitsOf w 51 1 == 1,
                 aOut := a, aRec := b, wafer := u, wafers := n, e0 := bitsOf w 24 6, e1 := bitsOf w 18 6, ofmt := f,
                 oexp := BitVec.ofNat 8 (bitsOf w 6 8), stoch := bitsOf w 5 1 == 1, seed := bitsOf w 3 2, pIdx := bitsOf w 1 2,
                 opitch := bitsOf x 44 16, nt := BitVec.ofNat 32 x } d.ext)
  | 0x53 =>
    let o : SpillOps := ⟨a, u, n, bitsOf w 24 6, bitsOf w 18 6⟩
    (match bitsOf w 48 2 with
    | 0 => some (.spill i o d.ext)
    | 1 => some (.reload i o d.ext)
    | 2 => some (.accumulate i o d.ext)
    | _ => none)
  | 0x54 => do
    let fx ← fmtCode (bitsOf w 20 4)
    let fy ← fmtCode (bitsOf w 16 4)
    some (.ewm i ⟨bitsOf w 48 1 == 1, a, b, u, n, bitsOf w 24 6, fx, fy, bitsOf w 13 3, bitsOf w 7 6 + 1⟩ d.ext)
  | 0x55 =>
    let c := bitsOf w 22 12
    if c == 0 || 4032 < c then none
    else some (.meringue i { torte := bitsOf w 37 3, tortes := bitsOf w 34 3 + 1, cycles := c, mdens := bitsOf w 18 4,
                             follow := bitsOf w 48 1 == 1 })
  | 0x60 => some (.mvx i { clear := bitsOf w 48 1 == 1, carried := bitsOf w 49 1 == 1, aW := a, aX := b, aDW := bitsOf w 36 4,
                           aDX := bitsOf w 32 4, k := bitsOf w 16 16 + 1, nr := bitsOf w 5 11 + 1, nb := bitsOf w 2 3 + 1,
                           e0 := bitsOf x 54 6, anchor := bitsOf x 51 3, aRec := bitsOf x 47 4, xstride := bitsOf x 31 16 } d.ext)
  | 0x61 => (fmtCode (bitsOf w 14 4)).map (fun f =>
      .sdrain i { clear := bitsOf w 48 1 == 1, carried := bitsOf w 49 1 == 1, close := bitsOf w 50 1 == 1, aOut := a, aRec := b,
                  e0 := bitsOf w 24 6, e1 := bitsOf w 18 6, ofmt := f, oexp := BitVec.ofNat 8 (bitsOf w 6 8),
                  stoch := bitsOf w 5 1 == 1, seed := bitsOf w 3 2, pIdx := bitsOf w 1 2, opitch := bitsOf x 44 16,
                  nb := bitsOf x 41 3 + 1 } d.ext)
  | _ => none

/-- R207: the sources that an element-wise instruction does not use. -/
def dvisArity (opc : Nat) : Nat :=
  if opc == 0x72 then 3 else if opc == 0x70 || opc == 0x71 || opc == 0x73 || opc == 0x76 then 2 else 1

/-- The element-wise layout of R207: unused source fields are zero. -/
def dvisGz (d : DWords) : Option GzOps := do
  let f ← fmtCode (bitsOf d.w 28 4)
  let g ← fmtCode (bitsOf d.w 24 4)
  let n := dvisArity (bitsOf d.w 56 8)
  if (n < 3 && bitsOf d.w 32 4 != 0) || (n < 2 && bitsOf d.w 36 4 != 0) then none
  else some ⟨bitsOf d.w 44 4, bitsOf d.w 40 4, bitsOf d.w 36 4, bitsOf d.w 32 4, f, g, bitsOf d.w 0 24 + 1⟩

/-- The Glaze instructions (R207, R210 to R212). What a slot's fabric answers to an XOP is no part of its word. -/
def dvisGlazeInstr (i : Iss) (d : DWords) : Option Instr :=
  let w := d.w
  let gz (f : GzOps → Instr) : Option Instr := (dvisGz d).map f
  match bitsOf w 56 8 with
  | 0x70 => gz (fun o => .vadd i o d.ext)
  | 0x71 => gz (fun o => .vmul i o d.ext)
  | 0x72 => gz (fun o => .vfma i o d.ext)
  | 0x73 => gz (fun o => .vmax i o d.ext)
  | 0x74 => do
    let f ← fmtCode (bitsOf w 28 4)
    let g ← fmtCode (bitsOf w 24 4)
    let o : VsOps := ⟨bitsOf w 50 1 == 1, bitsOf w 44 4, bitsOf w 40 4, bitsOf w 32 3, f, g, bitsOf w 0 24 + 1⟩
    let m := bitsOf w 48 2
    if m != 0 && bitsOf w 0 24 != 0 then none
    else some (if m == 0 then .vsumxAdd i o d.ext else if m == 1 then .vsumxRead i o d.ext
      else if m == 2 then .vsumxSave i o d.ext else .vsumxMerge i o d.ext)
  | 0x75 => if 1 < bitsOf w 48 2 then none else (fmtCode (bitsOf w 24 4)).map (fun f =>
      .vquant i { mx := bitsOf w 48 2 == 1, stoch := bitsOf w 50 1 == 1, seed := bitsOf w 51 2, aDst := bitsOf w 44 4,
                  aSrc := bitsOf w 40 4, aDesc := bitsOf w 36 4, p := bitsOf w 28 2, sfmt := f, n := bitsOf w 0 24 + 1 } d.ext)
  | 0x76 => gz (fun o => .vdeq i o d.ext)
  | 0x78 => gz (fun o => .vexp2 i o d.ext)
  | 0x79 => gz (fun o => .vlog2 i o d.ext)
  | 0x7A => gz (fun o => .vrsqrt i o d.ext)
  | 0x7B => gz (fun o => .vrecip i o d.ext)
  | 0x7C => gz (fun o => .vtanh i o d.ext)
  | 0x7D => gz (fun o => .vsig i o d.ext)
  | 0x7F => some (.xop i ⟨bitsOf w 44 4, bitsOf w 40 4, bitsOf w 37 3, bitsOf w 25 12, bitsOf w 0 24 + 1, []⟩ d.ext)
  | _ => none

/-- R185 to R196: the instruction that DVIS words spell in a stream; none where Springen refuses it (R188, R190). -/
def dvisInstr (i : Iss) (d : DWords) : Option Instr :=
  (dvisRow i.strm d).bind fun r =>
    if r.opc < 0x20 then dvisCommonInstr i d
    else if r.opc < 0x50 then dvisMoveInstr i d
    else if r.opc < 0x70 then dvisArrayInstr i d
    else dvisGlazeInstr i d

/-! ### Streams -/

/-- The instructions of a stream, by count of words; until Springen places them each carries its DVIS instruction index (R189) for its PC. -/
def dvisStream (core : Nat) (k : Strm) : Nat → Nat → List W64 → Option (List Instr)
  | 0, _, ws => if ws.isEmpty then some [] else none
  | n + 1, ix, ws => if ws.isEmpty then some []
    else (splitDvis ws).bind fun r =>
      (dvisInstr ⟨core, k, 0, BitVec.ofNat 32 ix, false⟩ r.1).bind fun c =>
        (dvisStream core k n (ix + 1) r.2).map (fun cs => c :: cs)

/-- R166: what may not follow a SKIPIF. -/
def notAfterSkip : Instr → Bool
  | .loop .. | .endloop .. | .realign .. | .segend .. | .skipif .. => true
  | _ => false

/-- R166, R188: a SKIPIF is followed by an instruction that may be skipped. -/
def skipsOk : List Instr → Bool
  | .skipif _ _ _ _ :: b :: r => !notAfterSkip b && skipsOk (b :: r)
  | _ :: r => skipsOk r
  | [] => true

/-- R201: the next MMA on the mode and units of a HOLD. -/
def bindOf (o : HoldOps) : List Instr → Option MmaOps
  | .mma _ m _ :: r => if m.mode == o.mode && m.unit == o.unit && m.units == o.units then some m else bindOf o r
  | _ :: r => bindOf o r
  | [] => none

/-- R201, R102: the shadow loads of a HOLD that binds to an MMA, in the order of the fold: one for each round of panels over the units, streamed block,
held chunk and unit. `four`: both operands are 4-bit formats, which their descriptors say (R102). -/
def holdLoads (b : Build) (four : Bool) (o : HoldOps) (m : MmaOps) : List HoldOps :=
  let n := (unitList o.mode o.unit o.units).length
  let f := foldOf b m.mode (if m.aHeld then m.n else m.m) (if m.aHeld then m.m else m.n) m.k four false
  (List.range ((f.np + n - 1) / n)).flatMap (fun r => (List.range f.ns).flatMap (fun _ => (List.range f.nk).flatMap (fun kc =>
    ((List.range n).filter (fun ui => r * n + ui < f.np)).map (fun ui =>
      { o with k := m.k, chans := f.hx, kg := f.kg, panel := r * n + ui, chunk := kc }))))

/-- R201: every HOLD of a stream as the shadow loads of the MMA it binds to, each with the HOLD's instruction index. `fours` says of each HOLD in turn
whether both operands of that MMA are 4-bit formats. -/
def dvisBind (b : Build) : List Bool → List Instr → List Instr
  | fours, .hold i o x :: r =>
    (match bindOf o r with
    | some m => (holdLoads b (fours.headD false) o m).map (fun o => .hold i o x)
    | none => [.hold i o x]) ++ dvisBind b fours.tail r
  | fours, c :: r => c :: dvisBind b fours r
  | _, [] => []

/-- R178: an open-mode WAITSC with what follows it in its stream. -/
def dvisWaits : List Instr → List Instr
  | .waitsc i (some _) c :: r =>
    .waitsc i (some (match r with
      | .realign _ _ :: _ => .realign
      | .segend _ :: _ => .segend
      | _ => .other)) c :: dvisWaits r
  | c :: r => c :: dvisWaits r
  | [] => []

/-- The instructions of one stream of a program, or nothing where it is refused. -/
def dvisProgram (b : Build) (core : Nat) (k : Strm) (fours : List Bool) (ws : List W64) : Option (List Instr) :=
  ((dvisStream core k ws.length 0 ws).filter skipsOk).map (fun cs => dvisBind b fours (dvisWaits cs))

/-! ### The container (R216 to R219) -/

/-- The header of a DVIS container (Table 9.1). -/
structure DHeader where
  minor    : Nat
  major    : Nat
  grid     : Bool
  countset : W64
  nseg     : Nat
  nrel     : Nat
  offs     : List Nat
  length   : Nat
deriving DecidableEq, Repr

/-- R216: the header of a container, or nothing where MAGIC is wrong, a reserved field is not zero, an offset lies beyond LENGTH, or
the relocation table overlaps the header, another section's start or the end. -/
def dvisHeader (bs : List Byte) : Option DHeader :=
  let v := leNat (bs.take 128)
  let rel := bitsOf v 256 64
  let nrel := bitsOf v 160 32
  let offs := [bitsOf v 192 64, rel, bitsOf v 320 64, bitsOf v 384 64]
  let len := bitsOf v 448 64
  if bs.length < 128 || bitsOf v 0 32 != 0x53495644 || bitsOf v 49 15 != 0 || bitsOf v 512 512 != 0 || len != bs.length
      || offs.any (fun o => o < 128 || len < o) || len < rel + 16 * nrel
      || [bitsOf v 192 64, bitsOf v 320 64, bitsOf v 384 64].any (fun o => rel ≤ o && o < rel + 16 * nrel) then none
  else some ⟨bitsOf v 32 8, bitsOf v 40 8, bitsOf v 48 1 == 1, BitVec.ofNat 64 (bitsOf v 64 64), bitsOf v 128 32, nrel, offs, len⟩

/-- R217, R219, Table 9.1: Springen of DVIS 1.`m` bakes the container for `n` cores. -/
def dvisBakes (h : DHeader) (m n : Nat) : Bool :=
  h.major == 1 && h.minor ≤ m && 1 ≤ n && n ≤ 64 && h.countset.getLsbD (n - 1)
    && (!h.grid || ((List.range 64).filter (fun i => h.countset.getLsbD i)).length == 1)

/-- R218: the program digest and the program identifier of a container. -/
def progDigest (bs : List Byte) : BitVec 256 := sha256 bs

/-- R218: bytes 0 to 7 of the digest, little-endian. -/
def progId (bs : List Byte) : W64 := BitVec.ofNat 64 (leNat ((digBytes (progDigest bs)).take 8))

/-! ### Relocation (R220, R221) -/

/-- A relocation entry (Table 9.2). -/
structure Reloc where
  strm  : Nat
  arg1  : Bool
  kind  : Nat
  score : Nat
  index : Nat
  mul   : Int
  add   : Int
deriving DecidableEq, Repr

/-- Table 9.2: the entry of 16 bytes; none where a reserved bit is set. -/
def relocOf (bs : List Byte) : Option Reloc :=
  let v := leNat bs
  if bs.length != 16 || bitsOf v 6 2 != 0 || bitsOf v 14 18 != 0 || bitsOf v 0 3 == 7 then none
  else some ⟨bitsOf v 0 3, bitsOf v 3 1 == 1, bitsOf v 4 2, bitsOf v 8 6, bitsOf v 32 32, signed 32 (bitsOf v 64 32),
    signed 32 (bitsOf v 96 32)⟩

/-- R220: the constant of KIND for core index `core` of `n` cores in a rectangle of `w` columns and `h` rows. -/
def relocConst (kind n core w h : Nat) : Nat :=
  match kind with | 0 => n | 1 => core | 2 => w | _ => h

/-- R220: a source with the relocated immediate; none where the field named is not its immediate. -/
def relocSrc (r : Reloc) (k : Nat) (src : Src) : Option Src :=
  match src, r.arg1 with
  | .imm32 _, false => some (.imm32 (BitVec.ofInt 32 (r.mul * k + r.add)))
  | .imm48 _, true => some (.imm48 (BitVec.ofInt 48 (r.mul * k + r.add)))
  | _, _ => none

/-- R220: one relocation of an instruction (log 37: the immediates are those of SET, ADD, SUB and CMP). -/
def relocInstr (r : Reloc) (k : Nat) : Instr → Option Instr
  | .set i d s hi => (relocSrc r k s).map (fun s => .set i d s hi)
  | .add i d s => (relocSrc r k s).map (fun s => .add i d s)
  | .sub i d s => (relocSrc r k s).map (fun s => .sub i d s)
  | .cmp i f c x (.imm _) => if r.arg1 then some (.cmp i f c x (.imm (BitVec.ofInt 32 (r.mul * k + r.add)))) else none
  | _ => none

/-- R220: one relocation of a stream. -/
def relocStream (r : Reloc) (k : Nat) (cs : List Instr) : Option (List Instr) :=
  (cs[r.index]?).bind fun c => (relocInstr r k c).map (fun c' => cs.set r.index c')

/-- R221: the registers that hold a relocated value after one instruction; none where it reaches an AN or SD register. `at_` are
the indices of relocated instructions. -/
def followOne (at_ : List Nat) (ts : List Reg) (n : Nat) (c : Instr) : Option (List Reg) :=
  let mark (d : Reg) (t : Bool) : Option (List Reg) :=
    let bad := match d with | .sd _ | .an _ => true | _ => false
    if t && bad then none else some (if t then d :: ts else ts.filter (fun x => x != d))
  let held (s : Src) : Bool := at_.contains n || (match s with | .reg x => ts.contains x | _ => false)
  match c with
  | .set _ d s _ => mark d (held s)
  | .add _ d s => mark d (held s || ts.contains d)
  | .sub _ d s => mark d (held s || ts.contains d)
  | _ => some ts

/-- R221: a stream whose relocated values stay away from the AN and SD registers. -/
def followOk (at_ : List Nat) (cs : List Instr) : Bool :=
  (cs.zipIdx.foldl (fun (ts : Option (List Reg)) x => ts.bind (fun ts => followOne at_ ts x.2 x.1)) (some [])).isSome

end Sys2Proof.Machine
end

