-- ==== Sys2Proof/Tests/Slice0.lean ====
section
/-!
SUPPORT. Tests/Slice0.lean: ill-formed commands that WellFormed refuses, worked examples of the specification, and for every statement of
Obligations.lean one small state on which its hypotheses hold together and the command does what the statement says.
-/

set_option Elab.async false

namespace Sys2Proof.Tests

open Sys2Proof.Machine

/-! ### Small states -/

/-- A build small enough to look at: four cores, one stack, two Braid ports, two slots. -/
def tiny : Build :=
  { ncore := 4, ntorte := 8, spadKib := 2048, nstack := 1, nbraid := 2, twin := true, nslot := 2, b0 := false, stkGran := 16384,
    wlen := [16, 16], frmu := 1, tstopd := 105, tstops := 95 }

/-- Segment declarations: one realign group of the control stream of core 0, one counter. -/
def decl0 : SegDecl :=
  { boff := none, l := [], an := [], sc := [], groups := [⟨2, 8, [(0, .control)], [(0, 5, 0)]⟩], guards := [], mdens := 0,
    secs := [⟨0, .matrix, 4, 0, 0, 0, 0, 0⟩], tables := [] }

/-- A Segment that runs since Beat 0. -/
def seg0 : Seg :=
  { q := 3, seq := 0, idx := 0, beat := 0, start := 0, ctx := 1, progid := 9, prec := 0, limit := 100, epoch := 0, decl := decl0,
    objs := [], taint := false, linked := false, cnt := zeroCounts, later := [], ends := [], bulk := none, roots := [], abort := none, status := 0 }

/-- A core of partition 0 whose engines run a block, with a location map of its control code and four blocks of matrix code. -/
def core0 : Core :=
  { emptyCore with holder := some 0, code := [⟨0, 0, [], 0, [⟨0, 3, 0, false⟩, ⟨16, 7, 0, false⟩, ⟨20, 9, 0, true⟩]⟩, ⟨4, 4, [], 0, []⟩],
                            strm := [1, 2, 3, 4, 5, 6].map (fun k => (k, { idleStrm with blk := some ⟨0, none, 0, false⟩ })) }

/-- Partition 0 with cores 0 and 1, the Segment above and a live Owner key. -/
def part0 : Part := { emptyPart with cores := [0, 1], width := 2, seg := some seg0, keySt := .live, key := 1 }

/-- A block in which partition 0 runs a Segment and the MC runs. -/
def d0 : State :=
  { State.resetOf tiny with
    parts := [(0, part0)], cores := [(0, core0), (1, core0)], mc := { mcReset with run := true }, cfgDone := true }

/-- An instruction of core 0. -/
def iss (k : Strm) (t : Nat) : Iss := ⟨0, k, t, 16, false⟩

/-- No extension words. -/
def noExt : Ext := ⟨none, none, none⟩

/-- The step goes on to a state with this property. -/
def nextIs (o : Host.Outcome State Fault Refusal) (p : State → Bool) : Bool :=
  match o with
  | .next u => p u
  | _ => false

/-- A stream of core 0 changed. -/
def strm0 (k : Strm) (f : StrmSt → StrmSt) : State := modStrm d0 0 k f

/-- The instruction has an issue point. -/
def issues (i : Iss) (c : Option Cond) (s : State) : Bool := (issuePoint i c s).isSome

/-! ### Registers and control -/

/-- SET, ADD, SUB: an AN register at its limit wraps in 16 bits; a seed register takes its high half. -/
theorem test_set_add_sub :
    issues (iss .control 5) none d0 = true ∧ regLegal .control (.an 2) = true ∧ srcLegal .control true (.an 2) (.imm32 0x12345) = true
    ∧ srcLegal .control false (.an 2) (.imm32 0xFFFFFFFF) = true
    ∧ nextIs (exec (.set (iss .control 5) (.an 2) (.imm32 0x12345) false) d0) (fun u => regVal u (iss .control 5) (.an 2) == 0x2345)
    ∧ nextIs (exec (.set (iss .control 5) (.sd 1) (.imm32 7) true) d0) (fun u => regVal u (iss .control 5) (.sd 1) == 7 * 2 ^ 32)
    ∧ nextIs (exec (.add (iss .control 5) (.an 2) (.imm32 0xFFFFFFFF)) d0) (fun u => regVal u (iss .control 5) (.an 2) == 0xFFFF)
    ∧ nextIs (exec (.sub (iss .control 5) (.s 15) (.imm32 1)) d0) (fun u => regVal u (iss .control 5) (.s 15) == 0xFFFFFFFF) := by
  decide +kernel

/-- LOOP: a count of zero skips, at the reserve it opens; ENDLOOP: not the last iteration, the last. -/
theorem test_loops :
    issues (iss .move 5) none d0 = true ∧ loopReg .move (.p 3) = true ∧ regVal d0 (iss .move 5) (.p 3) = 0
    ∧ nextIs (exec (.loop (iss .move 5) (.p 3) 0) d0) (fun u => (getStrm u 0 .move).skip == 1)
    ∧ nextIs (exec (.loop (iss .move 5) (.p 3) 2) (strm0 .move (fun x => { x with p := [(3, 2)] })))
        (fun u => (getStrm u 0 .move).loops == [⟨2, 0⟩])
    ∧ nextIs (exec (.endloop (iss .move 9)) (strm0 .move (fun x => { x with loops := [⟨2, 0⟩], a := [(1, 0x100)], d := [(4, 0x80)] })))
        (fun u => (getStrm u 0 .move).loops == [⟨2, 1⟩] && smGet 0 (getStrm u 0 .move).a 1 == 0x180)
    ∧ nextIs (exec (.endloop (iss .move 9)) (strm0 .move (fun x => { x with loops := [⟨2, 1⟩], a := [(1, 0x100)], d := [(4, 0x80)] })))
        (fun u => (getStrm u 0 .move).loops == [] && smGet 0 (getStrm u 0 .move).a 1 == 0x100)
    ∧ nextIs (exec (.endloop (iss .move 9)) (strm0 .move (fun x => { x with skip := 1, a := [(1, 0x100)], d := [(4, 0x80)] })))
        (fun u => (getStrm u 0 .move).skip == 0 && smGet 0 (getStrm u 0 .move).a 1 == 0x100)
    ∧ mayIssue (strm0 .move (fun x => { x with skip := 1 })) (iss .move 9) = true
    ∧ blocked (strm0 .move (fun x => { x with skip := 1 })) 0 .move = false
    ∧ codeUe (strm0 .move (fun x => { x with skip := 1 })) (iss .move 9) = false ∧ quietAt d0 0 9 = true := by
  decide +kernel

/-- WAITSC in both modes, the counter seen three cycles after its addition; REALIGN in the Beat before a realign point; a hold group named in the control stream. -/
theorem test_waitsc_realign :
    issues (iss .move 9) (some ⟨4, 1, 2⟩) (addCtr d0 0 4 0 2) = true
    ∧ nextIs (exec (.waitsc (iss .move 9) none ⟨4, 1, 2⟩) (addCtr d0 0 4 0 2)) (fun u => u.held == [] && u.flt.buf == [])
    ∧ openPlace (iss .control 9) .segend [] = true ∧ waitCycle (getCtr (addCtr d0 0 4 20 2) 0 4) 2 9 = some 23
    ∧ nextIs (exec (.waitsc (iss .control 9) (some .segend) ⟨4, 0, 2⟩) (addCtr d0 0 4 20 2))
        (fun u => (getStrm u 0 .control).lastIss == 23 && u.flt.buf == [])
    ∧ waitCycle (getCtr d0 0 4) 2 9 = none
    ∧ nextIs (exec (.waitsc (iss .control 9) (some .realign) ⟨4, 0, 2⟩) d0) (fun u => u.held.length == 1)
    ∧ openPlace (iss .control 9) .other [] = false
    ∧ nextIs (exec (.waitsc (iss .control 9) (some .other) ⟨4, 0, 2⟩) d0)
        (fun u => u.held == [] && u.flt.buf.map (fun r => (r.code, r.dix)) == [(FCode.waitPlace.code, 7)])
    ∧ beforePoint ⟨2, 8, [(0, .control)], [(0, 5, 0)]⟩ seg0 1 = true ∧ drained d0 0 .control = true
    ∧ nextIs (exec (.realign (iss .control 9) 0) { d0 with beat := { d0.beat with b := 1 } })
        (fun u => ((getStrm u 0 .control).realign).map Prod.fst == some 0 && blocked u 0 .control)
    ∧ issues (iss .control 9) none d0 = true ∧ waitBad (iss .control 9) ⟨4, 1, 2⟩ = true
    ∧ nextIs (exec (.waitsc (iss .control 9) none ⟨4, 1, 2⟩) d0) (fun u => u.held == [] && !u.flt.buf.isEmpty)
    ∧ nextIs (exec (.waitsc (iss .control 9) (some .segend) ⟨4, 1, 2⟩) d0) (fun u => u.held == [] && !u.flt.buf.isEmpty) := by
  decide +kernel

/-- SIGNALSC: local, and to core 1; seen in cycle t + 3, not in t + 2. -/
theorem test_signalsc :
    issues (iss .control 9) none d0 = true ∧ coreAt d0 0 1 = some 1
    ∧ nextIs (exec (.signalsc (iss .control 9) none ⟨4, 2⟩) d0)
        (fun u => seenAt (getCtr u 0 4) 11 == 0 && seenAt (getCtr u 0 4) 12 == 2)
    ∧ (sendFlit (issued (iss .control 9) 9 d0) 0 1 11 (.ctr 1 4 (flitArrive tiny 0 1 11))).2 = none
    ∧ late d0 .control (flitArrive tiny 0 1 11) = false ∧ (getStrm d0 0 .control).shift = 0 ∧ d0.mesh = []
    ∧ nextIs (exec (.signalsc (iss .control 9) (some 1) ⟨4, 2⟩) d0)
        (fun u => seenAt (getCtr u 1 4) (flitArrive tiny 0 1 11 + 3) == 2 && seenAt (getCtr u 0 4) 4000 == 0) := by
  decide +kernel

/-- LAUNCH of the last block of the table into a queue with one place left; SEGEND with idle engines; MBXSEND into the last place. -/
theorem test_launch_segend_mbxsend :
    blockCount d0 0 .matrix = 4
    ∧ nextIs (exec (.launch (iss .control 9) .matrix 3 1 12 [some 2, none, none, some 5] (some ⟨6, 0x10001⟩))
        (modCore d0 0 (fun c => { c with s := [(2, 22), (5, 55)] })))
        (fun u => (getStrm u 0 .matrix).queue.map (fun d => (d.block, d.boff, d.cyc, d.p, d.sig)) == [(3, 1, 12, [22, 0, 0, 55], some ⟨6, 1⟩)])
    ∧ passDue (getCore d0 0) 4127 = false ∧ activeCount (getCore d0 0).acts 30 = 0 ∧ (rampCheck d0 0 31).2 = none
    ∧ nextIs (exec (.segend (iss .control 9)) (engines.foldl (fun s k => modStrm s 0 k (fun x => { x with blk := none, prevEnd := 30 })) d0))
        (fun u => (getCore u 0).segend && (getStrm u 0 .control).prevEnd == 30)
    ∧ nextIs (exec (.mbxsend (iss .control 9) 0 1 2)
        (setMbx (modCore d0 0 (fun c => { c with s := [(1, 5), (2, 6)] })) 0 { emptyMbx with rx := List.replicate 7 (0, 1) }))
        (fun u => (getMbx u 0).rx.getLast? == some (0x600000005, 0x4000) && (getMbx u 0).rx.length == 8) := by
  decide +kernel

/-- CMP with its condition codes, SKIPIF, BEATREAD into one register, HALT. -/
theorem test_cmp_skipif_beatread_halt :
    (List.range 7).map (fun c => cmpOutcome c 1 0xFFFFFFFF) = [some false, some true, some true, some false, some false, some true, some true]
    ∧ nextIs (exec (.cmp (iss .control 9) 3 0 15 (.imm 0)) d0) (fun u => smGet false (getCore u 0).f 3)
    ∧ nextIs (exec (.skipif (iss .control 9) false 3 false) d0) (fun u => (getStrm u 0 .control).skipNext)
    ∧ nextIs (exec (.beatread (iss .control 9) 4 4) { d0 with beat := { d0.beat with b := 0x100000002 } })
        (fun u => regVal u (iss .control 9) (.s 4) == 9)
    ∧ nextIs (exec (.halt (iss .control 9) 0xABCD) d0) (fun u => u.flt.buf.map (fun r => (r.code, r.detail, r.dix, r.pc, r.part))
        == [(0x201E, 0xABCD0000, 7, 16, some 0)] && (getPart u 0).seg.map (fun g => g.abort.map Abort.flt) == some (some (.seq 0))) := by
  decide +kernel

/-! ### Load, Store, Move -/

/-- An Extent of partition 0: index 1, generation 0, 64 KiB at stack byte 0, opened by key 1; PACKED if asked. -/
def ext1 (packed : Bool) : ExtEnt := { emptyExt with valid := true, packed := packed }

/-- The Extent in the table, host object 0 of 4 KiB at 0x1000, A1 of Load, Store and Move at 0x80, P0 = 1, and two bytes of scratchpad. -/
def d1 : State :=
  let s := { d0 with ext := { d0.ext with tab := [(1, ext1 false)] }, spad := [(0x80, 5), (0xFF, 6)] }
  let s := setPart s 0 { part0 with seg := some { seg0 with objs := [⟨1, 0, 0x1000, 4096, 0, false⟩] } }
  [Strm.load, Strm.store, Strm.move].foldl (fun s k => modStrm s 0 k (fun x => { x with a := [(1, 0x80), (4, 0x200)], p := [(0, 1)] })) s

/-- A packing header with one packed block whose entry says uncompressed, and the Extent PACKED. -/
def d2 : State :=
  stkWrite { d1 with ext := { d1.ext with tab := [(1, ext1 true)] } } 1 0
    (natLe 4 0x4B434150 ++ natLe 4 1 ++ natLe 8 64 ++ List.replicate 16 0 ++ natLe 8 (2 * 2 ^ 32) ++ List.replicate 24 0)

/-- LDS of the last 32 bytes of the Extent, LDH of the last of the host object, LDW of one block. -/
theorem test_loads :
    issues (iss .load 9) none d1 = true ∧ granFault d1 (iss .load 9) 0x80 (65536 - 32) 32 32 9 = none
    ∧ lookup d1 1 0 0 (65536 - 32) 32 false = .ok (ext1 false) ∧ acceptCycle d1 0 (spansOf 0x80 32) 9 = some 9
    ∧ hostObj d1 0 0 (4096 - 32) 32 = some 0x1FE0
    ∧ lookup d2 1 0 0 0 32 false = .ok (ext1 true) ∧ lookup d2 1 0 0 32 8 false = .ok (ext1 true) ∧ d2.stk.errs = []
    ∧ nextIs (exec (.lds (iss .load 9) ⟨1, 2, 0, 5, 32⟩) (modStrm d1 0 .load (fun x => { x with a := [(1, 0x80), (2, 65504)] })))
        (fun u => u.lands.map (fun l => (l.core, l.local_, l.sc)) == [(0, 0x80, 5)] && u.stk.greqs.map (fun r => (r.g, r.key)) == [(2047, 1)])
    ∧ nextIs (exec (.ldh (iss .load 9) ⟨1, 2, 1, 5, 32⟩) (modStrm d1 0 .load (fun x => { x with a := [(1, 0x80), (2, 4064)] })))
        (fun u => u.lands.map (fun l => (l.local_, l.host)) == [(0x80, some 0x1FE0)])
    ∧ (let b := leNat (stkBytes d2 1 0 16); bitsOf b 0 32 = 0x4B434150 ∧ bitsOf b 32 32 = 1)
    ∧ nextIs (exec (.ldw (iss .load 9) ⟨1, 2, 0, 5, 4096⟩) d2)
        (fun u => u.stk.packs.map (fun p => (p.mode, p.bad, p.plen)) == [(0, false, 2)] && u.lands.length == 32
          && u.stk.greqs.map (fun r => r.g) == [2, 3]) := by
  decide +kernel

/-- STS with a digest, STH; DIGEST OPEN and CLOSE. -/
theorem test_stores :
    lookup d1 1 0 0 0 128 true = .ok (ext1 false)
    ∧ (digStore (putDig d1 0 7 (some ⟨1, 0, 0, []⟩)) (iss .store 9) ⟨true, 1, 2, 0, 7, 128⟩ 0 9).1 = none
    ∧ nextIs (exec (.sts (iss .store 9) ⟨true, 1, 2, 0, 7, 128⟩) (putDig d1 0 7 (some ⟨1, 0, 0, []⟩)))
        (fun u => u.stores.map (fun r => (r.local_, r.len, r.dst)) == [(0x80, 128, .stack 0 1)] && u.stk.greqs.length == 4
          && (getDig u 0 7).map DigStrm.next == some 128)
    ∧ nextIs (exec (.sth (iss .store 9) ⟨false, 1, 2, 1, 0, 64⟩) d1)
        (fun u => u.stores.map (fun r => (r.local_, r.len, r.dst)) == [(0x80, 64, .host 0x1000)])
    ∧ nextIs (exec (.digestOpen (iss .store 9) 2 0 7) d1) (fun u => getDig u 0 7 == some ⟨1, 0, 0, []⟩)
    ∧ localFault d1 (iss .store 9) 0x80 32 32 9 = none ∧ bankAt d1 0 0x80 = .on ∧ usesOrdered d1 = true ∧ noHolds d1 0 .store := by
  refine ⟨by decide +kernel, by decide +kernel, by decide +kernel, by decide +kernel, by decide +kernel, by decide +kernel, by decide +kernel,
    by decide +kernel, ?_⟩
  exact ⟨by decide +kernel, by decide +kernel⟩

/-- A DIGEST CLOSE of an empty stream writes a root in the cycle after its issue. -/
theorem test_digest_close :
    nextIs (exec (.digestClose (iss .store 9) 1 7) (putDig d1 0 7 (some ⟨1, 0, 0, []⟩)))
      (fun u => getDig u 0 7 == none && ((getPart u 0).seg.map Seg.roots).map (fun r => r.map Prod.fst) == some [7]
        && u.flt.buf == []) = true := by
  decide +kernel

/-- What `canRead` says, as a check. -/
def readsOk (s : State) (core : Nat) (k : Strm) (exp : Option Nat) (rs : List RdReq) : Bool := rs.all (fun r => (readFault s core k exp r).isNone)

/-- What `canWrite` says, as a check. -/
def writesOk (s : State) (core : Nat) (k : Strm) (a len t : Nat) : Bool :=
  !late s k t && localOk s.build a len && (spansOf a len).all (fun x =>
    bankAt s core x.1 == .on && !claimClash s (mkClaim s core k x.1 t true) && (!guarded s core x.1 || !(getRow s (rowNo core x.1)).rds.contains t))

/-- FILLC of 33 rows: row 32 is written one cycle after row 0; COPYR of one row; MVM of one row to core 1, with its signal. -/
theorem test_moves :
    localFault d1 (iss .move 9) 0x80 (128 * 33) 128 9 = none ∧ usesOrdered d1 = true ∧ d1.mesh = [] ∧ d1.flitErrs = []
    ∧ (List.range 33).all (fun j => writesOk d1 0 .move (0x80 + 128 * j) 128 (9 + transit tiny 0x20 + j / 32)) = true
    ∧ nextIs (exec (.fillc (iss .move 9) 1 33 0x01020304) d1)
        (fun u => readSpan u 0 (0x80 + 128 * 32) 4 (9 + transit tiny 0x20 + 2) == [4, 3, 2, 1]
          && readSpan u 0 (0x80 + 128 * 32) 4 (9 + transit tiny 0x20 + 1) == [0, 0, 0, 0])
    ∧ localFault d1 (iss .move 9) 0x200 128 128 9 = none ∧ readsOk d1 0 .move none (spanReads 0x80 128 (9 + transit tiny 0x21)) = true
    ∧ writesOk d1 0 .move 0x200 128 (9 + transit tiny 0x21 + transit tiny 0x22) = true
    ∧ nextIs (exec (.copyr (iss .move 9) 1 4 1 noExt) d1) (fun u => (readSpan u 0 0x200 128 100).head? == some 5 && u.flt.buf == [])
    ∧ meshDest d1 (iss .move 9) (0x200 + 2 ^ 23) 128 = some (1, 0x200) ∧ (getStrm d1 0 .move).shift = 0
    ∧ readsOk d1 0 .move none (spanReads 0x80 128 (9 + transit tiny 0x30)) = true
    ∧ (List.range 2).all (fun f => writesOk d1 1 .control (0x200 + 64 * f) 64 (flitArrive tiny 0 1 (9 + transit tiny 0x30 + 1 + f))) = true
    ∧ late d1 .move (flitArrive tiny 0 1 (9 + transit tiny 0x30 + 3)) = false
    ∧ nextIs (exec (.mvm (iss .move 9) 1 5 1 ⟨none, some ⟨3, 1⟩, none⟩)
          (modStrm d1 0 .move (fun x => { x with a := [(1, 0x80), (5, 0x200 + 2 ^ 23)] })))
        (fun u => (readSpan u 1 0x200 128 100).head? == some 5 && (readSpan u 1 0x200 128 100).getLast? == some 6
          && seenAt (getCtr u 1 3) 100 == 1 && u.flt.buf == []) := by
  decide +kernel

/-- A port of partition 0 at width 4 with one send entry of cells 100 to 101 of core 0. -/
def tab0 : TabMem := ⟨4, [⟨100, 2, false, false, 0, 1, 0, 8, 0, 0, 0⟩]⟩
/-- The port is UP with a table and a key. -/
def d3 : State :=
  modPart (setPort d1 0 { emptyPort with en := true, st := 2, width := 4, on := true, tabs := [(0, some tab0)] }) 0 (fun p => { p with link := some ⟨20, false, []⟩ })

/-- MVB of two cells. -/
theorem test_mvb :
    mvbCells d3 (getPort d3 0) tab0 0 9 = [100, 101] ∧ (getPort d3 0).tab = some tab0 ∧ d3.claims = []
    ∧ localFault d3 (iss .move 9) 0x80 512 128 9 = none ∧ late d3 .move (sendPoint 4 101) = false
    ∧ nextIs (exec (.mvb (iss .move 9) 1 0 2 noExt) d3)
        (fun u => (getPort u 0).sent.map (fun x => (x.cidx, x.local_)) == [(100, 0x80), (101, 0x180)] && smGet 0 (getPort u 0).used 0 == 102) := by
  decide +kernel

/-- R142 on both axes of an 8-column mesh; a row write is read back. -/
theorem test_mesh_and_row_write :
    flitArrive Config.build 0 63 10 = 10 + 2 + 2 + 3 * 14
    ∧ localOk tiny (0x80 + 127) 1 = true ∧ claimClash d1 (mkClaim d1 0 .move 0xFF 30 true) = false ∧ guarded d1 0 0xFF = false
    ∧ (writeRow d1 0 .move 3 0xFF [9] 30).2 = none
    ∧ (rowView (writeRow d1 0 .move 3 0xFF [9] 30).1 1 31).data.getLast? = some 9
    ∧ (rowView (writeRow d1 0 .move 3 0xFF [9] 30).1 1 31).tag = 1
    ∧ (rowView (writeRow d1 0 .move 3 0xFF [9] 30).1 1 30).data.getLast? = some 6 := by
  decide +kernel

/-! ### Matrix and Strudel -/

/-- The state after a command that goes on. -/
def after (c : Instr) (s : State) : State :=
  match exec c s with
  | .next u => u
  | _ => s

/-- Operands: BF16 1.5 at 0, BF16 2.0 at 0x80, a BF16 descriptor at 0x40; addresses in A1 to A6 of Matrix, Strudel and Glaze. -/
def d4 : State :=
  [Strm.matrix, Strm.strudel, Strm.glaze].foldl (fun s k => modStrm s 0 k (fun x => { x with
      a := [(2, 0x80), (3, 0x40), (4, 0x1000), (5, 0x2000), (6, 0x40000)] }))
    { d0 with spad := [(0, 0xC0), (1, 0x3F), (0x40, 10), (0x81, 0x40)] }

/-- HOLD of one BF16 channel on Wafer 0 in Solo mode. -/
def hold0 : HoldOps := ⟨2, 3, 0, 1, .solo, 1, 1, 1, 1, 0, 0⟩
/-- MMA of nine rows against it, clearing. -/
def mma0 (out : OMode) : MmaOps :=
  { clear := true, carried := false, aBase := 1, aDesc := 3, unit := 0, units := 1, mode := .solo, aHeld := false, out := out, anchor := 0,
    pitch := 1, m := 9, n := 1, k := 1, aOut := 4, aRec := 5, ofmt := 12, oexp := 0, stoch := false, seed := 0, pIdx := 0, close := false,
    opitch := 1 }
/-- After the HOLD. -/
def d5 : State := after (.hold (iss .matrix 9) hold0 noExt) d4
/-- After the MMA and its pass too. -/
def d6 : State := settleCore (after (.mma (iss .matrix 100) (mma0 .acc) noExt) d5) 0 200

/-- HOLD: the shadow of Wafer 0 holds the channel, Wafer 1 nothing. -/
theorem test_hold :
    let r := openDesc (iss .matrix 9) (fun _ => true) none 0x40 0 1 0 1 1 9 (issued (iss .matrix 9) 9 d4)
    issues (iss .matrix 9) none d4 = true ∧ extBad noExt true false true = false ∧ loadChans hold0 = [0] ∧ chunkGrains hold0 1 = (0, 1)
    ∧ loadWafers tiny hold0 [0] 1 = [(0, 0, 0)] ∧ localFault d4 (iss .matrix 9) 0x80 32 32 9 = none ∧ r.1.2 = none
    ∧ localFault d4 (iss .matrix 9) 0x80 2 32 9 = none ∧ modeOk d4 0 .solo [0] = true ∧ shadowBusy d4 0 0 13 = false
    ∧ readsOk r.1.1 0 .matrix none (chanReads r.2 0x80 32 1 0 1 13 [0]) = true ∧ late d4 .matrix 45 = false
    ∧ (smGet emptyWafer (getCore d5 0).waf 0).shadow.map CellLoad.cells
        = some ((List.range 32).map (fun c => (List.range 33).map (fun q =>
            if q == 32 then [] else [if c == 0 then (if q == 0 then Dec.fin 128 (-6) else .fin 0 (fmtWeight 10)) else .fin 0 0])))
    ∧ smGet emptyWafer (getCore d5 0).waf 1 = emptyWafer ∧ d5.flt.buf = [] := by
  decide +kernel

/-- The hypotheses of the MMA statement on the MMA above, in the order they stand. -/
def mmaMeets (o : MmaOps) : Bool :=
  let i := iss .matrix 100
  let us := unitList o.mode o.unit o.units
  let ws := us.flatMap (unitWafers d5.build o.mode)
  let s := issued i 100 d5
  let c := getCore s 0
  match nextHeld c 0 with
  | none => false
  | some h =>
    let r := openDesc i (fun d => !(d.outl && h.outl)) none (aReg d5 i o.aDesc) 0 9 0 1 1 100 s
    let f := foldOf d5.build o.mode 9 1 1 (fmtFour r.2.fmt && fmtFour h.fmt) (fmtWide r.2.fmt || h.wide)
    let q := openRec r.1.1 i o.carried (aReg d5 i o.aRec) 100
    let n := termCount (fmtWide r.2.fmt || h.wide) (r.2.zpmode != 0 || h.zp) [] 0 f.ng 1
    let done := foldEnd d5.build f o.out (foldPasses f [] us 104)
    issues i none d5 && busyUnits o.mode us 1 == [(0, 0)] && ws == [0] && r.1.2.isNone && (localFault d5 i 0 32 32 100).isNone
      && (localFault d5 i 0 258 32 100).isNone && fmtDrain o.ofmt && modeOk r.1.1 0 o.mode us && !holdsNothing c ws && holdBinds c o 1 ws
      && (o.out == .acc || (localFault d5 i (aReg d5 i o.aOut) (outLen d5.build o f) (if o.out == .spill then 128 else 32) 100).isNone)
      && f.ns == 1 && f.np == 1 && !busyAt c 0 104 && decide (soloCount c [0] 104 ≤ 2) && q.2.isNone && !r.2.outl && !h.outl
      && (entryFault q.1 0 o.clear (passAnchor q.1 i o.carried o.anchor (aReg d5 i o.aRec) 100) n 100
            (mmaEntries d5.build o f [(0, 0)] 1)).isNone && n == 1 && !late d5 .matrix done

/-- MMA: 2.0 × 1.5 = 3 under Anchor 0, in every output mode; the FUSED tile is FP32 3.0, and its front has made the shadow the held operand. -/
theorem test_mma :
    mmaMeets (mma0 .acc) = true ∧ mmaMeets (mma0 .fused) = true ∧ mmaMeets (mma0 .spill) = true
    ∧ (colOf (entNow (getEntry d6 0 0 0)) 0).v = 3 ∧ (entNow (getEntry d6 0 0 0)).terms = 1 ∧ d6.flt.buf = [] ∧ (getCore d6 0).mmas = []
    ∧ (smGet emptyWafer (getCore d6 0).waf 0).shadow = none
    ∧ (smGet emptyWafer (getCore d6 0).waf 0).held = (smGet emptyWafer (getCore d5 0).waf 0).shadow
    ∧ nextIs (exec (.mma (iss .matrix 100) (mma0 .fused) noExt) d5)
        (fun u => readSpan (catchUp u 0 300) 0 0x1000 4 300 == [0, 0, 0x40, 0x40]) = true
    ∧ (let f := foldOf tiny .solo 1 1 1 false true
       (0, 0, 0) ∈ unitFold f 1 0 ∧ (timePasses f [] 0 (unitFold f 1 0) 104).map Pass.p = [104] ∧ (foldPasses f [] [0] 104).length = 1) := by
  decide +kernel

/-- A fold of two panels on one unit with three chunks: the passes follow each other by at least 33 cycles. -/
theorem test_fold_order :
    let f := foldOf tiny .solo 64 64 80 false false
    unitFold f 1 0 = [(0, 0, 0), (0, 0, 1), (0, 0, 2), (1, 0, 0), (1, 0, 1), (1, 0, 2)]
    ∧ (timePasses f [] 0 (unitFold f 1 0) 104).map Pass.p = [104, 168, 232, 296, 360, 424] ∧ unitFold f 2 1 = [(1, 0, 0), (1, 0, 1), (1, 0, 2)] := by
  decide +kernel

/-- A pass row's hypotheses: entries in order, the cycle before the guard window, and an entry that holds a value. -/
theorem test_pass_row :
    entsOrdered d6 = true ∧ late d6 .matrix 300 = false
    ∧ (let u := passWrite d6 0 .matrix 0 0 300 none 1 [[⟨4, 0, false, false, false⟩]]
       u.2 = none ∧ (colOf (entAt (getEntry u.1 0 0 0) 301) 0).v = 7 ∧ (colOf (entAt (getEntry u.1 0 0 0) 300) 0).v = 3
       ∧ (entAt (getEntry u.1 0 0 0) 301).terms = 2) := by
  decide +kernel

/-- R54, R55 at their limits: exact to the left, floor to the right, the limits of the window. -/
theorem test_terms :
    floorShift 3 2 = 12 ∧ floorShift (-1) (-4) = -1 ∧ floorShift 15 (-4) = 0 ∧ floorShift 16 (-4) = 1
    ∧ (addTerm 0 (zeroAcc, 0) ⟨2 ^ 95 - 1, 0, false, false, false⟩).2 = 0 ∧ (addTerm 0 (zeroAcc, 0) ⟨2 ^ 95, 0, false, false, false⟩).2 = 1
    ∧ (addTerm 0 (zeroAcc, 0) ⟨-(2 ^ 95), 0, false, false, false⟩).2 = 0
    ∧ (addTerm 0 (zeroAcc, 0) ⟨-(2 ^ 95) - 1, 0, false, false, false⟩).2 = 1
    ∧ (passWrite d4 0 .matrix 3 5 50 (some (-4)) 2 [[⟨1, -4, false, false, false⟩]]).2 = none
    ∧ (entNow (getEntry (passWrite d4 0 .matrix 3 5 50 (some (-4)) 2 [[⟨1, -4, false, false, false⟩]]).1 0 3 5)).terms = 2 := by
  decide +kernel

/-- DRAIN of the entry as FP32. -/
def drain0 : DrainOps := ⟨false, false, false, false, 4, 5, 0, 1, 0, 0, 12, 0, false, 0, 0, 1, 0⟩
theorem test_drain :
    issues (iss .matrix 200) none d6 = true ∧ fmtDrain 12 = true ∧ waferFit tiny 0 1 0 0 = true ∧ liveAt d6 0 0 0 200 = true
    ∧ (openRec (issued (iss .matrix 200) 200 d6) (iss .matrix 200) false 0x2000 200).2 = none
    ∧ late d6 .matrix (200 + transit tiny 0x05) = false ∧ usesOrdered d6 = true ∧ entsOrdered d6 = true ∧ localFault d6 (iss .matrix 200) 0x1000 128 32 200 = none
    ∧ (endCheck (drainOne (iss .matrix 200) 0 0 32 12 0 (fun _ => .rne) false 0x1000 200 (200 + transit tiny 0x05)
        (armRead 0 0 0 200 200 (issued (iss .matrix 200) 200 d6, none), ⟨[], false⟩)).1.1 (locOf d6 (iss .matrix 200)) (200 + transit tiny 0x05)).2 = none
    ∧ nextIs (exec (.drain (iss .matrix 200) drain0 noExt) d6)
        (fun u => readSpan u 0 0x1000 4 300 == [0, 0, 0x40, 0x40] && u.flt.buf == [] && entNow (getEntry u 0 0 0) == entNow (getEntry d6 0 0 0))
    ∧ nextIs (exec (.drain (iss .matrix 200) { drain0 with clear := true } noExt) d6)
        (fun u => (entNow (getEntry u 0 0 0)).terms == 0 && (entNow (getEntry u 0 0 0)).live) := by
  decide +kernel

/-- R58: NaN, infinities, the window. -/
theorem test_drain_value :
    drainValue ⟨5, true, false, false⟩ 0 0 = (.nan, 0, none) ∧ drainValue ⟨5, false, true, true⟩ 0 0 = (.nan, 0, none)
    ∧ drainValue ⟨5, false, true, false⟩ 0 0 = (.inf false, 0, none) ∧ drainValue ⟨5, false, false, true⟩ 0 0 = (.inf true, 0, none)
    ∧ (drainValue ⟨2 ^ 95 - 1, false, false, false⟩ 0 0).2 = (0, some (2 ^ 95 - 1))
    ∧ (drainValue ⟨2 ^ 95, false, false, false⟩ 0 0).2 = (1, some (2 ^ 95 - 1)) := by
  decide +kernel

/-- SPILL writes the entry to 0x40000; RELOAD and ACCUMULATE bring it back. -/
def spill0 : SpillOps := ⟨6, 0, 1, 0, 0⟩
def d7 : State := after (.spill (iss .matrix 200) spill0 noExt) d6
theorem test_spill_reload_accumulate :
    spillChecks d6 (iss .matrix 200) spill0 noExt 200 = none ∧ anyStale d6 0 spill0 200 = false ∧ usesOrdered d6 = true
    ∧ writesOk d6 0 .matrix 0x40000 512 (200 + transit tiny 0x05) = true ∧ writesOk d6 0 .matrix 0x48000 32 (200 + transit tiny 0x05) = true
    ∧ readsOk d7 0 .matrix none (spanReads 0x40000 512 300 ++ spanReads 0x48000 32 300) = true
    ∧ parseSpill (readSpan d7 0 0x40000 512 300) (readSpan d7 0 0x48000 32 300) = some { entNow (getEntry d6 0 0 0) with clp := [] }
    ∧ armedRace d7 0 0 0 (300 + transit tiny 0x05) = none
    ∧ getEntry d7 0 0 0 = { getEntry d6 0 0 0 with reads := (getEntry d7 0 0 0).reads } ∧ readSpan d7 0 0x40000 16 300 = natLe 16 3
    ∧ nextIs (exec (.reload (iss .matrix 300) spill0 noExt) d7)
        (fun u => (colOf (entNow (getEntry u 0 0 0)) 0).v == 3 && (entNow (getEntry u 0 0 0)).terms == 1 && u.flt.buf == [])
    ∧ nextIs (exec (.accumulate (iss .matrix 300) spill0 noExt) d7)
        (fun u => (colOf (entNow (getEntry u 0 0 0)) 0).v == 6 && (entNow (getEntry u 0 0 0)).terms == 2 && u.flt.buf == []) := by
  decide +kernel

/-- EWM of one cycle on Wafer 1: BF16 1.5 × 1.5 under Anchor −2 is 9; MERINGUE on Torte 7. -/
theorem test_ewm_meringue :
    issues (iss .matrix 9) none d4 = true ∧ fmtOperand 10 = true ∧ waferFit tiny 1 1 63 63 = true
    ∧ entryFault d4 0 true (-2) 1 9 [(1, 63)] = none
    ∧ nextIs (exec (.ewm (iss .matrix 9) ⟨true, 1, 1, 1, 1, 63, 10, 10, 0, 1⟩ noExt) (modCore d4 0 (fun c => { c with an := [(0, -2)] })))
        (fun u => (colOf (entNow (getEntry u 0 1 63)) 0).v == 9 && (entNow (getEntry u 0 1 63)).anchor == -2 && u.flt.buf == [])
    ∧ torteStat d4 0 7 = 0
    ∧ nextIs (exec (.meringue (iss .matrix 9) ⟨7, 1, 4032, 15, false⟩) d4)
        (fun u => (getCore u 0).acts.any (fun a => a.torte == 7 && a.kind == 2 && a.stop == 4032 && a.left != 0)) := by
  decide +kernel

/-- MVX of one weight row of one element against one vector, and its SDRAIN as FP32. -/
def d8 : State :=
  after (.mvx (iss .strudel 9) ⟨true, false, 2, 1, 3, 3, 1, 1, 1, 0, 0, 5, 1⟩ noExt) d4
theorem test_mvx_sdrain :
    issues (iss .strudel 9) none d4 = true ∧ (openDesc (iss .strudel 9) (fun d => !d.outl) none 0x40 0 1 0 1 1 9 (issued (iss .strudel 9) 9 d4)).1.2 = none
    ∧ laneFault d4 0 true 0 1 9 0 1 = none ∧ feeds 1 1 1 = [(0, 0, 0)]
    ∧ localFault d4 (iss .strudel 9) 0x80 64 128 9 = none ∧ localFault d4 (iss .strudel 9) 0 64 32 9 = none ∧ (getCore d4 0).sout = false
    ∧ (colOf (entNow (getEntry d8 0 lanesBank 0)) 0).v = 3 ∧ d8.flt.buf = []
    ∧ nextIs (exec (.sdrain (iss .strudel 200) ⟨false, false, false, 4, 5, 0, 0, 12, 0, false, 0, 0, 1, 1⟩ noExt) d8)
        (fun u => readSpan u 0 0x1000 4 300 == [0, 0, 0x40, 0x40] && u.flt.buf == []) := by
  decide +kernel

/-! ### Glaze and slots -/

/-- One element: sources in A0 (1.5) and A2 (2.0), BF16, destination A4, FP32. -/
def gz0 (a1 a2 a3 : Nat) : GzOps := ⟨4, a1, a2, a3, 12, 10, 1⟩
/-- The FP32 element an instruction writes at 0x1000, and no fault. -/
def gzOut (c : Instr) (s : State) : List Byte :=
  match exec c s with
  | .next u => if u.flt.buf == [] then readSpan u 0 0x1000 4 300 else []
  | _ => []

/-- The arithmetic instructions: 1.5 + 2.0, 1.5 × 2.0, 1.5 × 2.0 + 1.5, max; their hypotheses. -/
theorem test_glaze_arithmetic :
    issues (iss .glaze 9) none d4 = true ∧ fmtGlaze 10 = true ∧ gzUnused (gz0 1 2 0) 2 = false ∧ fmtGlaze 12 = true
    ∧ gzAddrs d4 (iss .glaze 9) (gz0 1 2 0) [(0, 0), (0x80, 1)] 0x1000 9 = none
    ∧ ((List.range 1).foldl (gzChunk (iss .glaze 9) (gz0 1 2 0) noExt (9 + transit tiny 0x40) (transit tiny 0x41) 0x1000 [(0, 0), (0x80, 1)]
        (fn2 vadd32)) (issued (iss .glaze 9) 9 d4, none)).2 = none
    ∧ late d4 .glaze (9 + transit tiny 0x40 + transit tiny 0x4D) = false
    ∧ (doReadsBy 0 .glaze (gzReads noExt 0 (granSpan 10 1) (9 + transit tiny 0x40) [(0, 0), (0x80, 1)]) d4).2 = none
    ∧ writesOk d4 0 .glaze 0x1000 32 (9 + transit tiny 0x40 + transit tiny 0x41) = true ∧ usesOrdered d4 = true
    ∧ gzOut (.vadd (iss .glaze 9) (gz0 1 2 0) noExt) d4 = natLe 4 0x40600000
    ∧ gzOut (.vmul (iss .glaze 9) (gz0 1 2 0) noExt) d4 = natLe 4 0x40400000
    ∧ gzOut (.vfma (iss .glaze 9) (gz0 1 2 1) noExt) d4 = natLe 4 0x40900000
    ∧ gzOut (.vmax (iss .glaze 9) (gz0 1 2 0) noExt) d4 = natLe 4 0x40000000 := by
  decide +kernel

/-- The functions, of 2.0 but for VEXP2 of 1.5: correctly rounded values. -/
theorem test_glaze_functions :
    gzOut (.vexp2 (iss .glaze 9) (gz0 1 0 0) noExt) d4 = natLe 4 0x403504F3 ∧ gzOut (.vlog2 (iss .glaze 9) (gz0 2 0 0) noExt) d4 = natLe 4 0x3F800000
    ∧ gzOut (.vrecip (iss .glaze 9) (gz0 2 0 0) noExt) d4 = natLe 4 0x3F000000 := by
  decide +kernel
theorem test_glaze_more_functions :
    gzOut (.vrsqrt (iss .glaze 9) (gz0 2 0 0) noExt) d4 = natLe 4 0x3F3504F3 ∧ gzOut (.vtanh (iss .glaze 9) (gz0 2 0 0) noExt) d4 = natLe 4 0x3F76CA83
    ∧ gzOut (.vsig (iss .glaze 9) (gz0 2 0 0) noExt) d4 = natLe 4 0x3F617BEB := by
  decide +kernel

/-- A state like any but its transcendental reading: R215's worked example, VEXP2(−1.25). -/
theorem test_vexp2_example : vexp2 0xBFA00000 = 0x3ED744FD := by decide +kernel

/-- Three FP32 elements 2^30, 1, −2^30 at 0x80 (the three terms of chapter 02). -/
def d9 : State :=
  { d4 with spad := memWrite [] 0x80 (natLe 4 0x4E800000 ++ natLe 4 0x3F800000 ++ natLe 4 0xCE800000) }
/-- VSUMX of A2 to A4 on register 3. -/
def vs0 (clear : Bool) (n : Nat) : VsOps := ⟨clear, 4, 2, 3, 12, 12, n⟩
def d10 : State := after (.vsumxAdd (iss .glaze 9) (vs0 true 3) noExt) d9
def d11 : State := after (.vsumxSave (iss .glaze 200) (vs0 false 1) noExt) d10

/-- VSUMX: the three-term sum reads as 1.0; saved, parsed and merged with itself it reads as 2.0. -/
theorem test_vsumx :
    issues (iss .glaze 9) none d9 = true ∧ localFault d9 (iss .glaze 9) 0x80 (granSpan 12 3) 32 9 = none
    ∧ (getWs d10 0 3).terms = 3 ∧ (getWs d10 0 3).v = 1 <<< 149 ∧ (getWs d10 0 3).upd ≤ 200 ∧ d10.flt.buf = []
    ∧ mergeBad (getWs d11 0 3) (readSpan d11 0 0x1000 64 400) = none ∧ usesOrdered d10 = true
    ∧ writesOk d10 0 .glaze 0x1000 64 (200 + transit tiny 0x48) = true ∧ writesOk d10 0 .glaze 0x1000 32 (200 + transit tiny 0x47) = true
    ∧ readsOk d9 0 .glaze none (spanReads 0x80 32 (9 + transit tiny 0x40)) = true
    ∧ readsOk d11 0 .glaze none (spanReads 0x1000 64 (400 + transit tiny 0x40)) = true
    ∧ gzOut (.vsumxRead (iss .glaze 200) (vs0 false 1) noExt) d10 = natLe 4 0x3F800000
    ∧ wsParse (readSpan d11 0 0x1000 64 300) = some { getWs d10 0 3 with upd := 0 }
    ∧ nextIs (exec (.vsumxMerge (iss .glaze 400) ⟨false, 5, 4, 3, 12, 12, 1⟩ noExt) d11)
        (fun u => wsRead (getWs u 0 3) == 0x40000000 && (getWs u 0 3).terms == 6 && u.flt.buf == []) := by
  decide +kernel

/-- 32 BF16 elements, 2.0 and zeros, at 0x80; an INT8 descriptor of groups of 32 with its scales at 0x3000. -/
def d12 : State :=
  { d4 with spad := memWrite [(0x81, 0x40)] 0x40 (natLe 4 0x102 ++ natLe 4 0x3000 ++ List.replicate 16 0 ++ natLe 4 1 ++ natLe 4 9) }
def vq0 : VqOps := ⟨false, false, 0, 4, 2, 3, 0, 10, 32⟩
def d13 : State := after (.vquant (iss .glaze 9) vq0 noExt) d12
/-- VQUANT in FIT mode: the smallest power of two not below 2/127 is 2^-5, so 2.0 becomes 64; VDEQ of it is 2.0 again. -/
theorem test_quantise :
    issues (iss .glaze 9) none d12 = true ∧ (gzDesc (iss .glaze 9) none 0x40 9 (issued (iss .glaze 9) 9 d12)).1.2 = none
    ∧ vqRole (gzDesc (iss .glaze 9) none 0x40 9 d12).2 false 10 = true ∧ (gzDesc (iss .glaze 9) none 0x40 9 d12).2.group = 32
    ∧ readSpan d13 0 0x1000 2 300 = [64, 0] ∧ readSpan d13 0 0x3000 1 300 = [122] ∧ d13.flt.buf = []
    ∧ (getCore d12 0).guards = [] ∧ usesOrdered d12 = true ∧ readsOk d12 0 .glaze none (spanReads 0x80 64 (9 + transit tiny 0x40)) = true
    ∧ writesOk d12 0 .glaze 0x1000 32 (9 + transit tiny 0x40 + transit tiny 0x45) = true
    ∧ writesOk d12 0 .glaze 0x3000 1 (9 + transit tiny 0x40 + transit tiny 0x45) = true
    ∧ deqRole ⟨5, 4, 3, 0, 12, 12, 32⟩ = true ∧ gzUnused ⟨5, 4, 3, 0, 12, 12, 32⟩ 2 = false ∧ usesOrdered d13 = true
    ∧ readsOk d13 0 .glaze none (spanReads 0x1000 32 (400 + transit tiny 0x40)
        ++ deqReads (gzDesc (iss .glaze 9) none 0x40 9 d12).2 0 32 (400 + transit tiny 0x40)) = true
    ∧ writesOk d13 0 .glaze 0x2000 128 (400 + transit tiny 0x40 + transit tiny 0x44) = true
    ∧ nextIs (exec (.vdeq (iss .glaze 400) ⟨5, 4, 3, 0, 12, 12, 32⟩ noExt) d13)
        (fun u => readSpan u 0 0x2000 8 600 == natLe 4 0x40000000 ++ natLe 4 0 && u.flt.buf == []) := by
  decide +kernel

/-- Slot 1 of partition 0, bound to core 0, READY with ratio 2, latency 5, codes 3 to 4. -/
def d14 : State :=
  { d4 with slots := [(1, { emptySlt with en := true, core := 0, st := 2, ident := some ⟨7, 1, 5, 2, true, 3, 4⟩ })] }
/-- XOP of one Granule: k0 is the first slot cycle not before the read; the output is written LOW_OUT after its slot cycle. -/
theorem test_xop :
    issues (iss .glaze 9) none d14 = true ∧ slotOpen d14 (iss .glaze 9) 1 = true
    ∧ xopOverrun tiny 2 (firstSlotCycle tiny 2 9 0) 5 1 = none ∧ (outPoint tiny 2 (firstSlotCycle tiny 2 9 0 + 5)).1 = 0
    ∧ (xopReads (iss .glaze 9) ⟨4, 2, 1, 3, 1, [some [1, 2, 3]]⟩ none 0x80 2 (firstSlotCycle tiny 2 9 0) [0] (issued (iss .glaze 9) 9 d14)).2 = none
    ∧ nextIs (exec (.xop (iss .glaze 9) ⟨4, 2, 1, 3, 1, [some [1, 2, 3]]⟩ noExt) d14)
        (fun u => (getSlt u 1).inTo == 2 * (firstSlotCycle tiny 2 9 0 + 1) && u.xouts == [] && u.flt.buf == []
          && readSpan u 0 0x1000 4 300 == [1, 2, 3, 0]
          && u.posts == [.slotIn 1 (2 * firstSlotCycle tiny 2 9 0) 3 true (0 :: 0x40 :: List.replicate 30 0)])
    ∧ nextIs (exec (.xop (iss .glaze 9) ⟨4, 2, 1, 4, 1, [some [1]]⟩ noExt)
          { d14 with slots := [(1, { emptySlt with en := true, core := 0, st := 2, ident := some ⟨7, 1, 3000, 2, true, 3, 4⟩ })] })
        (fun u => u.xouts.map (fun x => (x.slot, x.idx, x.beat, x.last)) == [(1, 0, 1, true)] && u.flt.buf == [])
    ∧ (let x : XOut := ⟨locOf d14 (iss .glaze 9), 1, 0, 0, 30, 0x1000, some (List.replicate 32 7), true, none⟩
       (runningSeg d14 0).isSome = true ∧ writesOk d14 0 .glaze 0x1000 32 30 = true ∧ usesOrdered d14 = true
       ∧ readSpan (dueOut d14 x) 0 0x1000 32 31 = List.replicate 32 7) := by
  decide +kernel

/-- The example of R345: an XOP that issues in cycle 1,000 at ratio 2 has k0 = 502; the output of slot cycle 542 is written at 1,087. -/
theorem test_first_slot_cycle : firstSlotCycle Config.build 2 1000 0 = 502 ∧ outPoint Config.build 2 542 = (0, 1087) := by decide +kernel

/-! ### Commands of the host -/

/-- A ring of 64 entries with an entry to fetch, of context 1. -/
def qr0 : QRec := ⟨0x10000, 0x20000, 0x30000, 6, true, true, true, false, 0, 1, 5, 4, 4, none, false⟩
/-- Queue 3 of partition 0, resident. -/
def qs0 : QSlot := ⟨3, 0, qr0, none, [], false, false, false, false⟩
/-- A live level Event at index 2, VALUE 5. -/
def evt0 : EvtRec := ⟨5, 0, 0, 9, 1, false, false, .live, 0, 0⟩
/-- Headers of a TYPE with these flags. -/
def hdrT (ty : Nat) (f : BitVec 7) : CmdHdr := ⟨ty, f, false, false, evt0, 77, 0, 0⟩
/-- Headers of a RUN with these flags. -/
def hdr0 (f : BitVec 7) : CmdHdr := hdrT 1 f
/-- A command of queue 3. -/
def cmd0 (seq : W32) (b : CmdBody) (st : Stage) : Cmd := { mkCmd State.reset qs0 seq (hdr0 0) b with stage := st }
/-- Partition 0 without a Segment, an Extent of 64 KiB, the queue in slot 0, quotas, HQ enabled. -/
def d20 : State :=
  { setPart d0 0 { part0 with seg := none, want := [0, 1], stkUse := 1 } with
    ext := { d0.ext with tab := [(1, { emptyExt with valid := true })] },
    host := { hostReset with ctxs := [(1, ⟨.live, 0, false, 2⟩)], slots := [(0, some qs0)] },
    regs := { d0.regs with live := [(rHQ_CTL, some 1), (rPART 0 0x10, some 3), (rPART 0 0x14, some 100), (rPART 0 0x18, some 0x10101)] } }
/-- The queue is another one. -/
def withQ (f : QSlot → QSlot) (s : State) : State := { s with host := { s.host with slots := [(0, some (f qs0))] } }

/-- The hypotheses of a fetch, decided. -/
def fetchesB (s : State) (q : Nat) (h : CmdHdr) (ent : EntBody) : Bool :=
  slotsWf s && (match mayFetch s q h ent with | some x => !x.grpBad && x.cmds.all (fun c => c.seq != x.qr.head) | none => false)
    && !h.rsvNZ && (!h.sigen || (evtFault s h.evt h.evtRec).isNone)
/-- The queue fetched its entry as a command with this body and stage. -/
def took (u : State) (body : CmdBody) (st : Stage) : Bool :=
  match queueAt u 3 with
  | some y => y.qr.head == 5 && (y.cmds.getLast?.map (fun c => (c.body, c.stage, c.ctx))) == some (body, st, 1)
  | none => false

/-- The Event is resident. -/
def d21 : State := { d20 with host := { d20.host with evts := [(2, some ⟨evt0, [], 0⟩)] } }

/-- SIGNAL, PUBLISH, and WAIT below and at its threshold; a WAIT behind a command waits, and registers once it heads its queue. -/
theorem test_signal_wait_publish :
    fetchesB d21 3 (hdrT 5 0) (.wait 2 6) = true ∧ fetchesB d20 3 (hdrT 4 0) .signal = true ∧ fetchesB d20 3 (hdrT 6 0) .publish = true
    ∧ flagsBad (hdrT 5 0) 0 = false ∧ fetchesB d20 3 (hdrT 5 0) (.wait 2 6) = true ∧ headWait d20 3 (hdrT 5 0) 2 6 = none
    ∧ nextIs (exec (.wait 3 (hdrT 5 0) 2 6 none) d20) (fun u => u.flt.buf.map (fun r => (r.code, r.detail)) == [(FCode.hostAbort.code, 64)])
    ∧ nextIs (exec (.wait 3 (hdrT 5 0) 2 6 evt0) (withQ (fun x => { x with halted := true }) d21)) (fun u => took u (.wait 2 6) .queued)
    ∧ nextIs (exec (.signal 3 (hdrT 4 0)) d20) (fun u => took u .signal .queued)
    ∧ nextIs (exec (.publish 3 (hdrT 6 0)) d20) (fun u => took u .publish (.met 0))
    ∧ evtMatch 2 evt0 = true ∧ reached 5 6 = false ∧ reached 5 5 = true
    ∧ nextIs (exec (.wait 3 (hdrT 5 0) 2 6 evt0) d21) (fun u => took u (.wait 2 6) .running
        && (getEvt u 2).map (fun f => (f.waiters, f.er.ticket)) == some ([⟨3, 6, 9⟩], 10))
    ∧ nextIs (exec (.wait 3 (hdrT 5 0) 2 5 evt0) d21) (fun u => took u (.wait 2 5) (.ended 0 .none)
        && (getEvt u 2).map (fun f => (f.waiters, f.er.ticket)) == some ([], 10))
    ∧ nextIs (exec (.wait 3 (hdrT 5 0) 2 6 evt0) (withQ (fun x => { x with cmds := [cmd0 3 .signal .queued] }) d21))
        (fun u => took u (.wait 2 6) .queued && (getEvt u 2).map ResEvt.waiters == some [])
    ∧ (let s := withQ (fun x => { x with cmds := [{ cmd0 3 (.wait 2 6) .queued with hdr := hdrT 5 0 }] }) d21
       (headWait s 3 (hdrT 5 0) 2 6).isSome = true
       ∧ nextIs (exec (.wait 3 (hdrT 5 0) 2 6 evt0) s) (fun u => (cmdAt u 3 3).map Cmd.stage == some .running
          && (getEvt u 2).map (fun f => (f.waiters, f.er.ticket)) == some ([⟨3, 6, 9⟩], 10)) = true) := by
  decide +kernel

/-- A header of Table 9.4 for partition 0 of the small build: two cores in a row, 8 Tortes, 2 slots, one Segment. -/
def hdrBytes : List Byte :=
  natLe 4 0x4B41424D ++ natLe 4 0xA10100 ++ natLe 8 0x100 ++ natLe 8 9 ++ List.replicate 32 0 ++ natLe 4 0x02080202 ++ List.replicate 4 0
    ++ natLe 64 0x0101 ++ natLe 64 0x0101 ++ natLe 8 0 ++ natLe 8 1 ++ List.replicate 24 0 ++ natLe 8 65536 ++ List.replicate 16 0
/-- The tables of a Baked Program of one Segment. -/
def bp0 : Baked := ⟨[{ decl0 with secs := [] }], [], [], [], [], [], .none⟩
/-- An argument block with two values and no objects. -/
def args0 : HostCpl := .ok (natLe 4 11 ++ natLe 4 12 ++ List.replicate 120 0)
def run0 : RunBody := ⟨1, 0x1000, 99, 0⟩
/-- The Baked Program stands in the Extent. -/
def d22 : State := stkWrite d20 1 0 hdrBytes

/-- RUN. -/
theorem test_run :
    let pr := progOf d22 0 (hdr0 0) run0 none bp0
    fetchesB d22 3 (hdr0 0) (.run run0) = true ∧ argSize args0 = true ∧ tabsFit pr.hdr bp0 = true ∧ pr.hdr.nseg = 1 ∧ pr.hdr.progid = 9
    ∧ runForm (hdr0 0) run0 (argBlk d22 args0) = false
    ∧ lookup d22 1 0 0 0 256 false = .ok { emptyExt with valid := true } ∧ bakedReason d22 0 65536 (progBytes d22 0 false [] run0) pr.hdr bp0 = 0
    ∧ goneAtFetch d22 ((argBlk d22 args0).getD ⟨[], 0, false, []⟩) = false ∧ cplSize .abort 512 = true ∧ residencyOk d22 0 ((argBlk d22 args0).getD ⟨[], 0, false, []⟩) bp0.res = true
    ∧ nextIs (exec (.run 3 (hdr0 0) run0 ⟨args0, .abort⟩ bp0 .abort) d22) (fun u => u.flt.buf == []
        && (queueAt u 3).map (fun y => y.cmds.map (fun c => (c.stage, match c.body with | .run b ab p => (b, ab.s.take 2, p == pr) | _ => (run0, [], false))))
            == some [(.queued, (run0, [11, 12], true))]) = true
    ∧ nextIs (exec (.run 3 (hdr0 0) run0 ⟨.abort, .abort⟩ bp0 .abort) d22) (fun u => u.flt.buf.map FRec.code == [FCode.hostAbort.code]) := by
  decide +kernel

/-- FILL and COPY wait for their Segments; at the boundary that starts them their bytes are handed to the Store engine, or their reads are asked for. -/
def d23 (b : CmdBody) (s : State) : State := withQ (fun x => { x with cmds := [{ cmd0 3 b .queued with fetched := 7 }] }) s
/-- The built-in Segment that partition 0 runs. -/
def bulk0 (u : State) : Option Bulk := (getPart u 0).seg.bind Seg.bulk
/-- Its write of one Granule with these first four bytes is the last request of core 0. -/
def bulkWr (u : State) (g : Nat) (bs : List Byte) : Bool :=
  (u.stk.greqs.getLast?.map (fun r => (r.core, r.g, r.wr.map (fun w => w.2.take 4)))) == some (0, g, some bs)
theorem test_copy_fill :
    fetchesB d20 3 (hdrT 3 0) (.fill ⟨1, 65504, 32, 0xAABBCCDD⟩) = true ∧ fetchesB d20 3 (hdrT 2 0) (.copy ⟨1, 1, 0, 65504, 32, .abort⟩) = true
    ∧ nextIs (exec (.fill 3 (hdrT 3 0) ⟨1, 65504, 32, 0xAABBCCDD⟩) d20) (fun u => took u (.fill ⟨1, 65504, 32, 0xAABBCCDD⟩) .queued) = true
    ∧ nextIs (exec (.copy 3 (hdrT 2 0) ⟨1, 1, 0, 65504, 32, .abort⟩) d20) (fun u => took u (.copy ⟨1, 1, 0, 65504, 32, .abort⟩) .queued) = true
    ∧ (let s := d23 (.fill ⟨1, 65504, 32, 0xAABBCCDD⟩) d20
       atEdge s = true ∧ (pickLaunch s 0).map (fun x => (x.1, x.2.seq)) = some (3, 3) ∧ missedAt s 0 = [] ∧ partKey s 0 = 1
       ∧ (placeOf s 0 1 65504 32 true).2 = .stack 65504 1
       ∧ nextIs (exec (.segmentStart ⟨0, []⟩) s) (fun u => (bulk0 u).map (fun x => (x.done, x.dst)) == some (true, .stack 65504 1)
          && bulkWr u 2047 [0xDD, 0xCC, 0xBB, 0xAA] && (cmdAt u 3 3).map Cmd.stage == some .running) = true)
    ∧ (let s := d23 (.copy ⟨0, 1, 0x8000, 65504, 32, .ok (List.replicate 32 7)⟩) d20
       (placeOf s 0 0 0x8000 32 false).2 = .host 0x8000
       ∧ nextIs (exec (.segmentStart ⟨0, []⟩) s) (fun u => (bulk0 u).map (fun x => x.done) == some true && bulkWr u 2047 [7, 7, 7, 7]) = true) := by
  decide +kernel
theorem test_copy_reads :
    (let s := d23 (.copy ⟨1, 1, 0, 65504, 32, .abort⟩) (stkWrite d20 1 0 ([1, 2, 3, 4] ++ List.replicate 28 0))
     let u := after (.segmentStart ⟨0, []⟩) s
     (placeOf s 0 1 0 32 false).2 = .stack 0 1 ∧ (bulk0 u).map (fun x => (x.done, x.need, x.dst)) = some (false, 1, .stack 65504 1)
     ∧ u.stk.greqs.map (fun r => (r.core, r.g, r.served)) = [(0, 0, false)]
     ∧ (let v := after (.stackBurst 0 0) u
        v.stk.greqs.map (fun r => (r.served, bulkPart v r, (reqLand v r).isNone, (foundErr v 0 noErr).n)) = [(true, some 0, true, 0)]
        ∧ nextIs (exec (.stackReadData 0 noErr) v) (fun w => (bulk0 w).map (fun x => x.done) == some true && bulkWr w 2047 [1, 2, 3, 4]) = true)) := by
  decide +kernel

/-- LOAD_SLOT from the Extent for slot 1, and behind a WAIT; QUERYs of 8 bytes. -/
theorem test_load_slot_query :
    fetchesB d20 3 (hdrT 7 0) (.loadSlot ⟨2, 0, 1, 0x20, 0x100⟩) = true ∧ fetchesB d20 3 (hdrT 10 0) (.query ⟨2, 8, 0x5000⟩) = true ∧ lookup d20 1 0 0 0x20 0x100 false = .ok { emptyExt with valid := true } ∧ mcUp d20 = true
    ∧ nextIs (exec (.loadSlot 3 (hdrT 7 0) ⟨2, 0, 1, 0x20, 0x100⟩) d20) (fun u => took u (.loadSlot ⟨2, 0, 1, 0x20, 0x100⟩) .running
        && u.loads.map (fun l => (l.cmd, l.mask, l.stage)) == [(some (3, 4), [1], 0)] && u.flt.buf == [])
    ∧ nextIs (exec (.loadSlot 3 (hdrT 7 0) ⟨2, 0, 1, 0x20, 0x100⟩) (withQ (fun x => { x with cmds := [cmd0 3 (.wait 2 6) .running] }) d20))
        (fun u => took u (.loadSlot ⟨2, 0, 1, 0x20, 0x100⟩) .queued && u.loads == [])
    ∧ nextIs (exec (.queryCapability 3 (hdrT 10 0) ⟨0, 8, 0x5000⟩) d20) (fun u => took u (.query 0 ⟨0, 8, 0x5000⟩) (.ended 0 .none)
        && u.posts.contains (.write 0 false 0x5000 ((capability d20).take 8)))
    ∧ nextIs (exec (.queryInventory 3 (hdrT 10 0) ⟨1, 8, 0x5000⟩) d20) (fun u => took u (.query 1 ⟨1, 8, 0x5000⟩) (.ended 0 .none)
        && u.posts.contains (.write 0 false 0x5000 ((inventoryRec d20).take 8)))
    ∧ nextIs (exec (.queryInventory 3 (hdrT 10 0) ⟨1, 8, 0x5000⟩) { d20 with mc := mcReset }) (fun u => took u (.query 1 ⟨1, 8, 0x5000⟩) .queued)
    ∧ nextIs (exec (.queryQuota 3 (hdrT 10 0) ⟨2, 8, 0x5000⟩) d20) (fun u => took u (.query 2 ⟨2, 8, 0x5000⟩) (.ended 0 .none)
        && u.posts.contains (.write 0 false 0x5000 ((quotaReport d20 0).take 8))) := by
  decide +kernel

/-- MAP of the units left of the quota, at the lowest free index; of a region up to the row quota; a seal; an UNMAP. -/
theorem test_map_unmap :
    keyLive d20 0 = true ∧ stkLimit d20 0 = 3 ∧ freeIdx d20 3 1 = some 2 ∧ freeBase d20 2 = some 1
    ∧ freeStg (d20.ext.stg.length + 1) 0 d20.ext.stg = some 0
    ∧ nextIs (exec (.mapExtent 3 (hdrT 8 0) ⟨0, 1, 0, 0, 131072, 0x6000⟩) d20)
        (fun u => took u (.mapExtent ⟨0, 1, 0, 0, 131072, 0x6000⟩) .running && (getPart u 0).stkUse == 3 && u.ext.flip
          && (smGet none u.ext.stg 0).map (fun g => (g.idx, g.ent.valid, g.ent.base, g.ent.len, g.ent.packed)) == some (2, true, 1, 1, true))
    ∧ nextIs (exec (.mapRegion 3 (hdrT 8 0) ⟨1, 0, 0, 2, 50, 0x6000⟩) d20)
        (fun u => took u (.mapRegion ⟨1, 0, 0, 2, 50, 0x6000⟩) (.ended 0 .none) && rowUse (getPart u 0) == 100)
    ∧ nextIs (exec (.mapSeal 3 (hdrT 8 0) ⟨2, 0, 0, 0, 1, 0x6000⟩) d20)
        (fun u => took u (.mapSeal ⟨2, 0, 0, 0, 1, 0x6000⟩) .running
          && (smGet none u.ext.stg 0).map (fun g => (g.idx, g.ent.ro)) == some (1, true))
    ∧ nextIs (exec (.unmap 3 (hdrT 9 0) 1) d20) (fun u => smGet none u.ext.unmap 1 == some (3, 4)) := by
  decide +kernel

/-! ### Queues, contexts and Events -/

/-- The step goes on and changes nothing. -/
def stays (c : Instr) (s : State) : Bool := nextIs (exec c s) (fun u => u == s)

/-- A queue as its record reads: an entry to fetch, no saved WAIT; and one with a WAIT on Event 2 saved. -/
def found (q : Nat) : QFound := ⟨q, qr0, hdr0 0⟩
def foundWait (q : Nat) : QFound := ⟨q, { qr0 with wait := some ⟨2, 6, 9⟩ }, hdrT 5 0⟩
/-- The record that a WAIT completed ABORTED writes for it. -/
def abortRec (posts : List Post) (q : Nat) : Bool :=
  posts.any (fun p => match p with | .write _ _ a bs => a == (foundWait q).qr.cpl + 32 * 4 && bs.length == 24 | _ => false)

/-- HQ_OP: a VF's is ignored, one under way drops another, an identifier at the table's end answers 1; context 2 FREE and context 1 LIVE. -/
theorem test_hq_ops :
    stays (.qStop (.vf 1) 3) d20
    ∧ nextIs (exec (.evtFree .pf 0x100000 evt0) d20) (fun u => u.host.opRes == 1)
    ∧ nextIs (exec (.qStop .pf 3) { d20 with host := { d20.host with op := some (.ctx 1 false) } }) (fun u => u.host.opLost)
    ∧ nextIs (exec (.ctxCreate .pf 2 ⟨⟨0, true, 3, false⟩, true⟩) d20) (fun u => getCtx u 2 == ⟨.live, 0, true, 3⟩ && u.host.opRes == 0)
    ∧ nextIs (exec (.ctxCreate .pf 1 ⟨⟨0, true, 3, false⟩, true⟩) d20) (fun u => u.host.opRes == 2)
    ∧ nextIs (exec (.ctxCreate .pf 2 ⟨⟨0, true, 3, true⟩, true⟩) d20) (fun u => u.host.opRes == 3)
    ∧ nextIs (exec (.ctxCreate .pf 2 ⟨⟨0, true, 3, false⟩, false⟩) d20) (fun u => u.host.opRes == 4)
    ∧ nextIs (exec (.ctxDestroy .pf ⟨1, []⟩) (withQ (fun x => { x with cmds := [cmd0 4 .signal .queued] }) d20))
        (fun u => (getCtx u 1).st == .destroying && u.host.op == some (.ctx 1 true)
          && (queueAt u 3).map (fun y => (y.qr.stopped, y.cmds.map Cmd.stage)) == some (true, [.ended 2 .none]))
    ∧ nextIs (exec (.ctxReset .pf ⟨1, []⟩) (setPart (withQ (fun x => { x with cmds := [cmd0 4 .signal .queued] }) d20) 0
          { part0 with seg := some { seg0 with seq := 4 } }))
        (fun u => (getPart u 0).seg.map (fun g => (g.abort.map Abort.flt, g.status)) == some (some .none, 2)
          && (queueAt u 3).map (fun y => y.cmds.map Cmd.stage) == some [.queued])
    ∧ nextIs (exec (.ctxReset .pf ⟨2, []⟩) d20) (fun u => u.host.opRes == 2) := by
  decide +kernel

/-- Q_STOP of a resident, a running and another queue, Q_RESTART, Q_RESET with nothing and with something fetched, EVT_FREE with a waiter. -/
theorem test_queue_ops :
    slotsWf d20 = true ∧ queueRuns d20 3 = false ∧ queueRuns (setPart d20 0 part0) 3 = true
    ∧ nextIs (exec (.qStop .pf 3) d20) (fun u => (queueAt u 3).map (fun y => y.qr.stopped) == some true)
    ∧ nextIs (exec (.qStop .pf 3) (setPart d20 0 part0)) (fun u => (queueAt u 3).map (fun y => (y.qr.stopped, y.stopReq)) == some (false, true) && u.host.op == some (.qstop 3))
    ∧ nextIs (exec (.qStop .pf 65535) d20) (fun u => u.posts == [.setBit (qField d20 65535 25) 3 true])
    ∧ nextIs (exec (.qRestart .pf 3) (withQ (fun x => { x with qr := { x.qr with stopped := true } }) d20))
        (fun u => (queueAt u 3).map (fun y => y.qr.stopped) == some false)
    ∧ nextIs (exec (.qReset .pf (found 3) 9) (withQ (fun x => { x with qr := { x.qr with stopped := true } }) d20))
        (fun u => (queueAt u 3).map (fun y => (y.qr.head, y.qr.done, y.qr.stopped)) == some (9, 9, false) && u.host.op == none)
    ∧ nextIs (exec (.qReset .pf (found 3) 9) (withQ (fun x => { x with cmds := [cmd0 4 .signal .queued] }) d20))
        (fun u => (queueAt u 3).map (fun y => y.cmds.map Cmd.stage) == some [.ended 2 .none] && u.host.op == some (.qreset 3 9))
    ∧ nextIs (exec (.qReset .pf (foundWait 8) 9) d20) (fun u => u.host.opRes == 0 && abortRec u.posts 8
        && u.posts.contains (.write 0 false (qField d20 8 36) (natLe 4 9)))
    ∧ nextIs (exec (.qRestart .pf 8) d20) (fun u => u.posts == [.setBit (qField d20 8 25) 3 false])
    ∧ nextIs (exec (.evtFree .pf 2 evt0) (withQ (fun x => { x with cmds := [cmd0 4 (.wait 2 6) .running], wait := some ⟨2, 6, 9⟩ })
          { d20 with host := { d20.host with evts := [(2, some ⟨evt0, [⟨3, 6, 9⟩], 0⟩)] } }))
        (fun u => getEvt u 2 == none && u.posts.contains (.write 0 false (evField d20 2 24) [1, 0])
          && (queueAt u 3).map (fun y => (y.qr.stopped, y.wait, y.cmds.map Cmd.stage)) == some (true, none, [.ended 5 .none])) := by
  decide +kernel

/-- Q_RESET of a queue whose Segment runs: that command is aborted, the other one over, nothing is fetched; the last one to retire ends the reset. -/
theorem test_queue_reset :
    (let s := withQ (fun x => { x with cmds := [cmd0 4 .signal .running, cmd0 5 .signal .queued] })
        (setPart d20 0 { part0 with seg := some { seg0 with seq := 4 } })
     nextIs (exec (.qReset .pf (found 3) 9) s) (fun u => (queueAt u 3).map (fun y => y.cmds.map Cmd.stage) == some [.running, .ended 2 .none]
        && (getPart u 0).seg.map (fun g => (g.abort, g.status)) == some (some ⟨.none, [], 0⟩, 2) && (mayFetch u 3 (hdr0 0) .signal).isNone)) = true
    ∧ nextIs (exec (.commandRetire 3) (after (.qReset .pf (found 3) 9) (withQ (fun x => { x with cmds := [cmd0 4 .signal .queued] }) d20)))
        (fun u => (queueAt u 3).map (fun y => (y.qr.head, y.qr.done, y.cmds)) == some (9, 9, []) && u.host.op == none)
    ∧ nextIs (exec (.qRestart .pf 8) d20) (fun u => u.host.cands.contains 8) := by
  decide +kernel

/-- A doorbell whose 16 bits wrap above DONE, one of another partition's VF to a resident and to another queue, one of a queue in no slot;
a scan; a load with and without a saved WAIT, a record of wrong form, and an eviction. -/
theorem test_doorbells :
    slotOf d20 3 = some 0
    ∧ nextIs (exec (.hqDb (.vf 1) 0 ⟨3, 1, 0xF⟩ 2) (withQ (fun x => { x with qr := { x.qr with done := 0x1FFFF } }) d20))
        (fun u => (queueAt u 3).map (fun y => y.qr.tail) == some 0x20002)
    ∧ nextIs (exec (.hqDb (.vf 2) 0 ⟨3, 1, 0xF⟩ 2) d20) (fun u => u.flt.buf.map (fun r => (r.code, r.part)) == [(FCode.dbReject.code, some 1)])
    ∧ nextIs (exec (.hqDb (.vf 2) 0 ⟨8, 1, 0xF⟩ 2) d20) (fun u => u.flt.buf.map (fun r => (r.code, r.part)) == [(FCode.dbReject.code, some 1)])
    ∧ nextIs (exec (.hqDb .pf 0 ⟨8, 1, 0xF⟩ 2) { d20 with host := { d20.host with atomicEn := true } }) (fun u => u.host.dbMiss && u.host.scanReq
        && u.posts == [.setBit (liveReg64 d20 rHQ_OVF_BASE + 1) 0 true])
    ∧ nextIs (exec (.hqDb .pf 0 ⟨8, 1, 0xF⟩ 2) { d20 with host := { d20.host with atomicEn := false } }) (fun u => smGet false u.host.pendSet 8 == true && u.posts == [])
    ∧ nextIs (exec (.hqOvfKick .pf) d20) (fun u => u.host.scanReq)
    ∧ stays (.hqDb .pf 0 ⟨8, 1, 3⟩ 2) d20 ∧ stays (.hqDb .pf 0 ⟨8, 1, 0xF⟩ 2) { d20 with cfgDone := false } ∧ stays (.hqOvfKick (.vf 1)) { d20 with cfgDone := false }
    ∧ (getCtx d20 2).st = .free ∧ nextIs (exec (.hqDb (.vf 2) 0 ⟨8, 2, 0xF⟩ 2) d20) (fun u => u.host.dbMiss && u.flt.buf == [])
    ∧ scanDue { d20 with host := { d20.host with scanReq := true } } = true
    ∧ nextIs (exec (.ovfScan [3, 8] true [(3, 9)]) { d20 with host := { d20.host with scanReq := true } })
        (fun u => (queueAt u 3).map (fun y => y.qr.tail) == some 9 && !u.host.scanReq && u.host.cands == [8]
          && u.posts.contains (.setBit (liveReg64 d20 rHQ_OVF_BASE) 3 false)) := by
  decide +kernel
theorem test_residency :
    (let s := { d20 with host := { d20.host with slots := [], cands := [3] } }
     isNext s 0 (found 3) [] = true ∧ quotaRoom s 0 1 = true ∧ eligible s 0 qr0 = true
     ∧ nextIs (exec (.queueResidency 0 (.load 47 (found 3) evt0 [])) s) (fun u => getSlot u 47 == some qs0 && u.host.cands == []) = true
     ∧ nextIs (exec (.queueResidency 0 (.load 47 ⟨3, { qr0 with log2size := 5 }, hdr0 0⟩ evt0 [])) s)
        (fun u => u.flt.buf.map (fun r => (r.code, r.detail)) == [(FCode.queueForm.code, reasonDetail 1 0 3)] && u.host.slots == []) = true)
    ∧ (let s := { d21 with host := { d21.host with slots := [], cands := [3] } }
       nextIs (exec (.queueResidency 0 (.load 47 (foundWait 3) evt0 [])) s) (fun u => (getSlot u 47).map (fun y => y.cmds.map (fun c => (c.body, c.seq, c.stage)))
          == some [(.wait 2 6, 4, .running)] && (getEvt u 2).map ResEvt.waiters == some [⟨3, 6, 9⟩]) = true)
    ∧ (let s := { d20 with host := { d20.host with cands := [8], atomicEn := false } }
       let y : QFound := ⟨8, { qr0 with priority := 1 }, hdr0 0⟩
       mayTake s 0 qs0 y [] = true
       ∧ nextIs (exec (.queueResidency 0 (.evict 0 9 y [])) s) (fun u => getSlot u 0 == none && smGet false u.host.pendSet 3
          && u.posts.contains (.write 0 false (qField d20 3 36) (natLe 4 4 ++ natLe 4 4))) = true)
    ∧ stays (.queueResidency 0 (.evict 0 9 (found 8) [])) (setPart d20 0 part0) := by
  decide +kernel

/-- An Event with a waiter, and a signal to it with this value. -/
def d24 (v : W64) (e : EvtRec) (ws : List Waiter) : State :=
  withQ (fun x => { x with cmds := [cmd0 4 (.wait 2 6) .running], wait := some ⟨2, 6, 9⟩ })
    { d20 with host := { d20.host with evts := [(2, some ⟨e, ws, 0⟩)], sigs := [⟨2, v⟩] } }
/-- EVENT_SIGNAL: to the threshold, as a credit, lower, equal, half way round, and with another generation; a release by ticket order. -/
theorem test_event_signal :
    evtMatch 2 evt0 = true ∧ slotsWf (d24 6 evt0 []) = true
    ∧ nextIs (exec (.eventSignal evt0) (d24 6 evt0 [⟨3, 6, 9⟩])) (fun u => (getEvt u 2).map (fun y => (y.er.value, y.waiters)) == some (6, [])
        && (queueAt u 3).map (fun y => (y.wait, y.cmds.map Cmd.stage)) == some (none, [.ended 0 .none]))
    ∧ nextIs (exec (.eventSignal evt0) (d24 6 { evt0 with counted := true } [])) (fun u => (getEvt u 2).map (fun y => y.er.credit) == some 1)
    ∧ nextIs (exec (.eventSignal evt0) (d24 4 evt0 [])) (fun u => (getEvt u 2).map (fun y => (y.er.value, y.er.stale)) == some (5, 1))
    ∧ nextIs (exec (.eventSignal evt0) (d24 0x80000004 evt0 [])) (fun u => (getEvt u 2).map (fun y => (y.er.value, y.er.stale)) == some (0x80000004, 0))
    ∧ nextIs (exec (.eventSignal evt0) (d24 0x80000005 evt0 [])) (fun u => (getEvt u 2).map (fun y => (y.er.value, y.er.stale)) == some (5, 1))
    ∧ nextIs (exec (.eventSignal evt0) (d24 5 evt0 [])) (fun u => getEvt u 2 == some ⟨evt0, [], 0⟩ && u.host.sigs == [])
    ∧ nextIs (exec (.eventSignal evt0) (d24 6 { evt0 with gen := 1 } [])) (fun u => u.flt.buf.map (fun r => r.code) == [FCode.evtDropped.code])
    ∧ (let r := releaseEvt 4 { evt0 with counted := true, credit := 2 } [⟨1, 5, 3⟩, ⟨2, 9, 1⟩, ⟨3, 4, 0xFFFFFFFF⟩]
       r.1.credit = 0 ∧ r.2.1 = [⟨2, 9, 1⟩] ∧ r.2.2 = [⟨3, 4, 0xFFFFFFFF⟩, ⟨1, 5, 3⟩]) := by
  decide +kernel

/-- Table 10.9: the serial comparison. -/
theorem test_reached :
    reached 5 5 = true ∧ reached 5 6 = false ∧ reached 0 0xFFFFFFFF = true ∧ reached 0x7FFFFFFF 0 = true ∧ reached 0x80000000 0 = false := by
  decide +kernel

/-- EVENT_ABANDON; QUOTA_RESET of the one context, one Beat unit after it went over a stack quota of none. -/
theorem test_abandon_quota :
    nextIs (exec (.eventAbandon 2 evt0) (withQ (fun x => { x with cmds := [cmd0 4 (.wait 2 6) .running], wait := some ⟨2, 6, 9⟩ })
          { d20 with host := { d20.host with evts := [(2, some ⟨evt0, [⟨3, 6, 9⟩], 0⟩)], abandon := [(1, 0)] } }))
        (fun u => getEvt u 2 == none && u.posts.contains (.write 0 false (evField d20 2 22) [8])
          && (queueAt u 3).map (fun y => (y.qr.stopped, y.cmds.map Cmd.stage)) == some (true, [.ended 5 .none]))
    ∧ (let s := setPart { d20 with regs := { d20.regs with live := [(rPART 0 0x10, some 0), (rPART 0 0x1C, some 1)] }, beat := { d20.beat with b := 65536 } } 0
          { part0 with seg := none, overB := some 0, graceB := some 0, stkUse := 1 }
       grace s 0 = 1 ∧ overQuota s 0 = true ∧ quotaVictim s 0 = some 1
       ∧ nextIs (exec (.quotaReset ⟨0, []⟩) s) (fun u => u.flt.buf.map (fun r => r.code) == [FCode.quotaReset.code] && (getPart u 0).graceB == some 65536 && (getPart u 0).overB == some 0)
          = true) := by
  decide +kernel

/-! ### Retirement, Publication, Extents, digests -/

/-- The Baked Program as fetched. -/
def pr0 : Prog := progOf d22 0 (hdr0 0) run0 none bp0

/-- COMMAND_RETIRE: a SIGNAL at the front, with and without counts to add. -/
theorem test_command_retire :
    (let s := withQ (fun x => { x with cmds := [{ cmd0 4 .signal .queued with hdr := ⟨4, 0, true, false, evt0, 77, 2, 9⟩ }], qr := { x.qr with head := 5 } }) d20
     nextIs (exec (.commandRetire 3) s) (fun u => (queueAt u 3).map (fun y => (y.qr.done, y.cmds)) == some (5, [])
        && u.host.sigs == [⟨2, 9⟩] && u.posts.length == 3)) = true
    ∧ (let ab : ArgBlk := ⟨[], 1, false, [⟨1, 0, 0x1000, 64, 0x2000, false⟩]⟩
       let s := withQ (fun x => { x with cmds := [{ cmd0 4 (.run run0 ab pr0) (.ended 0 .none) with refc := true }], qr := { x.qr with head := 5 } })
          d20
       countAddrs (cmd0 4 (.run run0 ab pr0) (.ended 0 .none)) = [0x2000]
       ∧ nextIs (exec (.commandRetire 3) s) (fun u => (queueAt u 3).map (fun y => y.cmds.map Cmd.stage) == some [.counting 1]
          && u.posts.contains (.fetchAdd 0 0x2000 0xFFFFFFFFFFFFFFFF)) = true) := by
  decide +kernel

/-- PUBLICATION: in the Beat after the command was met, not in that Beat; a group of two with its PUBLISH; nothing with the twin link down. -/
theorem test_publication :
    (let s := { withQ (fun x => { x with cmds := [cmd0 4 (.fill ⟨1, 0, 32, 0⟩) (.met 0)], qr := { x.qr with head := 5 } }) d20 with
        beat := { d20.beat with b := 1 } }
     atEdge s = true ∧ pubHeld s = false
     ∧ nextIs (exec (.publication 3) s) (fun u => (queueAt u 3).map (fun y => (y.qr.done, y.cmds)) == some (5, []) && u.posts.length == 4) = true
     ∧ nextIs (exec (.publication 3) { s with beat := d20.beat }) (fun u => u.posts == []) = true)
    ∧ (let g : Cmd := { cmd0 4 (.fill ⟨1, 0, 32, 0⟩) (.met 0) with hdr := hdr0 0x10 }
       let s := { withQ (fun x => { x with cmds := [g, cmd0 5 .publish (.met 0)], qr := { x.qr with head := 6 } }) d20 with
        beat := { d20.beat with b := 1 } }
       isHold g = true ∧ (groupStretch { qs0 with cmds := [g, cmd0 5 .publish (.met 0)] }).map (fun l => l.length) = some 2
       ∧ groupStretch { qs0 with cmds := [g] } = none
       ∧ nextIs (exec (.publication 3) s) (fun u => (queueAt u 3).map (fun y => (y.qr.done, y.cmds)) == some (6, [])) = true
       ∧ pubHeld { s with twin := { s.twin with st := 2, primary := true } } = true) := by
  decide +kernel

/-- The Replay Record of a command has 512 bytes. -/
theorem test_replay_length : (replayRec d20 0 3 (cmd0 4 (.run run0 ⟨[], 0, false, []⟩ pr0) .queued) []).length = 512 := by decide +kernel

/-- EXT_STAGE_CMD, EXT_FLIP, the flip one Beat later, and the release of what it replaced. -/
def flipEdge (s : State) : State := { s with ext := { s.ext with flip := false, due := keysOf s.ext.stg }, beat := { s.beat with flipDue := s.ext.flip } }
def d25e : State := after .extFlipEffect (flipEdge (after (.extFlip .mc ⟨1, 0xF⟩) (after (.extStageCmd .mc ⟨1, 0xF⟩) { d20 with
  ext := { d20.ext with latch := [(0, 3)] } })))
theorem test_extents :
    nextIs (exec (.extStageCmd .mc ⟨1, 0xF⟩) { d20 with ext := { d20.ext with latch := [(0, 3)] } })
        (fun u => (smGet none u.ext.stg 0).map (fun g => (g.idx, g.ent.valid, g.ent.part, g.retained)) == some (1, true, 1, false))
    ∧ stays (.extStageCmd .pf ⟨1, 0xF⟩) d20 ∧ stays (.extStageCmd .mc ⟨1, 0xF⟩) { d20 with mc := mcReset } ∧ stays (.extFlip .mc ⟨1, 0xF⟩) { d20 with mc := mcReset }
    ∧ stays .extFlipEffect { d20 with beat := { d20.beat with flipDue := true, start := 0 }, now := 9 } ∧ stays (.extFlip .mc ⟨2, 0xF⟩) d20
    ∧ stays (.extStageCmd .mc ⟨1, 0xF⟩) { d20 with cfgDone := false } ∧ stays (.extStageCmd .mc ⟨1, 7⟩) d20 ∧ stays (.extFlip .mc ⟨1, 1⟩) d20
    ∧ stays .extFlipEffect { d20 with beat := { d20.beat with flipDue := true }, mc := mcReset }
    ∧ (let s := { d20 with ext := { d20.ext with errs := [(1, ⟨2, 0, 0⟩)] } }
       (rewritten s 2).ext.half = [2] ∧ (rewritten s 2).ext.errs = s.ext.errs
       ∧ (rewritten (rewritten s 2) 3).ext.errs = [] ∧ (rewritten (rewritten s 2) 3).flt.buf.map (fun r => (r.code, r.detail)) = [(FCode.extRestored.code, 65536)])
    ∧ d25e.ext.epoch = 1 ∧ d25e.ext.flip = false ∧ (extAt d25e 1).part = 1 ∧ (extAt d25e 1).vepoch = 1 ∧ (extAt d25e 1).rheld = true
    ∧ (smGet none d25e.ext.stg 0).map (fun g => (g.ent.part, g.retained)) = some (0, true)
    ∧ before16 (oldestEpoch d25e) 1 = false
    ∧ nextIs (exec .retainedRelease d25e) (fun u => (extAt u 1).rheld == false && u.ext.stg == [])
    ∧ nextIs (exec .retainedRelease (setPart d25e 0 part0)) (fun u => (extAt u 1).rheld && u.ext.stg != []) := by
  decide +kernel

/-- HOST_READ_COMPLETION of a landing (good and failed) and of the last FetchAdd; DIGEST_LEAF_DONE of the last leaf. -/
def d26e : State := after (.ldh (iss .load 9) ⟨1, 2, 1, 5, 32⟩) d1
theorem test_host_reads_digests :
    d26e.lands.map (fun l => (l.id, l.need)) = [(0, 1)]
    ∧ nextIs (exec (.hostReadCompletion 0 (.ok (List.replicate 32 7))) d26e) (fun u => u.lands.map (fun l => (l.need, l.data)) == [(0, List.replicate 32 7)])
    ∧ nextIs (exec (.hostReadCompletion 0 .poisoned) d26e) (fun u => u.lands == [] && u.flt.buf.map (fun r => r.code) == [FCode.hostAbort.code])
    ∧ (let s := withQ (fun x => { x with cmds := [cmd0 4 (.run run0 ⟨[], 0, false, []⟩ pr0) (.counting 1)], qr := { x.qr with head := 5 } })
          { d20 with host := { d20.host with atoms := [⟨6, 3, 4, 0⟩] } }
       nextIs (exec (.hostReadCompletion 6 (.ok [])) s) (fun u => (queueAt u 3).map (fun y => y.cmds) == some [] && u.host.atoms == [])) = true
    ∧ (let s := withQ (fun x => { x with cmds := [{ cmd0 4 (.run run0 ⟨[], 0, false, []⟩ pr0) .queued with jobs := 1 }], qr := { x.qr with head := 5 } })
          { d20 with host := { d20.host with jobs := [⟨8, 3, 4, 0, 2, false, 0, 1, 64, []⟩] } }
       nextIs (exec (.digestLeafDone 8 []) (stkWrite s 1 0 (List.replicate 64 1))) (fun u => u.host.jobs == []
          && (cmdAt u 3 4).map (fun c => (c.jobs, c.ins.map Prod.fst)) == some (0, [2])) = true
       ∧ s.host.jobs.map (mayHash s) = [true] ∧ s.host.jobs.map (fun j => leafSlots s j 0) = [true] ∧ stays (.digestLeafDone 8 []) (setPart s 0 part0)
       ∧ nextIs (exec (.digestLeafDone 8 []) { s with stk := { s.stk with errs := [(0, ⟨2, 0, 0⟩)] } })
          (fun u => u.host.jobs == [] && u.flt.buf.length == 1) = true) := by
  decide +kernel

/-! ### Registers and mailboxes -/

/-- The block as it is after its configuration. -/
def r0 : State := { State.reset with cfgDone := true }
/-- A write stays staged until GLB_APPLY and the boundary after it; a partition that is no rectangle is refused; BEAT_COUNT latches. -/
def d25 : State := after (.glbApply .pf ⟨1, 0xF⟩) (after (.regWrite .pf (rPART 1 0) 3 (.dword 0xF)) (after (.regWrite .pf (rPART 1 0x10) 7 (.dword 0xF)) r0))
/-- The boundary at which the apply takes effect. -/
def edge25 (s : State) : State :=
  after .beatBoundaryApply { s with beat := { s.beat with applyDue := true, b := 9 }, regs := { s.regs with due := s.regs.capt, capt := none } }
theorem test_registers :
    stagedReg (after (.regWrite .pf (rPART 1 0x10) 7 (.dword 0xF)) r0) (rPART 1 0x10) = 7
    ∧ liveReg d25 (rPART 1 0x10) = liveReg r0 (rPART 1 0x10) ∧ smGet none (d25.regs.capt.getD []) (rPART 1 0x10) = some 7 ∧ d25.regs.stage = [] ∧ captAt { d25 with regs := { d25.regs with due := d25.regs.capt } } (rPART 1 0x10) = some 7
    ∧ stays (.regWrite .mc (rPART 1 0x10) 7 (.dword 0xF)) r0
    ∧ stays .beatBoundaryApply { d25 with now := 9, beat := { d25.beat with applyDue := true } }
    ∧ stays (.regWrite .pf (rPART 1 0x10) 7 (.dword 7)) r0 ∧ stays (.glbApply (.vf 1) ⟨1, 0xF⟩) d25
    ∧ stays (.regWrite .pf (rPART 1 0x10) 7 (.dword 0xF)) State.reset ∧ stays (.glbApply .pf ⟨1, 0xF⟩) { d25 with cfgDone := false }
    ∧ stays (.regWrite .pf (rPART 1 0x10) 7 (.other 2)) r0 ∧ stays (.regWrite .pf (rPART 1 0x14) 7 (.qword 0xFF 0)) r0
    ∧ nextIs (exec (.regWrite .pf (rPART 1 0x10) 7 (.qword 0xFF 9)) r0) (fun u => stagedReg u (rPART 1 0x10) == 7 && stagedReg u (rPART 1 0x14) == 9)
    ∧ liveReg (edge25 d25) (rPART 1 0x10) = 7 ∧ (edge25 d25).regs.last = 9 ∧ (getPart (edge25 d25) 1).want = [0, 1]
    ∧ (let s := after (.glbApply .pf ⟨1, 0xF⟩) (after (.regWrite .pf (rPART 1 0) 5 (.dword 0xF)) r0)
       coresBad Config.build 5 = true ∧ (edge25 s).regs.partErr = true ∧ (getPart (edge25 s) 1).want = [])
    ∧ nextIs (exec (.beatCountLoRead .pf) { r0 with beat := { beatReset with b := 0x500000006 } })
        (fun u => u.posts == [.answer 6] && readReg u .pf 0x0010000C == 5) := by
  decide +kernel

/-- A mailbox of the PF: lock, deny, a word in, the ninth word refused, a word out; another partition's VF sees nothing. -/
theorem test_mailboxes :
    mbxOwn .pf 31 = true ∧ mbxOwn (.vf 1) 0 = true ∧ mbxOwn (.vf 1) 1 = false
    ∧ nextIs (exec (.mbxLockRead .pf 31) d0) (fun u => (getMbx u 31).lock == 0x0F00 && u.posts == [.answer 0])
    ∧ nextIs (exec (.mbxLockWrite (.vf 1) 0 ⟨0, 0xF⟩) (setMbx d0 0 { emptyMbx with lock := 0x0F00 })) (fun u => (getMbx u 0).deny && (getMbx u 0).lock == 0x0F00)
    ∧ nextIs (exec (.mbxLockWrite .pf 0 ⟨0, 0xF⟩) (setMbx d0 0 { emptyMbx with lock := 0x0F00 })) (fun u => (getMbx u 0).lock == 0)
    ∧ nextIs (exec (.mbxTxWrite .pf 16 true ⟨2, 0xF⟩) (after (.mbxTxWrite .pf 16 false ⟨1, 0xF⟩) d0)) (fun u => (getMbx u 16).tx == [(0x200000001, 0x0F00)])
    ∧ nextIs (exec (.mbxTxWrite .pf 16 true ⟨2, 0xF⟩) (setMbx d0 16 { emptyMbx with tx := List.replicate 8 (0, 0) }))
        (fun u => (getMbx u 16).txovf && (getMbx u 16).tx.length == 8)
    ∧ nextIs (exec (.mbxRxRead .pf 16) (setMbx d0 16 { emptyMbx with rx := [(0x700000000, 0)] })) (fun u => (getMbx u 16).rx == [] && u.posts == [.answer 7])
    ∧ nextIs (exec (.mbxLockRead (.vf 2) 0) d0) (fun u => u.posts == [.answer 0] && u.mbx == [])
    ∧ stays (.mbxTxWrite .pf 16 true ⟨2, 3⟩) d0 ∧ stays (.mbxLockRead .pf 31) { d0 with cfgDone := false } ∧ fnOn d0 .pf = true
    ∧ nextIs (exec (.mbxTake 31) (setMbx d0 31 { emptyMbx with tx := [(5, 1)] })) (fun u => (getMbx u 31).tx == [] && mcWords u 31 == [5]) := by
  decide +kernel

/-- A scrub period at its limits and below; a repair entry relayed to the area of position 2, whose CRC fails. -/
def scr (x : Nat) : State := { d0 with mc := { d0.mc with words := [(16, [BitVec.ofNat 64 (0x0201 + x * 65536)])] } }
def fuses0 : Fuses := ⟨true, 5, 0, 0, 0, 0, 0, true, 0, [], none, true⟩
theorem test_mc_messages :
    nextIs (exec (.scrubPeriod 16 0x1C0201) (scr 28)) (fun u => u.stk.period == 28 && (getMbx u 16).rx == [(0x0201, 0x8000)])
    ∧ nextIs (exec (.scrubPeriod 16 0x280201) (scr 40)) (fun u => u.stk.period == 40)
    ∧ nextIs (exec (.scrubPeriod 16 0x1B0201) (scr 27)) (fun u => u.stk.period == 35 && (getMbx u 16).rx == [(0x20201, 0x8000)])
    ∧ (let s := { d0 with mc := { d0.mc with words := [(16, [0x20101, 1, 2])] }, boot := { bootReset with fuses := some fuses0, desc := some ⟨1, 0, 0x1000, [], 0⟩ } }
       mcHas s 16 [0x20101, 1, 2] = true ∧ areaCap s = 254
       ∧ nextIs (exec (.repairRelay 16 0x20101 1 2 ⟨⟨[], []⟩, true⟩) s) (fun u => (getMbx u 16).rx == [(0x20101, 0x8000)] && (areaAt u 2).ents == []) = true) := by
  decide +kernel

/-! ### The Beat -/

/-- A block that acquires since Beat a, with the pin first in BEAT_SRC. -/
def acq0 (a : Option W64) : State :=
  { d20 with beat := { beatReset with st := .acquiring, acq := some ⟨true, a.isNone, a, none, none, none⟩, b := 1024 },
             regs := { d20.regs with live := [(rBEAT_SRC, some 0x0D)] } }
/-- ACQUIRE, its start on the local source, its time-out at 1,024 Beats, BEAT_LOST at 1,024. -/
theorem test_acquisition :
    nextIs (exec (.beatCtlAcquire .pf ⟨1, 0xF⟩) d20) (fun u => u.beat.st == .acquiring) ∧ stays (.beatCtlAcquire (.vf 1) ⟨1, 0xF⟩) d20
    ∧ nextIs (exec .acquisitionStart { d20 with beat := { beatReset with st := .acquiring, acq := some ⟨true, true, none, none, none, none⟩ } })
        (fun u => u.beat.st == .locked && u.beat.active == .loc && u.beat.acq == none)
    ∧ sources (acq0 none) = [.pin, .loc]
    ∧ nextIs (exec .acquisitionStart (acq0 none)) (fun u => u.beat.st == .acquiring && u.beat.acq == some ⟨true, false, some 1024, none, none, none⟩)
    ∧ nextIs (exec .acquisitionTimeout (acq0 (some 0))) (fun u => u.beat.st == .lost && u.flt.buf.map (fun r => r.code) == [FCode.beatLost.code])
    ∧ stays .acquisitionTimeout (acq0 (some 1))
    ∧ nextIs (exec .beatLost { d20 with beat := { beatReset with st := .holdover, holdcnt := 1024 } }) (fun u => u.beat.st == .lost)
    ∧ stays .beatLost { d20 with beat := { beatReset with st := .holdover, holdcnt := 1023 } } := by
  decide +kernel

/-- A pin frame carries 0x1F80; taken by an acquisition; compared in LOCKED; a broken one does nothing. -/
def syms0 : List PinSym := (List.range 128).map (fun k => pinSymbol (0x1F80 + k))
/-- The high times of its symbols, in cycles. -/
def highs0 : List Nat := syms0.map (fun x => match x with | .zero => 1024 | .marker => 2048 | .one => 3072)
theorem test_pin_frame :
    frameCount syms0 = some 0x1F80 ∧ frameCount (syms0.set 70 (if syms0.getD 70 .zero == .one then .zero else .one)) = none
    ∧ highs0.map symbolOf = syms0 ∧ highs0.length = 128
    ∧ nextIs (exec (.pinFrame (highs0.headD 0) (highs0.drop 1)) (acq0 (some 0))) (fun u => u.beat.acq == some ⟨true, false, some 0, some 0x2000, none, none⟩)
    ∧ stays (.pinFrame (highs0.headD 0) (highs0.drop 1)) { d20 with beat := { beatReset with b := 0x1FFF } }
    ∧ nextIs (exec (.pinFrame (highs0.headD 0) (highs0.drop 1)) { d20 with beat := { beatReset with b := 0x2000 } })
        (fun u => u.beat.cnterr && u.flt.buf.map (fun r => r.code) == [FCode.beatCount.code]) := by
  decide +kernel

/-- A short marker block with hop count 3 for Beat 5, on port 1. -/
def mk0 : List Byte := natLe 1 1 ++ natLe 1 3 ++ natLe 2 5 ++ List.replicate 56 0
def mkBlk : List Byte := mk0 ++ natLe 4 (crc32c mk0).toNat
def d26 : State :=
  setPort { d20 with beat := { beatReset with active := .marker, b := 5 }, regs := { d20.regs with live := [(rBEAT_SRC, some 0x100)] } } 1
    { emptyPort with en := true, st := 2, delay := 2000 }
theorem test_beat_block :
    mkBlk.length = 64 ∧ blockBeat d26 2000 2000 = 5 ∧ impliedEdge 2000 2000 = 4096
    ∧ nextIs (exec (.beatBlock 1 2000 mkBlk none) d26) (fun u => u.beat.hops == 3 && !u.beat.cnterr && u.flt.buf == [] && u.beat.mark == some (4096, 3) && (getPort u 1).rxB == 5)
    ∧ nextIs (exec (.beatBlock 1 2000 mkBlk none) { d26 with beat := { d26.beat with b := 6 } }) (fun u => u.beat.cnterr)
    ∧ nextIs (exec (.beatBlock 1 2000 (mkBlk.set 5 1) none) d26) (fun u => u == modPort d26 1 (fun x => { x with rxB := 5 })) := by
  decide +kernel

/-- An edge at the window's first cycle, one cycle before it, from another source; in HOLDOVER, the fourth; the time-out; the accumulator. -/
def pin0 (st : BState) (good : Nat) : State := { d20 with beat := { beatReset with st := st, active := .pin, good := good, holdcnt := 9 } }
theorem test_beat_edges :
    edgeCycle (pin0 .locked 0) .pin 4064 = some 4064 ∧ edgeCycle (pin0 .locked 0) .marker 4064 = none
    ∧ nextIs (exec (.beatEdge .pin 4064) (pin0 .locked 0)) (fun u => u.beat.b == 1 && u.beat.start == 4064 && u.beat.lens == [4064] && u.now == 4064)
    ∧ nextIs (exec (.beatEdge .pin 4127) (pin0 .locked 0)) (fun u => u.beat.start == 4127 && u.beat.edgeoff == 31)
    ∧ nextIs (exec (.beatEdge .pin 4063) (pin0 .locked 0)) (fun u => u.beat.b == 0 && u.beat.st == .holdover && u.beat.early
        && u.flt.buf.map (fun r => r.code) == [FCode.beatEarly.code])
    ∧ stays (.beatEdge .marker 4096) (pin0 .locked 0)
    ∧ nextIs (exec (.beatEdge .pin 4063) (pin0 .holdover 0)) (fun u => u.beat.outwin && u.beat.b == 0)
    ∧ nextIs (exec (.beatEdge .pin 4096) (pin0 .holdover 3)) (fun u => u.beat.st == .locked && u.beat.holdcnt == 0 && u.beat.b == 1)
    ∧ nextIs (exec (.beatEdge .pin 4096) (pin0 .holdover 2)) (fun u => u.beat.st == .holdover && u.beat.good == 3 && u.beat.holdcnt == 10)
    ∧ stays (.beatEdge .pin 4096) (pin0 .lost 0)
    ∧ nextIs (exec .beatEdgeTimeout (pin0 .locked 0)) (fun u => u.beat.st == .holdover && u.beat.start == 4128 && u.beat.b == 1)
    ∧ stays .beatEdgeTimeout d20 ∧ stays .holdoverEdge d20
    ∧ nextIs (exec .holdoverEdge (pin0 .holdover 0)) (fun u => u.beat.start == 4096 && u.beat.acc == 4096 * 256 && u.beat.holdcnt == 10) := by
  decide +kernel

/-- An acquisition locks on the pin or on a marker that it took, with the count carried; in a Beat without an edge it goes on, takes the local source, or the pin. -/
def acq1 (a : Option W64) (pin : Option W64) (mk : Option (W64 × Int × Nat)) (taken : Option BSrc) : State :=
  { pin0 .acquiring 0 with
    beat := { (pin0 .acquiring 0).beat with acq := some ⟨true, false, a, pin, mk, taken⟩, mark := mk.map (fun _ => (4090, 3)) },
    regs := { d20.regs with live := [(rBEAT_SRC, some 0x0D), (rBEAT_LOAD, some 77)] } }
theorem test_acquisition_locks :
    edgeCycle (acq1 (some 0) (some 40) none (some .pin)) .pin 4100 = some 4100
    ∧ nextIs (exec (.beatEdge .pin 4100) (acq1 (some 0) (some 40) none (some .pin))) (fun u => u.beat.st == .locked && u.beat.active == .pin
        && u.beat.b == 40 && u.beat.start == 4100 && u.beat.acq == none)
    ∧ nextIs (exec (.beatEdge .marker 4090) (acq1 (some 0) none (some (50, -4000, 3)) (some .marker))) (fun u => u.beat.st == .locked
        && u.beat.active == .marker && u.beat.hops == 3 && u.beat.b == 52 && u.beat.start == 4090)
    ∧ nextIs (exec .beatEdgeTimeout (acq1 none none none none)) (fun u => u.beat.acq == some ⟨true, true, none, none, none, none⟩ && u.beat.b == 1)
    ∧ pickSource ⟨true, false, some 0, none, none, none⟩ 256 [.pin, .loc] = some .loc
    ∧ (let s := acq1 (some 0) none none none
       nextIs (exec .beatEdgeTimeout { s with beat := { s.beat with b := 255 } })
          (fun u => u.beat.st == .locked && u.beat.active == .loc && u.beat.b == 77)) = true
    ∧ nextIs (exec .beatEdgeTimeout (acq1 (some 0) (some 40) none none)) (fun u => u.beat.acq == some ⟨true, false, some 0, some 40, none, some .pin⟩) := by
  decide +kernel

/-- An edge that ends its Beat: keys drawn and zeroised are done with, the firmware runs again, a training is over. -/
theorem test_beat_end :
    (let s := pin0 .locked 0
     s.held = [] ∧ s.beat.acq = none ∧ edgeCycle s s.beat.active 4096 = some 4096
     ∧ nextIs (exec (.beatEdge .pin 4096) (setPart (setPart s 1 { emptyPart with keySt := .drawing }) 2 { emptyPart with keySt := .zeroising }))
        (fun u => (getPart u 1).keySt == .live && (getPart u 2).keySt == .empty)
     ∧ nextIs (exec (.beatEdge .pin 4096) { s with mc := { s.mc with run := false, reboot := true } }) (fun u => mcUp u && !u.mc.reboot)) = true := by
  decide +kernel

/-- A lower source in HOLDOVER on the pin: the local one's fourth edge in consecutive Beats locks there. -/
theorem test_alternative :
    (let s := { pin0 .holdover 0 with regs := { d20.regs with live := [(rBEAT_SRC, some 0x0D)] } }
     lowerPref s .loc = true ∧ altCount s.beat .loc = 0
     ∧ nextIs (exec (.beatEdge .loc 4096) s) (fun u => u.beat.alt == [(.loc, 1)] && u.beat.altHit == [.loc] && u.beat.b == 0) = true
     ∧ nextIs (exec (.beatEdge .loc 4096) { s with beat := { s.beat with alt := [(.loc, 3)] } })
        (fun u => u.beat.st == .locked && u.beat.active == .loc && u.beat.b == 1) = true) := by
  decide +kernel

/-- A write of row 1 in cycle 30 is in the scratchpad after the fold at cycle 4096. -/
theorem test_fold :
    (let s := (writeRow d1 0 .move 3 0xFF [9] 30).1
     usesOrdered s = true ∧ smGet 0 s.spad 0xFF = 6 ∧ smGet 0 (commitRows s 4096).spad 0xFF = 9
     ∧ (rowView (commitRows s 4096) 1 4096).data = (rowView s 1 4096).data) := by
  decide +kernel

/-- GUARD_HOLD of a Torte active in cycle 4031; REALIGN_CHECK with its one member at the barrier, and without it. -/
def d30 : State := modCore d0 0 (fun c => { c with acts := [⟨5, 4000, 4032, 0, false, 0, 0, none, false⟩] })
theorem test_guard_realign :
    busyCores d30 = [0, 1] ∧ nextIs (exec .guardHold d30) (fun u => (getCore u 0).acts.any (fun a => a.torte == 5 && a.start == 4032 && a.stop == 4128 && a.kind == 3) && u.now == 4032)
    ∧ (let s := addCtr (modStrm { d0 with beat := { d0.beat with b := 1 } } 0 .control (fun x => { x with realign := some 0 })) 0 5 10 0
       beforePoint ⟨2, 8, [(0, .control)], [(0, 5, 0)]⟩ seg0 1 = true ∧ coreAt s 0 0 = some 0
       ∧ nextIs (exec (.realignCheck 0 0) s) (fun u => u.flt.buf == [] && seenAt (getCtr u 0 5) 4043 == 0) = true)
    ∧ nextIs (exec (.realignCheck 0 0) { d0 with beat := { d0.beat with b := 1 } }) (fun u => u.flt.buf.map (fun r => r.code) == [FCode.drift.code]
        && ((getPart u 0).seg.map (fun g => g.abort.isSome)) == some true) := by
  decide +kernel

/-! ### Segments -/

/-- The argument block as parsed. -/
def ab0 : ArgBlk := (argBlk d22 args0).getD ⟨[], 0, false, []⟩

/-- The RUN of queue 3, ready to start. -/
def d31 : State :=
  withQ (fun x => { x with cmds := [cmd0 4 (.run run0 ab0 pr0) .queued], qr := { x.qr with head := 5 } }) { d22 with beat := { d22.beat with b := 7 } }
/-- SEGMENT_START with its checks passed, and with a slot that is not there. -/
theorem test_segment_start :
    atEdge d31 = true ∧ pickLaunch d31 0 = some (3, cmd0 4 (.run run0 ab0 pr0) .queued) ∧ missedAt d31 0 = []
    ∧ launchFault d31 0 pr0 { decl0 with secs := [] } = none
    ∧ nextIs (exec (.segmentStart ⟨0, []⟩) d31) (fun u =>
        (getPart u 0).seg.map (fun g => (g.q, g.seq, g.idx, g.beat, g.ctx)) == some (3, 4, 0, 7, 1)
        && (cmdAt u 3 4).map (fun c => (c.stage, c.beat0)) == some (.running, some 7)
        && (List.range 3).map (fun n => smGet 0 (getCore u 1).s n) == [11, 12, 0] && smGet 0 (getCore u 0).sd 0 == 99)
    ∧ stays (.segmentStart ⟨0, []⟩) d20 ∧ stays (.segmentStart ⟨0, []⟩) { d31 with now := 1 } := by
  decide +kernel
theorem test_segment_start_refused :
    (let bp := { pr0 with tabs := { bp0 with slots := [⟨1, 0, 0, 0, 1, true⟩] } }
     let s := withQ (fun x => { x with cmds := [cmd0 4 (.run run0 ab0 bp) .queued], qr := { x.qr with head := 5 } }) { d22 with beat := { d22.beat with b := 1 } }
     nextIs (exec (.segmentStart ⟨0, []⟩) s) (fun u => u.flt.buf.map (fun r => r.code) == [FCode.slotIdent.code]
       && (queueAt u 3).map (fun y => y.qr.stopped) == some true && (getPart u 0).seg == none)) = true := by
  decide +kernel

/-- DESCRIPTOR_POP: a timed engine at its start point, a Load engine past it, a timed engine without a descriptor, cycle 4,128. -/
theorem test_descriptor_pop :
    (let s := modStrm d0 0 .move (fun x => { x with blk := none, queue := [⟨2, 0, 60, [1, 2, 3, 4], none, 5⟩], p := [(5, 9)] })
     startPoint s seg0 ⟨2, 0, 60, [1, 2, 3, 4], none, 5⟩ 0 = some 60
     ∧ nextIs (exec (.descriptorPop 0 .move 60) s) (fun u => (getStrm u 0 .move).queue == [] && (getStrm u 0 .move).blk == some ⟨60, none, 60, false⟩
        && (List.range 6).map (fun n => smGet 0 (getStrm u 0 .move).p n) == [1, 2, 3, 4, 0, 9]) = true)
    ∧ (let s := modStrm d0 0 .load (fun x => { x with blk := none, queue := [⟨2, 0, 60, [], none, 5⟩] })
       nextIs (exec (.descriptorPop 0 .load 80) s) (fun u => (getStrm u 0 .load).blk == some ⟨80, none, 80, false⟩)) = true
    ∧ nextIs (exec (.descriptorPop 0 .move 60) (modStrm d0 0 .move (fun x => { x with blk := none })))
        (fun u => u.flt.buf.map (fun r => r.code) == [FCode.segOverrun.code])
    ∧ (match exec (.descriptorPop 0 .move 4128) d0 with | .fault .noSuchPoint => true | _ => false) = true := by
  decide +kernel

/-- A Segment whose cores have all ended, of a command that runs. -/
def d32 : State :=
  [0, 1].foldl (fun s c => modCore s c (fun x => { x with segend := true, s := [(1, 5)] }))
    (withQ (fun x => { x with cmds := [cmd0 4 (.run run0 ab0 pr0) .running], qr := { x.qr with head := 5 } })
      (setPart d20 0 { part0 with seg := some { seg0 with seq := 4, limit := 9, cnt := { zeroCounts with clamp := 3 } } }))
/-- SEGMENT_END, SEG_LIMIT at the limit and before it, ABORT_COMPLETE with nothing left and with a write on its way. -/
theorem test_segment_end :
    nextIs (exec (.segmentEnd 0) d32) (fun u => (getPart u 0).seg == none && (getPart u 0).prevEnd.isSome && (getCore u 0).s == []
        && (cmdAt u 3 4).map (fun c => (c.cnt.clamp, c.segIdx)) == some (3, 1))
    ∧ (let s := modCore d32 1 (fun x => { x with segend := false })
       stays (.segmentEnd 0) s ∧ stays (.segLimit 0) { s with beat := { s.beat with b := 8 } }
       ∧ nextIs (exec (.segLimit 0) { s with beat := { s.beat with b := 9 } })
          (fun u => u.flt.buf.map (fun r => r.code) == [FCode.segLimit.code]) = true)
    ∧ (let s := modPart d32 0 (fun p => { p with seg := p.seg.map (fun g => { g with abort := some ⟨.seq 2, [], 0⟩, status := 1 }) })
       writesOut s (segTag s 0) = false
       ∧ nextIs (exec (.abortComplete 0) s) (fun u => (getPart u 0).seg == none
          && (queueAt u 3).map (fun y => (y.qr.stopped, y.cmds.map Cmd.stage)) == some (true, [.ended 1 (.seq 2)])) = true
        ∧ stays (.abortComplete 0) { s with stk := { s.stk with greqs := [⟨0, 0, 1, 0, false, 0, false, some (segTag s 0, []), []⟩] } }) := by
  decide +kernel

/-- The Segment's end on a port with a table: cell 100 with the rows of core 0, cell 101 not filled. -/
theorem test_segment_end_table :
    (let s := setPort d32 1 { emptyPort with en := true, st := 2, width := 4, on := true, tabs := [(0, some tab0)], sent := [⟨100, 0, 0x80, none, ⟨iss .move 9, 0, 0, []⟩⟩] }
     (getPort s 1).tab = some tab0 ∧ segOver s 0 ((getPart s 0).seg.getD seg0) = true
     ∧ (spanReads 0x80 256 (sendPoint 4 100 - 2)).all (fun r => (readFault s 0 .move none r).isNone) = true
     ∧ nextIs (exec (.segmentEnd 0) s) (fun u => (getPart u 0).seg == none && !(getPort u 1).on && (getPort u 1).outW == 4
        && (getPort u 1).out.map (fun x => (x.cidx, x.valid)) == [(100, true), (101, false)] && (getPort u 1).sent == []) = true) := by
  decide +kernel

/-! ### Landings, stores, stack pipelines -/

/-- The landing of d26e with its bytes, and the Granule request of an LDS. -/
def d33 : State := after (.hostReadCompletion 0 (.ok (List.replicate 32 7))) d26e
def d34 : State := after (.lds (iss .load 9) ⟨1, 4, 0, 5, 32⟩) (stkWrite d1 1 0x200 (List.replicate 32 3))
theorem test_landing :
    d33.lands.map (fun l => (landReady d33 l, landTurn d33 l, landBytes d33 l)) = [(true, true, some (List.replicate 32 7))] ∧ usesOrdered d33 = true
    ∧ nextIs (exec (.landing 0 50) d33) (fun u => (rowView u 1 51).data.take 2 == [7, 7] && (rowView u 1 50).data.take 2 == [5, 0]
        && u.lands == [] && seenAt (getCtr u 0 5) 53 == 1 && seenAt (getCtr u 0 5) 52 == 0)
    ∧ stays (.landing 0 50) d26e
    ∧ nextIs (exec (.landing 0 50) (modCore d33 0 (fun c => { c with bank := [(1, .off)] })))
        (fun u => u.lands == [] && u.flt.buf.map (fun r => r.code) == [FCode.darkWrite.code])
    ∧ (match exec (.landing 0 4128) d33 with | .fault .noSuchPoint => true | _ => false) = true := by
  decide +kernel

/-- STORE_READ of an STS and of an STH. -/
theorem test_store_read :
    (let s := after (.sts (iss .store 9) ⟨false, 1, 4, 0, 0, 32⟩) d1
     s.stores.map (fun r => (r.id, storeTurn s r)) = [(0, true)]
     ∧ nextIs (exec (.storeRead 0 50) s) (fun u => u.stores == [] && u.stk.greqs.map (fun r => (r.g, r.key, r.wr.map (fun w => w.2.take 2))) == [(16, 1, some [5, 0])]) = true)
    ∧ (let s := after (.sth (iss .store 9) ⟨false, 1, 4, 1, 0, 32⟩) d1
       nextIs (exec (.storeRead 0 50) s) (fun u => u.posts == [.write 0 true 0x1200 (5 :: List.replicate 31 0)]) = true) := by
  decide +kernel

/-- STACK_BURST of a read and of a write; STACK_READ_DATA without an error and with two symbols in error. -/
theorem test_stack_requests :
    d34.stk.greqs.map (fun r => (r.core, r.g % 64, r.served)) = [(0, 16, false)]
    ∧ nextIs (exec (.stackBurst 0 16) d34) (fun u => u.stk.greqs.map (fun r => (r.served, r.data)) == [(true, List.replicate 32 3)])
    ∧ stays (.stackBurst 0 17) d34
    ∧ (let s := after (.stackBurst 0 16) d34
       nextIs (exec (.stackReadData 16 noErr) s) (fun u => u.lands.map (fun l => (l.need, l.data)) == [(0, List.replicate 32 3)] && u.stk.greqs == []) = true
       ∧ nextIs (exec (.stackReadData 16 ⟨2, 0, 0⟩) s) (fun u => u.lands == [] && u.flt.buf.map (fun r => r.code) == [FCode.stackUe.code]) = true)
    ∧ (let s := { d1 with stk := { d1.stk with greqs := [⟨0, 64, 1, 0, false, 0, false, some (0, List.replicate 32 8), []⟩] } }
       nextIs (exec (.stackBurst 0 0) s) (fun u => stkRead u 1 2048 32 == List.replicate 32 8 && u.stk.greqs == []) = true) := by
  decide +kernel

/-! ### Owners, cores, banks, bindings -/

/-- A grant of an EMPTY key slot, a release of a LIVE one, and a release held up by a Segment. -/
theorem test_owners :
    nextIs (exec (.ownerGrant 1) (setPart d20 1 { emptyPart with grant := true }))
        (fun u => (getPart u 1).keySt == .drawing && (getPart u 1).oepoch == 1 && (getPart u 1).key == 16 && u.nextKey == 17)
    ∧ nextIs (exec (.ownerRelease ⟨0, [found 8]⟩) (modPart d20 0 (fun p => { p with release := true, link := some ⟨20, false, []⟩ })))
        (fun u => u.posts.contains (.setBit (qField d20 8 25) 3 true) && (getPart u 0).keySt == .zeroising && (getPart u 0).oepoch == 1 && (getPart u 0).key == 0 && (getPart u 0).link == none)
    ∧ stays (.ownerRelease ⟨0, []⟩) (modPart d0 0 (fun p => { p with release := true })) := by
  decide +kernel

/-- CORE_MOVE of a core whose partition no longer wants it: its rows are zero, in a bank that is OFF too. -/
theorem test_core_move :
    (let s := modCore { modPart d20 0 (fun p => { p with want := [0] }) with spad := [(65536 * 128, 5), (65536 * 128 + 128, 6)] } 1
        (fun c => { c with bank := [(1, .off)] })
     coreTarget s 1 = none
     ∧ nextIs (exec (.coreMove 1) s) (fun u => (getCore u 1).holder == none && (getCore u 1).moving && (getPart u 0).cores == [0]
        && u.spad == []) = true) := by
  decide +kernel

/-- A bank from OFF to ON wakes, from ON to OFF keeps its rows, and is ON in a later Beat. -/
theorem test_banks :
    nextIs (exec (.bankPowerChange 0 31) (modCore { d20 with spad := [(31 * 128, 5)] } 0 (fun c => { c with bank := [(31, .off)], want := [(31, some .on)] })))
        (fun u => smGet .on (getCore u 0).bank 31 == .waking && u.spad == [])
    ∧ nextIs (exec (.bankPowerChange 0 31) (modCore { d20 with spad := [(31 * 128, 5)] } 0 (fun c => { c with want := [(31, some .off)] })))
        (fun u => smGet .on (getCore u 0).bank 31 == .off && u.spad == [(31 * 128, 5)])
    ∧ (let s := modCore d20 0 (fun c => { c with bank := [(31, .waking)], wake := [(31, 3)] })
       nextIs (exec (.bankWakeDone 0 31) s) (fun u => smGet .on (getCore u 0).bank 31 == .on) = true
       ∧ stays (.bankWakeDone 0 31) { s with beat := { s.beat with b := 3 } }) := by
  decide +kernel

/-- PORT_BIND_EFFECT to and from service, SLOT_BIND_EFFECT, FIELD_REMAP. -/
theorem test_bindings_remap :
    nextIs (exec (.portBindEffect 1) { d20 with regs := { d20.regs with live := [(rBRD 1 0, some 9)] } })
        (fun u => (getPort u 1).en && (getPort u 1).part == 2)
    ∧ nextIs (exec (.portBindEffect 1) { setPort d20 1 { emptyPort with en := true, st := 2 } with regs := { d20.regs with live := [(rBRD 1 0, some 0)] } })
        (fun u => !(getPort u 1).en && (getPort u 1).st == 0 && (getPort u 1).reason == 8)
    ∧ nextIs (exec (.slotBindEffect 1) { d20 with regs := { d20.regs with live := [(rSLT 1 0, some 0x21)] } })
        (fun u => (getSlt u 1).en && (getSlt u 1).part == 0 && (getSlt u 1).core == 1)
    ∧ (let s := { d20 with mc := { d20.mc with remap := [(0, 1, 0, 3)] }, errs := [(4 * 97, ⟨1, 0, 5⟩)] }
       nextIs (exec (.fieldRemap true) s) (fun u => u.mc.repair == [(0, 1, 0, 3)] && u.mc.remap == [] && granErr u 97 0 == noErr
          && u.flt.buf.any (fun r => r.code == FCode.fieldRemap.code && r.detail == rowDetail 0 1 3)) = true) := by
  decide +kernel

/-! ### Faults, scrubbing, heat, functions -/

/-- A record of a corrected error of row (0, bank 1, logical row 3). -/
def ce0 (seq : W32) : FRec :=
  ⟨FCode.granuleCe.code, 1, false, false, 0, none, seq, seq, 0, 0, 0, 0, 0, [], 5, 0, 0, 0, rowDetail 0 1 3⟩
/-- MC_RECORD_READ stages a remap at the threshold; RING_WRITE with the last room and without; FLT_HEAD; FAULTN_CLEAR. -/
theorem test_records_ring :
    (let s := { d20 with flt := { fltReset with buf := [ce0 0], next := 1 }, mc := { d20.mc with rowCe := [(97, [4, 5, 6])] }, beat := { d20.beat with b := 7 } }
     ceThr s = 4 ∧ s.flt.buf.find? (unread s) = some (ce0 0) ∧ freeRemap s 0 1 = some 0
     ∧ nextIs (exec .mcRecordRead s) (fun u => u.mc.remap == [(0, 1, 0, 3)] && u.flt.mcNext == 1 && u.flt.retained == [ce0 0]) = true)
    ∧ (let s := { d20 with flt := { fltReset with buf := [ce0 63], next := 64 },
                           regs := { d20.regs with live := [(rFLT_BASE, some 0x7000), (rFLT_CTL, some 0x050D)] } }
       nextIs (exec .ringWrite s) (fun u => u.flt.buf == [] && u.flt.tail == 64 && u.posts == [.write 0 false (0x7000 + 63 * 64) (recBytes (ce0 63)), .msix 0 5]) = true
       ∧ stays .ringWrite { s with flt := { s.flt with buf := [ce0 64] } })
    ∧ nextIs (exec (.fltHeadWrite .pf ⟨9, 0xF⟩) { d20 with flt := { fltReset with tail := 7 } }) (fun u => u.flt.head == 7)
    ∧ nextIs (exec (.fltHeadWrite .pf ⟨6, 0xF⟩) { d20 with flt := { fltReset with tail := 7 } }) (fun u => u.flt.head == 6)
    ∧ stays (.fltHeadWrite (.vf 1) ⟨6, 0xF⟩) d20 ∧ stays (.fltHeadWrite .pf ⟨6, 1⟩) d20
    ∧ nextIs (exec (.faultnClear .pf) { d20 with flt := { fltReset with faultn := true } }) (fun u => !u.flt.faultn)
    ∧ stays (.faultnClear .pf) { d20 with flt := { fltReset with faultn := true }, mc := { d20.mc with dead := true } } := by
  decide +kernel

/-- SCRUB_ROW of the first rows; STACK_SCRUB of the last Granule. -/
theorem test_scrub :
    (let s := { d20 with errs := [(4, ⟨1, 0, 5⟩), (5, ⟨2, 0, 5⟩)] }
     scrubRows s 0 1 = 512 ∧ scrubAt s 0 1 0 = 0
     ∧ nextIs (exec .scrubRow s) (fun u => granErr u 1 0 == noErr && granErr u 1 1 == ⟨2, 0, 5⟩ && smGet 0 u.scrub.banks 1 == 1) = true)
    ∧ stackGrans tiny = 16384
    ∧ nextIs (exec (.stackScrub 16383 noErr) { d20 with stk := { d20.stk with scrub := 16383 } })
        (fun u => u.stk.scrub == 0 && u.stk.passes == 1 && u.flt.buf == []) := by
  decide +kernel

/-- The fourth hot sample, a third; a hot stack; THERM_CLEAR at 256 cool Beats and RESUME. -/
theorem test_heat :
    nextIs (exec (.dieSensorSample (105 :: List.replicate 15 104)) { d20 with therm := { d20.therm with overs := [(0, 3)] } })
        (fun u => u.therm.stop.isSome && smGet 0 u.therm.overs 0 == 4 && smGet 0 u.therm.overs 1 == 0)
    ∧ nextIs (exec (.dieSensorSample (105 :: List.replicate 15 104)) { d20 with therm := { d20.therm with overs := [(0, 2)] } })
        (fun u => u.therm.stop == none)
    ∧ nextIs (exec (.stackTempCheck [95]) d20) (fun u => u.therm.stop.isSome && (getStk u 0).temp == 95)
    ∧ nextIs (exec (.stackTempCheck [94]) d20) (fun u => u.therm.stop == none && u.flt.buf == [])
    ∧ (let s (n : Nat) : State := { d20 with therm := { d20.therm with stop := some (.none, 0), cool := n } }
       nextIs (exec .thermClear (s 256)) (fun u => u.therm.clear && u.flt.buf.map (fun r => r.code) == [FCode.thermClear.code]) = true
       ∧ stays .thermClear (s 255) ∧ stays (.resume .pf) (s 256)
       ∧ nextIs (exec (.resume .pf) (after .thermClear (s 256))) (fun u => u.therm.stop == none && u.therm.resume) = true) := by
  decide +kernel

/-- The watchdog at 2^20 Beats and one later; a VF's reset; D3hot. -/
theorem test_watchdog_functions :
    (let s (b : W64) : State := { d20 with beat := { d20.beat with b := b }, mc := { d20.mc with expiry := some 0 }, ext := { d20.ext with flip := true } }
     nextIs (exec (.watchdogExpiry true) (s 0x100000)) (fun u => u.mc.dead && !mcUp u && !u.ext.flip) = true
     ∧ nextIs (exec (.watchdogExpiry true) (s 0x100001)) (fun u => !mcUp u && u.mc.reboot && u.mc.restarts == 1 && u.mc.expiry == some 0x100001) = true)
    ∧ nextIs (exec (.functionLevelReset ⟨.vf 1, [found 8]⟩) (setMbx d20 0 { emptyMbx with lock := senderId (.vf 1) }))
        (fun u => queueAt u 3 == none && u.posts.contains (.setBit (qField d20 3 25) 3 true) && (getMbx u 0).lock == 0
          && u.posts.contains (.setBit (qField d20 8 25) 3 true))
    ∧ nextIs (exec (.functionLevelReset ⟨.pf, []⟩) d20) (fun u => u.host.flr == [0] && liveReg u rHQ_CTL == 0)
    ∧ nextIs (exec (.powerStateChange (.vf 16) true) d20) (fun u => fetchOff u 16 15)
    ∧ nextIs (exec (.powerStateChange (.vf 16) false) (after (.powerStateChange (.vf 16) true) d20)) (fun u => !fetchOff u 16 15) := by
  decide +kernel

/-! ### Braid ports and the twin -/

/-- A training that finds `n` good lanes on both ends, with 16 echoes of this one-way delay. -/
def obs0 (n delay : Nat) : TrainObs :=
  ⟨(List.range 4).map (fun k => ⟨true, n ≤ k, some ⟨k, 1, 5⟩, k == 2⟩), List.range 4, true, 1, 0, 5, 1, List.replicate 16 (2 * delay + 7, 7), 77, true⟩
/-- A module that answers at its second attempt. -/
def mod0 : ModObs := ⟨1, false, true, [24, 80, 1], List.replicate 71 65, [(4, 2125)], none⟩
/-- A parameter block with one root of certificate chains, and a module on port 1. -/
def par0 : ParamBlk := ⟨[0], 4, false, 0, 0, 0, 0, [0, 0x0103], [77], [], []⟩
/-- Port 1 of partition 0 in service, UP at width 4. -/
def d40 : State :=
  setPort { d20 with boot := { bootReset with params := some par0 } } 1 { emptyPort with en := true, st := 2, width := 4, delay := 100 }
/-- Port 1 in training. -/
def training (o : TrainObs) : State := modPort d40 1 (fun x => { x with st := 1, width := 0, train := some o })
/-- Training at 4, 3, 1 and no lanes, at the delay budget and above it, and from an unlisted root; a lost lane; reading the counters. -/
theorem test_training :
    trainWidth (obs0 4 0) = 4 ∧ trainWidth (obs0 3 0) = 2 ∧ trainWidth (obs0 1 0) = 1 ∧ trainWidth (obs0 0 0) = 0
    ∧ (obs0 4 0).lanes.map laneState = [(0, false, 0), (0, false, 1), (0, true, 2), (0, false, 3)] ∧ oneWayDelay (obs0 4 9) = 9
    ∧ trainReason d40 false (obs0 4 (delayBudget tiny false)) = 0 ∧ trainReason d40 false (obs0 4 (delayBudget tiny false + 1)) = 6
    ∧ trainReason d40 false { obs0 4 9 with root := 78 } = 7
    ∧ nextIs (exec (.brdCtlTrain .pf 1 (obs0 3 9) mod0) d40) (fun u => (getPort u 1).st == 1 && (getPort u 1).width == 0
        && (getPort u 1).train == some (obs0 3 9) && u.mc.inv == [⟨2, 1, 0, [24, 80, 1] ++ List.replicate 71 65⟩])
    ∧ (let u := endTraining (training (obs0 3 9)) 1
       (getPort u 1).st = 2 ∧ (getPort u 1).width = 2 ∧ (getPort u 1).peer = some (5, 1) ∧ (getPort u 1).delay = 9 ∧ u.flt.buf = [])
    ∧ (let u := endTraining (training (obs0 0 9)) 1
       (getPort u 1).st = 0 ∧ (getPort u 1).reason = 1 ∧ u.flt.buf.map (fun r => r.code) = [FCode.portDown.code])
    ∧ nextIs (exec (.brdCtlTrain .pf 0 (obs0 4 9) mod0) d40) (fun u => (getPort u 0).reason == 8)
    ∧ stays (.brdCtlTrain (.vf 1) 1 (obs0 4 9) mod0) d40 ∧ stays (.laneLost 0 1 (obs0 4 9)) d40
    ∧ nextIs (exec (.laneLost 1 2 (obs0 2 9)) d40) (fun u => (getPort u 1).st == 1 && (getPort u 1).lost == 2
        && u.flt.buf.any (fun r => r.code == FCode.linkFrame.code))
    ∧ nextIs (exec (.brdLostRead .pf 1) (after (.laneLost 1 2 (obs0 2 9)) d40)) (fun u => u.posts.getLast? == some (.answer 2) && (getPort u 1).lost == 0)
    ∧ nextIs (exec (.brdAuthRead (.vf 1) 1) d40) (fun u => u.posts == [.answer 0]) := by
  decide +kernel

/-- The Beat edge ends a training: the port is UP at width 2, or DOWN without signals. -/
theorem test_training_ends :
    (let s (o : TrainObs) : State := { training o with beat := (pin0 .locked 0).beat }
     nextIs (exec (.beatEdge .pin 4096) (s (obs0 3 9))) (fun u => (getPort u 1).st == 2 && (getPort u 1).width == 2 && (getPort u 1).train == none)
     && nextIs (exec (.beatEdge .pin 4096) (s (obs0 0 9))) (fun u => (getPort u 1).st == 0 && (getPort u 1).reason == 1)) = true := by
  decide +kernel

/-- The port has the partition's key and a receive entry of cell 32 for core 1; Beat 9. -/
def d41 : State :=
  let s := modPart d40 0 (fun p => { p with link := some ⟨20, true, []⟩, seg := some { seg0 with beat := 9 } })
  { modPort s 1 (fun x => { x with start := 9, rxB := 8, on := true,
                                   tabs := [(0, some ⟨4, [⟨32, 1, true, true, 1, 1, 0, 9, 0x400, 2, 7⟩]⟩)] }) with beat := { beatReset with b := 9 } }
/-- Cell 32 of Segment 9 with a payload, and the 32 cells of frame 1 with that one valid. -/
def cell0 : Cell := ⟨9, 32, true, List.replicate 256 4⟩
def cells0 : List Cell := cell0 :: (List.range 31).map (fun n => ⟨9, 33 + n, false, List.replicate 256 0⟩)
/-- What the statement on a good frame asks of it; frames whose tag or FEC is bad, and one of a port that is not UP. -/
theorem test_braid_frame :
    cells0.length = 32 ∧ (∀ x ∈ cells0, x.cidx < 1024 ∧ x.payload.length = 256) ∧ (placedCells 1 cells0).filter (fun x => x.valid) = [cell0]
    ∧ frameFields (frameHdr 33 true 5 1) = (1, true, 5, 1) ∧ (frameHdr 1 true 5 1).length = 8
    ∧ (getPart d41 (getPort d41 1).part).link = some ⟨20, true, []⟩ ∧ usableBeat d41 (getPort d41 1) = 9
    ∧ cellWidth (getPort d41 1) = 4 ∧ sendPoint 4 32 = 144 ∧ isLate d41 9 144 144 = false ∧ isLate d41 9 144 145 = true
    ∧ (let u := takeCell 1 144 9 d41 cell0
       (getPort u 1).rx = [⟨cell0, 9⟩] ∧ u.flt.buf = [])
    ∧ (takeCell 1 145 9 d41 cell0).flt.buf.map (fun r => r.code) = [FCode.linkLate.code]
    ∧ nextIs (exec (.braidFrame 1 100 ⟨true, (List.replicate 8344 0)⟩) d41) (fun u => (getPort u 1).auth == 1
        && u.flt.buf.map (fun r => r.code) == [FCode.linkAuth.code])
    ∧ nextIs (exec (.braidFrame 1 100 ⟨false, []⟩) d41) (fun u => (getPort u 1).lost == 1 && u.flt.buf.map (fun r => r.code) == [FCode.linkFrame.code])
    ∧ stays (.braidFrame 0 100 ⟨true, []⟩) d41
    ∧ (match exec (.braidFrame 1 4128 ⟨true, []⟩) d41 with | .fault .noSuchPoint => true | _ => false) = true := by
  decide +kernel

/-- CELL_LANDING in the cell's usable Beat: its two rows and its signal; another tag; a cell no entry covers. -/
def d42 (tag : BitVec 16) (cidx : Nat) : State :=
  modPort d41 1 (fun x => { x with rx := [⟨⟨tag, cidx, true, List.replicate 256 4⟩, 9⟩] })
theorem test_cell_landing :
    nextIs (exec (.cellLanding 1 32) (d42 9 32)) (fun u => (readSpan u 1 0x4FF 1 4000) == [4] && seenAt (getCtr u 1 7) 4000 == 1
        && (getPart u 0).seg.map (fun g => g.linked) == some true && u.flt.buf == [])
    ∧ nextIs (exec (.cellLanding 1 32) (d42 8 32)) (fun u => (getPort u 1).tagerr && u.flt.buf.map (fun r => r.code) == [FCode.cellSegtag.code])
    ∧ nextIs (exec (.cellLanding 1 33) (d42 9 33)) (fun u => (getPort u 1).unexp && u.flt.buf.map (fun r => r.code) == [FCode.cellUnexpected.code])
    ∧ nextIs (exec (.cellLanding 1 32) (modPart (d42 9 32) 0 (fun p => { p with cores := [0] })))
        (fun u => u.flt.buf.map (fun r => r.code) == [FCode.outOfPartition.code] && (getPort u 1).rx == [])
    ∧ stays (.cellLanding 1 31) (d42 9 32) := by
  decide +kernel

/-- NEW, OFFER and ACCEPT at once; ACCEPT of a key that marks this engine; NEW held up by a Segment. -/
theorem test_link_keys :
    nextIs (exec (.brdKeyNew .pf 1) d40) (fun u => ((getPart u 0).link.map (fun k => (k.ep, k.marked))) == some (true, [0]) && u.posts.length == 1 && u.nextKey == 17)
    ∧ nextIs (exec (.brdKeyOffer .pf 1) (modPart d40 0 (fun p => { p with link := some ⟨20, true, [3]⟩ }))) (fun u => u.posts == [.offer 1 20 true [3]])
    ∧ nextIs (exec (.brdKeyAccept .pf 1) (modPort d40 1 (fun x => { x with offer := some ⟨30, false, [4]⟩ })))
        (fun u => (getPart u 0).link == some ⟨30, false, [4, 0]⟩)
    ∧ nextIs (exec (.brdKeyAccept .pf 1) (modPort d40 1 (fun x => { x with offer := some ⟨30, false, [0]⟩ })))
        (fun u => (getPart u 0).link == none && u.flt.buf.map (fun r => r.code) == [FCode.keyDupid.code])
    ∧ nextIs (exec (.brdKeyNew .pf 1) d41) (fun u => (getPort u 1).keyOps == 1 && (getPart u 0).link == some ⟨20, true, []⟩)
    ∧ stays (.brdKeyNew (.vf 1) 1) d40 := by
  decide +kernel

/-- An attach as a twin for MIRROR: steps pass and an Extent, stack bytes and a row come over; with unequal Beats step 3 fails. -/
def d43 : State := { d20 with boot := { bootReset with params := some par0 }, regs := { d20.regs with live := [(rTWN_CTL, some 1)] } }
def att0 : AttachObs :=
  ⟨obs0 4 0, obs0 4 0, false, true, glbBuild tiny, 0xA1, 0, (List.range 16).map (fun p => liveReg64 d43 (rPART p 0)), true, 44, true,
    ⟨[⟨2, true, 0, 0, 1, 0, false, false, false, none⟩], [(65536, List.replicate 32 9)], [(65536, List.replicate 128 8)]⟩⟩
theorem test_twin_attach :
    attachFault d43 att0 = none
    ∧ nextIs (exec (.twnAttach .pf att0) d43) (fun u => u.twin.st == 1 && !u.twin.primary && u.twin.key == some 44 && u.twin.sync == some (true, 1)
        && (smGet emptyExt u.ext.tab 2).valid && smGet 0 u.stk.mem 65537 == 9 && smGet 0 u.spad (65536 * 128 + 127) == 8)
    ∧ nextIs (exec (.twnAttach .pf { att0 with beat := 1 }) d43) (fun u => u.twin.st == 0 && u.twin.step == 3
        && u.flt.buf.map (fun r => r.code) == [FCode.twinMismatch.code])
    ∧ stays (.twnAttach (.vf 1) att0) d43 ∧ stays (.twnAttach .pf att0) d20 := by
  decide +kernel

/-- A MIRROR primary; its twin; a command of queue 3 with agreement value 7. -/
def twin0 (st : Nat) (primary : Bool) : State := { d20 with twin := { twinReset with st := st, primary := primary, linkup := true } }
def agreed (s : State) : State := withQ (fun x => { x with cmds := [{ cmd0 4 (.run run0 ab0 pr0) .drain with value := some 7 }] }) s
theorem test_twin :
    nextIs (exec (.twnDetach .pf) (twin0 2 true)) (fun u => u.twin.detach) ∧ stays (.twnDetach .pf) d20
    ∧ nextIs (exec (.twnTakeover .pf) (twin0 3 false)) (fun u => u.twin.st == 4 && u.twin.takeover) ∧ stays (.twnTakeover .pf) (twin0 3 true)
    ∧ nextIs (exec .twinLinkDown (twin0 2 true)) (fun u => !u.twin.linkup && u.flt.buf.map (fun r => r.code) == [FCode.twinLink.code])
    ∧ nextIs (exec (.agreementMessage ⟨3, 4, 7⟩) (agreed (twin0 2 true))) (fun u => (cmdAt u 3 4).map (fun c => (c.stage, c.diverged)) == some (.met 0, false))
    ∧ nextIs (exec (.agreementMessage ⟨3, 4, 8⟩) (agreed (twin0 2 true))) (fun u => (cmdAt u 3 4).map (fun c => (c.stage, c.diverged)) == some (.drain, true)
        && u.flt.buf.map (fun r => r.code) == [FCode.twinDiverge.code])
    ∧ nextIs (exec (.agreementMessage ⟨3, 4, 8⟩) (twin0 3 false)) (fun u => u.twin.agrees == [⟨3, 4, 8⟩] && smGet 0 u.twin.done 3 == 5)
    ∧ (let s := after (.agreementMessage ⟨3, 4, 8⟩) (agreed (twin0 2 true))
       nextIs (exec (.twnResolveFail .pf 3) s) (fun u => (cmdAt u 3 4).map (fun c => (c.stage, c.diverged)) == some (.ended 1 (.seq 0), false)) = true
       ∧ nextIs (exec (.twnResolvePublishPrimary .pf 3) s) (fun u => (cmdAt u 3 4).map (fun c => c.stage) == some (.met 0) && u.twin.detach) = true)
    ∧ stays (.twnResolveFail .pf 3) d20
    ∧ nextIs (exec (.twinJournal ⟨0, true, .hostBytes [1]⟩) (twin0 2 false)) (fun u => u.twin.journal == [.hostBytes [1]]) ∧ stays (.twinJournal ⟨0, true, .hostBytes [1]⟩) d20
    ∧ nextIs (exec (.twinJournal ⟨1, true, .mapHandle 3 1⟩) (after (.twinJournal ⟨0, true, .mapHandle 3 2⟩) (twin0 2 false)))
        (fun u => u.twin.journal == [] && u.flt.buf.map (fun r => r.code) == [FCode.twinDiverge.code])
    ∧ nextIs (exec (.twinJournal ⟨0, true, .owner 0 false⟩) (twin0 2 false)) (fun u => (getPart u 0).release) := by
  decide +kernel

/-- A journal entry whose tag is bad; a resolution that detaches, and one that fails the twin's own command; a primary's value unlike the twin's, and like it. -/
theorem test_twin_side :
    nextIs (exec (.twinJournal ⟨0, false, .hostBytes [1]⟩) (twin0 2 false)) (fun u => u.flt.buf.map (fun r => r.code) == [FCode.linkAuth.code]
        && (getPort u 16).auth == 1 && u.twin.journal == [])
    ∧ nextIs (exec (.twinJournal ⟨0, true, .resolve 3 true⟩) (twin0 2 false)) (fun u => u.twin.detach)
    ∧ nextIs (exec (.twinJournal ⟨0, true, .resolve 3 false⟩) (after (.agreementMessage ⟨3, 4, 8⟩) (agreed (twin0 2 false))))
        (fun u => (cmdAt u 3 4).map (fun c => (c.stage, c.diverged)) == some (.ended 1 (.seq 0), false))
    ∧ (let s (v : BitVec 256) : State := { twin0 3 false with twin := { (twin0 3 false).twin with made := [⟨3, 4, v⟩] } }
       nextIs (exec (.agreementMessage ⟨3, 4, 8⟩) (s 7)) (fun u => u.twin.unfit && u.twin.made == [] && u.flt.buf.map (fun r => r.code) == [FCode.twinDiverge.code])
       && nextIs (exec (.agreementMessage ⟨3, 4, 8⟩) (s 8)) (fun u => !u.twin.unfit && u.twin.made == [] && smGet 0 u.twin.done 3 == 5)) = true := by
  decide +kernel

/-! ### Marzipan slots -/

/-- A public key, its SHA-384, and the key 0x22 wrapped under the image key 0x11. -/
def pubK : List Byte := natBe 97 0x4283c1d7365ce4788f29f8ebf234edffead6fe997fbea5ffa2d58cc9dfa7b1c508b05526f55b9ebb2040f05b48fb6d0e19475c99061e41b88ba52efdb8c1690471a61d867ed799729d9c92cd01dbd225630d84ede32a78f9e64664cdac512ef8c
def pubH : BitVec 384 := 0xd7759d5965e5bc63e87c3ce582bb36d7158df6f777e3c85fa24e0a3257e5dfba87102d8c8d17e34ee3d254bec43db915
def wrapK : List Byte := natBe 40 0x4eb07a2f3ff978e1fc0d54e79fcce09a98736ab884cf9cc5d57669df1b4c07cbfbb58f9bf1656376
/-- The 384 bytes of a stream header with SID 5 and one frame of 32 bytes, signed with that key. -/
def hdrS : List Byte :=
  natLe 4 0x4D5A5342 ++ [0, 1, 0, 0] ++ natLe 8 5 ++ natLe 4 1 ++ natLe 2 1 ++ List.replicate 10 0 ++ wrapK ++ dig48 pubH ++ pubK ++ List.replicate 39 0
    ++ natBe 96 0x99056e27da7b998da1eeec2904816c57fe935ed5837c37456c9fd14892d3f8c4749b66e3afb81d626356f3b55b4ddd819c45ef907ea927a1170e5699dd4d15a7c949095bf87e104f8259bc10eda55980346cfb8b5f474c8b2b195967a4aea7f
    ++ List.replicate 32 0
/-- The header of its frame 0 and the frame, sealed under the key 0x22. -/
def pay0 : List Byte := List.replicate 32 5
def frmHdr (fidx woff len : Nat) : List Byte := natLe 4 fidx ++ natLe 4 woff ++ natLe 4 len ++ natLe 4 (crc32c pay0).toNat ++ List.replicate 16 0
def frm0 (fidx woff len : Nat) : List Byte :=
  let c := gcmSeal (roundKeys (keyBytes 0x22)) (5 * 2 ^ 32 + fidx) (frmHdr fidx woff len) pay0
  frmHdr fidx woff len ++ c.1 ++ c.2
/-- An identity frame. -/
def idBytes : List Byte :=
  let b := natLe 4 0x44495A4D ++ natLe 1 0 ++ natLe 1 1 ++ natLe 2 0 ++ natLe 4 7 ++ natLe 2 3 ++ natLe 2 40 ++ natLe 2 1 ++ natLe 2 3 ++ natLe 2 4
    ++ List.replicate 38 0
  b ++ natLe 4 (crc32c b).toNat
/-- A load of slot 1 at a stage, from 464 bytes of host memory: by the LOAD_SLOT of queue 3, or a start-up stream. -/
def load0 (cmd : Option (Nat × BitVec 32)) (stage tries : Nat) : Load :=
  { newLoad cmd (.host 0 464) [1] with
    stage := stage, sid := 5, nfrm := if stage == 0 then 0 else 1, skey := 0x22, next := if stage < 3 then 0 else 1, tries := tries, zero := if stage == 3 then some idBytes else none, bytes := [1, 2] }
def par1 : ParamBlk := { par0 with signers := [pubH] }
def d50 (cmd : Option (Nat × BitVec 32)) (stage tries : Nat) : State :=
  { d20 with boot := { bootReset with params := some par1, fuses := some { fuses0 with imgkey := 0x11 } }, loads := [load0 cmd stage tries] }
/-- The header is signed by a listed signer, and its key unwraps; others fail. -/
theorem test_slot_header :
    hdrReason (d50 none 0 0) hdrS = 0 ∧ unwrapKey (d50 none 0 0) ((hdrS.drop 32).take 40) = some 0x22
    ∧ loadRead (d50 none 0 0) (load0 none 0 0) (.ok hdrS) = (d50 none 0 0, .bytes hdrS)
    ∧ hdrReason d20 [] = 1 ∧ hdrReason d20 (hdrS.set 5 2) = 2 ∧ hdrReason d20 (hdrS.set 352 1) = 1 ∧ hdrReason d20 hdrS = 3 := by
  decide +kernel
/-- A frame sealed under the stream key of a load opens. -/
theorem sealed_opens (l : Load) (h p : List Byte) (hh : h.length = 32) (hk : ∀ k ∈ roundKeys (keyBytes l.skey), k.length = 16)
    (hn : roundKeys (keyBytes l.skey) ≠ []) (hf : crc32c p = BitVec.ofNat 32 (leNat ((h.drop 12).take 4))) (c : List Byte × List Byte)
    (e : c = gcmSeal (roundKeys (keyBytes l.skey)) (l.sid * 2 ^ 32 + leNat (h.take 4)) h p) : openSlotFrame l (h ++ c.1 ++ c.2) = some p := by
  have hc : c.1.length = p.length := by rw [e]; exact gcmCrypt_length _ _ _ hk hn
  have ht : c.2.length = 16 := by
    rw [e]; simp [gcmSeal, gcmTag, xorBytes_length, natBe, natLe_length, aesEnc_length _ _ hk hn (ctrBlock_length _ _)]
  have hg := gcmOpen_gcmSeal (roundKeys (keyBytes l.skey)) (l.sid * 2 ^ 32 + leNat (h.take 4)) h p hk hn
  rw [← e] at hg
  have h1 : (h ++ c.1 ++ c.2).take 32 = h := by rw [List.append_assoc]; exact List.take_left' hh
  have h2 : (h ++ c.1 ++ c.2).drop 32 = c.1 ++ c.2 := by rw [List.append_assoc]; exact List.drop_left' hh
  have h3 : (h ++ c.1 ++ c.2).length - 48 = p.length := by simp [hh, hc, ht]; omega
  have h4 : (h ++ c.1 ++ c.2).take 4 = h.take 4 := by rw [List.append_assoc, List.take_append_of_le_length (by omega)]
  have h5 : ((h ++ c.1 ++ c.2).drop 12).take 4 = (h.drop 12).take 4 := by
    rw [List.append_assoc, List.drop_append_of_le_length (by omega), List.take_append_of_le_length (by simp [hh])]
  have h6 : (h ++ c.1 ++ c.2).drop (32 + p.length) = c.2 := List.drop_left' (by simp [hh, hc])
  unfold openSlotFrame
  simp only [h1, h2, h3, h4, h5, h6, List.take_left' hc, hg, hf, beq_self_eq_true, if_true]
theorem keys22 : (roundKeys (keyBytes 0x22)).all (fun k => k.length == 16) = true ∧ (roundKeys (keyBytes 0x22)).isEmpty = false := by
  decide +kernel
theorem frm0_opens (stage tries woff len : Nat) : openSlotFrame (load0 none stage tries) (frm0 0 woff len) = some pay0 :=
  sealed_opens (load0 none stage tries) (frmHdr 0 woff len) pay0 (by simp [frmHdr, natLe_length]) (fun k hk => by simpa using List.all_eq_true.1 keys22.1 k hk)
    (fun h => by have := keys22.2; rw [show roundKeys (keyBytes 0x22) = [] from h] at this; exact absurd this (by decide))
    (by simp [frmHdr, natLe]; decide +kernel) _ (by simp only [frmHdr, natLe]; rfl)

/-- Frame 0 opens; a window past the slot's last one; another order; a tag that is bad. -/
theorem test_slot_frame :
    (let s := d50 none 2 3
     nextIs (.next (takeFrame s (load0 none 2 3) (frmHdr 0 0 32) pay0))
        (fun u => u.loads.map (fun l => (l.stage, l.next, l.tries, l.zero)) == [(3, 1, 0, some pay0)] && u.posts == [.frame [1] 0 pay0, .readback 1]))
    ∧ (let u := takeFrame (d50 none 2 0) (load0 none 2 0) (frmHdr 0 16 32) pay0
       u.loads = [] ∧ (getSlt u 1).st = 3 ∧ (getSlt u 1).reason = 7 ∧ u.flt.buf.map (fun r => r.code) = [FCode.slotBootload.code])
    ∧ (getSlt (takeFrame (d50 none 2 0) (load0 none 2 0) (frmHdr 1 0 32) pay0) 1).reason = 6
    ∧ streamShort (d50 none 2 0) (load0 none 2 0) = false
    ∧ (let l := { load0 none 2 0 with src := .host 0 465 }
       (getSlt (takeFrame { d50 none 2 0 with loads := [l] } l (frmHdr 0 0 32) pay0) 1).reason = 9)
    ∧ loadRead (d50 none 2 0) (load0 none 2 0) (.ok (List.replicate 80 0)) = (d50 none 2 0, .bytes (List.replicate 80 0))
    ∧ openSlotFrame (load0 none 2 0) (List.replicate 80 0) = none
    ∧ nextIs (exec (.slotFrame (.ok (List.replicate 80 0))) (d50 none 2 2)) (fun u => u.loads.map (fun l => l.tries) == [3])
    ∧ nextIs (exec (.slotFrame (.ok (List.replicate 80 0))) (d50 none 2 3)) (fun u => (getSlt u 1).reason == 5) := by
  decide +kernel
/-- The edge that begins a Beat 4,096 cycles on. -/
def edge1 (s : State) : State := { s with now := 4096, beat := { s.beat with start := 4096 } }
theorem test_slot_load :
    (parseIdent idBytes).map (fun d => (d.latency, d.ratio, d.lo, d.hi)) = some (40, 2, 3, 4)
    ∧ nextIs (exec (.slotIsolate 1) (edge1 (d50 none 1 0))) (fun u => (getSlt u 1).iso && (getSlt u 1).srst && (getSlt u 1).st == 1
        && u.loads.map (fun l => l.stage) == [2])
    ∧ stays (.slotIsolate 1) (d50 none 1 0)
    ∧ nextIs (exec (.slotReadback 1 idBytes) (d50 none 3 0)) (fun u => u.loads.map (fun l => (l.stage, l.ids.map Prod.fst)) == [(4, [1])])
    ∧ stays (.slotFrame (.ok [])) (d50 none 0 0)
    ∧ stays (.slotIsolate 1) d20 ∧ stays .slotReady d20 ∧ stays .framePortTimeout (d50 none 1 0) := by
  decide +kernel
theorem test_slot_load_ends :
    nextIs (exec (.slotReadback 1 []) (d50 none 3 0)) (fun u => (getSlt u 1).reason == 8)
    ∧ nextIs (exec .framePortTimeout (d50 none 2 0)) (fun u => (getSlt u 1).reason == 9)
    ∧ (let s := withQ (fun x => { x with cmds := [cmd0 4 (.loadSlot ⟨2, 1, 1, 0, 464⟩) .running] }) (d50 (some (3, 4)) 0 0)
       mcUp s = true ∧ nextIs (exec (.slotFrame .abort) s) (fun u => u.slots == [] && u.loads == [] && u.flt.buf.map (fun r => r.code) == [FCode.slotLoad.code]
          && (queueAt u 3).map (fun y => y.qr.stopped) == some true) = true)
    ∧ nextIs (exec .slotReady (edge1 { d20 with loads := [{ load0 none 4 0 with ids := [(1, ⟨7, 3, 40, 2, false, 3, 4⟩)] }] }))
        (fun u => (getSlt u 1).st == 2 && !(getSlt u 1).srst && (getSlt u 1).rstTo == 4128 && (getMeas u 9).extcnt == 1 && u.loads == []) := by
  decide +kernel
/-- A read from an Extent: within it, past its end, with requests of all cores at its Granule, of a handle that is bad. -/
def loadX (h : W32) (off : Nat) : Load := { load0 none 0 0 with src := .extent h 0 off 464 }
theorem test_slot_extent :
    (match lookup d20 1 0 d20.ext.epoch 0x40 384 false with | .ok e => e == { emptyExt with valid := true } | .bad _ => false) = true
    ∧ d20.stk.out = false ∧ smGet noErr d20.ext.errs (hIdx 1 / 2) = noErr
    ∧ (stkSpan 0x40 384).all (fun g => mgmtSlot d20 g && smGet noErr d20.stk.errs g == noErr)
    ∧ (match (loadRead d20 (loadX 1 0x40) .abort).2 with | .bytes b => b.length == 384 | _ => false) = true
    ∧ (let s := { d20 with stk := { d20.stk with greqs := (List.range 4).map (fun c => ⟨c, 2, 0, 0, false, 0, false, none, []⟩) } }
       mgmtSlot s 2 = false ∧ loadRead s (loadX 1 0x40) .abort = (s, .wait))
    ∧ (loadRead d20 { loadX 1 0 with src := .extent 1 0 0 383 } .abort).2 = .fail ∧ (loadRead d20 (loadX 77 0) .abort).2 = .fail := by
  decide +kernel
theorem test_spurious :
    (let s (n : BitVec 16) : State := setSlt d20 1 { emptySlt with en := true, spur := n }
     nextIs (exec (.slotSpuriousOutput 1) (s 0xFFFE)) (fun u => (getSlt u 1).spur == 0xFFFF) = true ∧ stays (.slotSpuriousOutput 1) (s 0xFFFF)
     ∧ nextIs (exec (.sltErrRead .pf 1) (s 3)) (fun u => (getSlt u 1).spur == 0 && u.posts == [.answer 3]) = true) := by
  decide +kernel

/-! ### Start-up and SPDM -/

/-- A block in phase `ph` with fuses. -/
def boot0 (ph : Nat) : State := { State.resetOf tiny with boot := { bootReset with phase := ph, fuses := some fuses0 } }
/-- A reset by POR_ST_N, and SRST_N below 100 ns and of 1 µs, which keeps fuses and retained records. -/
theorem test_resets :
    nextIs (exec .porst { d20 with flt := { fltReset with retained := [ce0 0] } }) (fun u => u.boot.phase == 1 && u.cfgDone == false && u.flt.retained == [])
    ∧ stays (.srst 99) d20
    ∧ nextIs (exec (.srst 1000) { boot0 7 with flt := { fltReset with retained := [ce0 0] } })
        (fun u => u.boot.phase == 1 && u.boot.soft && u.boot.fuses == some fuses0 && u.flt.retained == [ce0 0]) := by
  decide +kernel

/-- A boot descriptor with its CRC. -/
def descB : List Byte := natLe 4 0x54445342 ++ natLe 1 1 ++ List.replicate 7 0 ++ natLe 4 0x1000 ++ List.replicate 44 0
def desc0 : List Byte := descB ++ natLe 4 (crc32c descB).toNat
/-- A unit that is read, and one with the group's line low. -/
def rd (b : List Byte) : UnitRead := ⟨some b, false⟩
def rdLow (b : List Byte) : UnitRead := ⟨some b, true⟩
/-- BOOT_ROM_START and its failures; BOOT_DESCRIPTOR accepted, read again, rejected at the fourth read, held by the group, and a flash that does not respond. -/
theorem test_boot_start :
    nextIs (exec (.bootRomStart fuses0) (State.resetOf tiny)) (fun u => u.boot.phase == 2 && !u.boot.err && u.boot.fuses == some fuses0)
    ∧ nextIs (exec (.bootRomStart { fuses0 with pkhash := 0 }) (State.resetOf tiny)) (fun u => u.boot.err && u.boot.reason == 1)
    ∧ nextIs (exec (.bootRomStart { fuses0 with sfdpOk := false }) (State.resetOf tiny)) (fun u => u.boot.err && u.boot.reason == 2)
    ∧ descOk desc0 = true
    ∧ nextIs (exec (.bootDescriptor (rd desc0) [5]) (boot0 2)) (fun u => u.boot.cert == [5] && u.boot.phase == 3 && u.boot.desc.map (fun d => d.rsize) == some 0x1000)
    ∧ nextIs (exec (.bootDescriptor (rdLow desc0) []) (boot0 2)) (fun u => u.boot.phase == 2 && u.boot.acc && u.boot.reads == 1)
    ∧ nextIs (exec (.bootDescriptor (rd []) []) (boot0 2)) (fun u => u.boot.retry && u.boot.reads == 1)
    ∧ nextIs (exec (.bootDescriptor ⟨none, false⟩ []) (boot0 2)) (fun u => u.boot.err && u.boot.reason == 10)
    ∧ (let s := boot0 2
       nextIs (exec (.bootDescriptor (rd []) []) { s with boot := { s.boot with reads := 3 } })
        (fun u => u.boot.err && u.boot.reason == 2 && u.boot.unit == 0xFFFFFFFF)) = true := by
  decide +kernel

/-- The 4,096 bytes of an image header of three sections of one frame each, of four bytes of 1, signed with the key of the slot streams. -/
def dig1 : BitVec 384 := sha384 (List.replicate 4 1)
def sec0 (type first : Nat) (d : BitVec 384) : List Byte := natLe 4 type ++ natLe 4 first ++ natLe 4 1 ++ natLe 4 4 ++ dig48 d
def hdrI (d : BitVec 384) : List Byte :=
  natLe 4 0x47494D4E ++ [0, 1, 0, 0] ++ natLe 8 5 ++ natLe 8 3 ++ natLe 4 (4096 + 4128 * 3) ++ natLe 4 3 ++ wrapK ++ pubK ++ List.replicate 7 0
    ++ natLe 4 3 ++ List.replicate 12 0 ++ sec0 1 0 d ++ sec0 2 1 d ++ sec0 3 2 d ++ List.replicate 832 0
    ++ natBe 96 0x99056e27da7b998da1eeec2904816c57fe935ed5837c37456c9fd14892d3f8c4749b66e3afb81d626356f3b55b4ddd89b28c9dfe674d4f6ad612137e7824c9390e118b2087b82b5ee62cfc22af50d00a9d764b2e143ad1e6dde49abb889cf20
    ++ List.replicate 2784 0
def fuses1 : Fuses := { fuses0 with pkhash := pubH, imgkey := 0x11 }
/-- What is kept of it. -/
def hdr1 : ImgHdr := ⟨5, 3, 3, [⟨1, 0, 1, 4, dig1⟩, ⟨2, 1, 1, 4, dig1⟩, ⟨3, 2, 1, 4, dig1⟩], 0x22⟩
def boot1 (ph : Nat) (f : Fuses) : State := { State.resetOf tiny with boot := { bootReset with phase := ph, fuses := some f, hdr := some hdr1 } }
theorem test_image_header :
    headerReason (boot1 3 fuses1) fuses1 (hdrI dig1) = 0 ∧ parseImgHdr (boot1 3 fuses1) (hdrI dig1) = hdr1 := by
  decide +kernel
theorem test_image_header_fails :
    headerReason (boot1 3 fuses1) { fuses1 with pkhash := 1 } (hdrI 7) = 4
    ∧ nextIs (exec (.imageHeader (some []) false) (boot1 3 fuses1)) (fun u => u.boot.retry && u.boot.phase == 3)
    ∧ secsOk 0 none hdr1.secs = some 3 := by
  decide +kernel

/-- A frame of section `type`, sealed under the content key 0x22 of image 5. -/
def plain0 : List Byte := List.replicate 4 1 ++ List.replicate 4092 0
def imgHdr (fidx type : Nat) : List Byte := natLe 4 fidx ++ natLe 1 type ++ natLe 1 0 ++ natLe 2 4 ++ natLe 4 (crc32c (plain0.take 4)).toNat ++ natLe 4 0
def imgFrame (fidx type : Nat) : List Byte :=
  let c := gcmSeal (roundKeys (keyBytes 0x22)) (5 * 2 ^ 32 + fidx) (imgHdr fidx type) plain0
  imgHdr fidx type ++ c.1 ++ c.2
/-- A frame sealed under the content key opens. -/
theorem image_opens (x : ImgHdr) (h p : List Byte) (hh : h.length = 16) (hp : p.length = 4096)
    (hk : ∀ k ∈ roundKeys (keyBytes x.ckey), k.length = 16) (hn : roundKeys (keyBytes x.ckey) ≠ [])
    (hf : crc32c (p.take (leNat ((h.drop 6).take 2))) = BitVec.ofNat 32 (leNat ((h.drop 8).take 4))) (c : List Byte × List Byte)
    (e : c = gcmSeal (roundKeys (keyBytes x.ckey)) (x.imgid.toNat * 2 ^ 32 + leNat (h.take 4)) h p) :
    openImgFrame x (h ++ c.1 ++ c.2) = some p := by
  have hc : c.1.length = 4096 := by rw [e, ← hp]; exact gcmCrypt_length _ _ _ hk hn
  have ht : c.2.length = 16 := by
    rw [e]; simp [gcmSeal, gcmTag, xorBytes_length, natBe, natLe_length, aesEnc_length _ _ hk hn (ctrBlock_length _ _)]
  have hg := gcmOpen_gcmSeal (roundKeys (keyBytes x.ckey)) (x.imgid.toNat * 2 ^ 32 + leNat (h.take 4)) h p hk hn
  rw [← e] at hg
  have h1 : (h ++ c.1 ++ c.2).take 16 = h := by rw [List.append_assoc]; exact List.take_left' hh
  have h2 : (h ++ c.1 ++ c.2).drop 16 = c.1 ++ c.2 := by rw [List.append_assoc]; exact List.drop_left' hh
  have h3 : (h ++ c.1 ++ c.2).length = 4128 := by simp [hh, hc, ht]
  have h4 (k n : Nat) (hkn : k + n ≤ 16) : ((h ++ c.1 ++ c.2).drop k).take n = (h.drop k).take n := by
    rw [List.append_assoc, List.drop_append_of_le_length (by omega), List.take_append_of_le_length (by simp [hh]; omega)]
  have h5 : (h ++ c.1 ++ c.2).drop 4112 = c.2 := List.drop_left' (by simp [hh, hc])
  have h6 : (h ++ c.1 ++ c.2).take 4 = h.take 4 := h4 0 4 (by omega)
  unfold openImgFrame
  simp only [h1, h2, h3, h4 6 2 (by omega), h4 8 4 (by omega), h5, h6, List.take_left' hc, hg, hf, beq_self_eq_true, Bool.and_self, if_true]
theorem imgFrame_opens (fidx type : Nat)
    (hf : crc32c (plain0.take (leNat (((imgHdr fidx type).drop 6).take 2))) = BitVec.ofNat 32 (leNat (((imgHdr fidx type).drop 8).take 4)))
    (hx : leNat ((imgHdr fidx type).take 4) = fidx) :
    openImgFrame hdr1 (imgFrame fidx type) = some plain0
    ∧ (∀ k n, k + n ≤ 16 → ((imgFrame fidx type).drop k).take n = ((imgHdr fidx type).drop k).take n) := by
  have hh : (imgHdr fidx type).length = 16 := by simp [imgHdr, natLe_length]
  refine ⟨image_opens hdr1 (imgHdr fidx type) plain0 hh (by decide +kernel) (fun k hk => by simpa using List.all_eq_true.1 keys22.1 k hk)
    (fun h => by have := keys22.2; rw [show roundKeys (keyBytes 0x22) = [] from h] at this; exact absurd this (by decide)) hf _ ?_, ?_⟩
  · rw [hx]; rfl
  · intro k n hkn
    simp only [imgFrame]
    rw [List.append_assoc, List.drop_append_of_le_length (by omega), List.take_append_of_le_length (by simp [hh]; omega)]
/-- Why a frame that opens is accepted or not, by its 16 header bytes. -/
theorem frameReason_opened (h : ImgHdr) (x : ImgSec) (k : Nat) (b p hd : List Byte) (ho : openImgFrame h b = some p)
    (hb : ∀ k n, k + n ≤ 16 → (b.drop k).take n = (hd.drop k).take n) :
    frameReason h x k b = (if leNat ((hd.drop 0).take 4) != k || leNat ((hd.drop 4).take 1) != x.type || leNat ((hd.drop 6).take 2) != frameLen x k
      || (p.drop (leNat ((hd.drop 6).take 2))).any (· != 0) || leNat ((hd.drop 5).take 1) != 0 || leNat ((hd.drop 12).take 4) != 0 then 8 else 0) := by
  unfold frameReason
  rw [ho]
  simp only [hb 0 4 (by omega), hb 4 1 (by omega), hb 6 2 (by omega), hb 5 1 (by omega), hb 12 4 (by omega)]
/-- Frame 2 in its place, and frame 1 there. -/
theorem test_image_frame :
    frameReason hdr1 ⟨3, 2, 1, 4, dig1⟩ 2 (imgFrame 2 3) = 0 ∧ frameReason hdr1 ⟨3, 2, 1, 4, dig1⟩ 2 (imgFrame 1 3) = 8 := by
  have h2 := imgFrame_opens 2 3 (by decide +kernel) (by decide +kernel)
  have h1 := imgFrame_opens 1 3 (by decide +kernel) (by decide +kernel)
  exact ⟨(frameReason_opened _ _ _ _ _ _ h2.1 h2.2).trans (by decide +kernel), (frameReason_opened _ _ _ _ _ _ h1.1 h1.2).trans (by decide +kernel)⟩
/-- IMAGE_FRAME of an accepted frame that another block reads again; one whose tag is bad, at its first and fourth read; FOLLOWER_TIMEOUT. -/
theorem test_image :
    (let s4 (k r : Nat) (a : Bool) : State := { boot1 4 fuses1 with boot := { (boot1 4 fuses1).boot with frame := k, reads := r, acc := a } }
     secOf hdr1 2 = some ⟨3, 2, 1, 4, dig1⟩ ∧ secOf hdr1 3 = none
     ∧ nextIs (exec (.imageFrame (rd [])) (s4 2 1 true)) (fun u => u.boot.phase == 5 && u.boot.frame == 3) = true
     ∧ nextIs (exec (.imageFrame (rd [])) (s4 1 1 true)) (fun u => u.boot.phase == 4 && u.boot.frame == 2) = true
     ∧ nextIs (exec (.imageFrame (rd [])) (s4 1 0 false)) (fun u => u.boot.phase == 4 && u.boot.frame == 1 && u.boot.retry) = true
     ∧ nextIs (exec (.imageFrame (rd [])) (s4 1 3 false)) (fun u => u.boot.err && u.boot.reason == 7 && u.boot.unit == 1) = true)
    ∧ nextIs (exec .followerTimeout { State.resetOf tiny with boot := { bootReset with phase := 4, fuses := some { fuses0 with leader := false } } })
        (fun u => u.boot.err && u.boot.reason == 10)
    ∧ stays .followerTimeout (boot0 4)
    ∧ stays (.imageHeader none false) { boot1 3 fuses1 with boot := { (boot1 3 fuses1).boot with fuses := some { fuses1 with leader := false } } } := by
  decide +kernel

/-- A parameter block with ENGID 9, CETHR 4 and port 1 cabled. -/
def parB : List Byte :=
  natLe 4 0x4B524150 ++ natLe 1 0 ++ natLe 1 1 ++ natLe 2 0 ++ natLe 2 9 ++ List.replicate 14 0 ++ natLe 1 4 ++ natLe 1 0 ++ natLe 2 2 ++ natLe 2 0
    ++ List.replicate 738 0
def parD : BitVec 384 := sha384 parB
def meas0 (dig : BitVec 384) : State :=
  { boot0 5 with boot := { bootReset with phase := 5, fuses := some fuses0, secs := [(3, parB)], hdr := some { hdr1 with secs := [⟨3, 0, 1, 768, dig⟩] } } }
/-- MEASUREMENT: a digest that differs, and one that agrees; a parameter block that is bad; the firmware's time-out. -/
theorem test_measurement :
    paramBad parB = false ∧ (parseParams parB).engid.head? = some 9 ∧ parB.length = 768
    ∧ nextIs (exec .measurement (meas0 7)) (fun u => u.boot.err && u.boot.reason == 9)
    ∧ nextIs (exec .measurement (meas0 parD)) (fun u => u.boot.phase == 6 && u.boot.started && u.boot.uds && (getMeas u 3).value == parD && (getMeas u 1).value == 0)
    ∧ (let s := meas0 (sha384 [])
       nextIs (exec .measurement { s with boot := { s.boot with secs := [] } }) (fun u => u.boot.err && u.boot.reason == 11))
    ∧ (let s := boot1 6 fuses0
       nextIs (exec .firmwareStartTimeout { s with boot := { s.boot with started := true } }) (fun u => u.boot.err && u.boot.reason == 12 && u.boot.phase == 5 && u.mc.run == false)) = true
    ∧ stays .firmwareStartTimeout (boot0 5)
    ∧ certHas (some p384G) (0x30 :: ecBytes p384G ++ [1, 2]) = true ∧ certHas (some p384G) [1, 2] = false := by
  decide +kernel

/-- INVENTORY, REPAIR_APPLY, BRAID_TRAINING, TWIN_HANDSHAKE, HOST_LINK_UP and CFG_DONE, each in its phase. -/
def ph (n : Nat) (tw : Bool) : State :=
  { State.resetOf tiny with mc := { mcReset with run := true }, boot := { bootReset with
      phase := n, fuses := some fuses0, started := true, params := some { par0 with engid := [9], twincab := tw, brdcab := 2 } } }
/-- One stack, the module of port 1, an identity frame in slot 0, a bus that is stuck behind its fourth channel. -/
def obs1 : InvObs := ⟨[⟨true, 1, 2, 3, 4⟩], [⟨1, true, some 3⟩], [{ mod0 with upper := [2] }], [idBytes], ⟨true, true, [7]⟩⟩
/-- A half of a repair area: generation 5 and an entry that remaps row 5 of bank 31 of core 3, its CRC right or wrong. -/
def ent0 (bad : Bool) : List Byte :=
  let e := natLe 1 1 ++ natLe 1 3 ++ natLe 2 31 ++ natLe 4 5 ++ natLe 4 0
  e ++ natLe 4 ((crc32c e).toNat + if bad then 1 else 0)
def half0 (bad : Bool) : List Byte :=
  let h := natLe 4 0x50455052 ++ natLe 4 5 ++ List.replicate 20 0
  h ++ natLe 4 (crc32c h).toNat ++ ent0 bad ++ List.replicate 16 0xFF
theorem test_phases :
    nextIs (exec (.inventory obs1) (ph 6 false))
        (fun u => u.boot.phase == 7 && (getStk u 0).present && !(getStk u 0).failed && u.mc.i3c == 0x80000
          && u.mc.inv.map (fun e => (e.type, e.index, e.state)) == [(1, 0, 0), (2, 0, 1), (2, 1, 0), (3, 0, 0), (3, 1, 1)])
    ∧ nextIs (exec (.inventory { obs1 with stks := [], mods := [] }) (ph 6 false)) (fun u => (getStk u 0).failed && u.stk.out)
    ∧ activeHalf [] (half0 false) = ⟨[⟨1, 3, 31, 5, 0, true⟩], 5⟩
    ∧ nextIs (exec (.repairApply ⟨[], half0 false⟩ [⟨2, [0, 3], true⟩]) (ph 7 false))
        (fun u => u.boot.phase == 8 && smGet none (getCore u 3).remap (32 * 31) == some ⟨true, 5⟩ && (getCore u 2).sout)
    ∧ nextIs (exec (.repairApply ⟨half0 true, []⟩ []) (ph 7 false)) (fun u => u.flt.buf.map (fun r => r.code) == [FCode.repairTorn.code] && u.cores == [])
    ∧ cabled (ph 8 false) = [1]
    ∧ nextIs (exec (.braidTraining 1 (obs0 4 9)) (ph 8 false)) (fun u => u.boot.phase == 8 && (getPort u 1).st == 1 && u.boot.trained == [1])
    ∧ (let u := settleTrain (after (.braidTraining 1 (obs0 4 9)) (ph 8 false))
       u.boot.phase = 10 ∧ (getPort u 1).st = 2 ∧ (getPort u 1).width = 4)
    ∧ (let u := settleTrain (after (.braidTraining 1 (obs0 0 9)) (ph 8 true))
       u.boot.phase = 9 ∧ (getPort u 1).st = 0 ∧ (getPort u 1).reason = 1)
    ∧ nextIs (exec (.twinHandshake true 5 0 ⟨1, 6, 7, 8⟩) (ph 9 true)) (fun u => u.boot.phase == 10 && u.twin.linkup && u.twin.peer == some 5 && u.twin.st == 0
        && u.mc.inv.map (fun e => (e.state, e.body.take 11)) == [(0, [5, 0, 6, 0, 0, 0, 0, 0, 0, 0, 7])])
    ∧ nextIs (exec (.twinHandshake true 9 0 ⟨1, 6, 7, 8⟩) (ph 9 true)) (fun u => !u.twin.linkup && u.mc.inv == [⟨5, 0, 2, []⟩])
    ∧ nextIs (exec (.hostLinkUp false) (ph 10 false)) (fun u => u.boot.phase == 11 && !u.boot.l0)
    ∧ nextIs (exec .cfgDone { ph 11 false with flt := { fltReset with retained := [ce0 0] } }) (fun u => u.cfgDone && u.flt.buf == [] && (getMeas u 6).extcnt == 1)
    ∧ stays .cfgDone (ph 10 false) := by
  decide +kernel
/-- A lane repair of stack port 0; a twin of another major version; a repair entry that the relay writes to flash. -/
def lane0 : List Byte :=
  let e := natLe 1 3 ++ natLe 1 0 ++ natLe 2 7 ++ natLe 4 9 ++ natLe 4 0
  e ++ natLe 4 (crc32c e).toNat
theorem test_repairs :
    nextIs (exec (.repairApply ⟨[], (half0 false).take 32 ++ lane0 ++ List.replicate 16 0xFF⟩ []) (ph 7 false)) (fun u => (getStk u 0).lanes == [(7, 9)])
    ∧ nextIs (exec (.twinHandshake true 5 0 ⟨2, 6, 7, 8⟩) (ph 9 true)) (fun u => !u.twin.linkup && u.boot.phase == 10 && u.boot.phy.hl)
    ∧ (let w (k : Nat) : W64 := BitVec.ofNat 64 (leNat (((ent0 false).drop k).take 8))
       let s := { d0 with mc := { d0.mc with words := [(16, [0x20101, w 0, w 8])] }, boot := { bootReset with fuses := some fuses0, desc := some ⟨1, 0, 0x1000, [], 0⟩ } }
       nextIs (exec (.repairRelay 16 0x20101 (w 0) (w 8) ⟨⟨[], []⟩, true⟩) s) (fun u => (getMbx u 16).rx == [(0x101, 0x8000)]
         && (areaAt u 2).ents.map (fun e => e.val) == [5])) = true := by
  decide +kernel

theorem test_cfg_done_after_srst :
    (let s := ph 11 false
     nextIs (exec .cfgDone { s with boot := { s.boot with soft := true }, flt := { fltReset with retained := [ce0 0] } })
       (fun u => u.flt.buf.map (fun r => (r.code, r.retained)) == [(FCode.granuleCe.code, true)])) = true := by
  decide +kernel

/-- SPDM over MCTP from phase 6: the steps of a connection in order, one out of order, a session with a failed FINISH. -/
def spd (x : Spdm) : State := { ph 10 false with spdm := [(1, x)] }
theorem test_spdm :
    spdmUp (ph 7 false) .mctp = true ∧ spdmUp (ph 7 false) .doe = false ∧ spdmUp (ph 10 false) .doe = true
    ∧ nextIs (exec (.getVersion .mctp) (ph 10 false)) (fun u => u.posts == [.spdm .mctp 5 4 [0, 0, 0, 2, 0, 0x12, 0, 0x13]] && (getSpdm u .mctp).step == 1)
    ∧ nextIs (exec (.getCapabilities .mctp) (spd ⟨1, none, false, 0, 0⟩)) (fun u => (getSpdm u .mctp).step == 2)
    ∧ nextIs (exec (.negotiateAlgorithms .mctp true) (spd ⟨2, none, false, 0, 0⟩)) (fun u => (getSpdm u .mctp).step == 3)
    ∧ nextIs (exec (.getCapabilities .mctp) (ph 10 false)) (fun u => u.posts == [.spdm .mctp 5 0x7F [4, 0]])
    ∧ nextIs (exec (.negotiateAlgorithms .mctp false) (spd ⟨2, none, false, 0, 0⟩)) (fun u => u.posts == [.spdm .mctp 5 0x7F [1, 0]])
    ∧ nextIs (exec (.getCertificate .mctp 1) (spd ⟨3, none, false, 0, 0⟩)) (fun u => u.posts == [.spdm .mctp 5 0x7F [1, 0]])
    ∧ nextIs (exec (.getMeasurements .mctp 8) (spd ⟨3, none, false, 0, 0⟩)) (fun u => u.posts == [.spdm .mctp 5 0x7F [1, 0]])
    ∧ nextIs (exec (.challenge .mctp 7) (spd ⟨3, none, false, 0, 0⟩)) (fun u => u.free == 1 && u.posts.length == 1)
    ∧ nextIs (exec (.keyExchange .mctp 7) (spd ⟨3, none, false, 0, 0⟩)) (fun u => (getSpdm u .mctp).shake && (getSpdm u .mctp).sess.isSome)
    ∧ nextIs (exec (.keyExchange .mctp 7) (spd ⟨3, some (1, 2), false, 0, 0⟩)) (fun u => u.posts == [.spdm .mctp 5 0x7F [10, 0]])
    ∧ nextIs (exec (.getMeasurements .mctp 1) (spd ⟨3, none, false, 0, 0⟩)) (fun u => u.posts.length == 1 && getSpdm u .mctp == ⟨3, none, false, 0, 0⟩)
    ∧ nextIs (exec (.getMeasurements .mctp 0) (spd ⟨3, none, false, 0, 0⟩)) (fun u => match u.posts with | [.spdm .mctp 5 0x60 b] => b.take 6 == [16, 0, 0, 0, 0, 0] | _ => false)
    ∧ nextIs (exec (.finish .mctp true) (spd ⟨3, some (1, 2), true, 0, 0⟩)) (fun u => (getSpdm u .mctp).sess == some (1, 2) && !(getSpdm u .mctp).shake)
    ∧ nextIs (exec (.finish .mctp false) (spd ⟨3, some (1, 2), true, 0, 0⟩)) (fun u => (getSpdm u .mctp).sess == none && u.posts == [.spdm .mctp 6 0x7F [6, 0]])
    ∧ nextIs (exec (.heartbeat .mctp) (spd ⟨3, some (1, 2), false, 0, 0⟩)) (fun u => u.posts == [.spdm .mctp 6 0x68 [0, 0]])
    ∧ nextIs (exec (.keyUpdate .mctp true) (spd ⟨3, some (1, 2), false, 0, 0⟩)) (fun u => (getSpdm u .mctp).kReq == 1 && (getSpdm u .mctp).kRsp == 1)
    ∧ nextIs (exec (.endSession .mctp) (spd ⟨3, some (1, 2), false, 4, 5⟩)) (fun u => getSpdm u .mctp == ⟨3, none, false, 0, 0⟩) := by
  decide +kernel

/-! ### The whole block -/

/-- A step runs the front command; an empty queue idles; the invariant holds at reset and is not idle there. -/
theorem test_step :
    nextIs (step { d20 with pending := [.hqOvfKick .pf, .porst] }) (fun u => u.host.scanReq && u.pending == [.porst])
    ∧ nextIs (step d20) (fun u => u == d20)
    ∧ memoriesWf State.reset = true ∧ usesOrdered State.reset = true ∧ entsOrdered State.reset = true ∧ slotsWf State.reset = true
    ∧ memoriesWf d7 = true ∧ entsOrdered d7 = true ∧ usesOrdered d7 = true ∧ slotsWf d20 = true := by
  decide +kernel

/-! ### Worked examples and tables of the specification -/

/-- Table 18.5's GLB_BUILD of the full build; Table 18.7's PART_STAT of eight cores in a row with OEPOCH 1 and a LIVE key. -/
theorem test_registers_examples :
    glbBuild Config.build = 0x0000008883082840
    ∧ partStat (setPart State.reset 3 { emptyPart with cores := List.range 8, want := List.range 8, width := 8, keySt := .live, oepoch := 1 }) 3 = 0x84081 := by
  decide +kernel

/-- Table 7.10: counters and values reached or not. -/
theorem test_serial_comparison :
    reached 0x30 0x30 = true ∧ reached 0x2F 0x30 = false ∧ reached 5 0xFFFFFFF0 = true ∧ reached 0xFFFFFFF0 5 = false ∧ reached 0 0x90000000 = true := by
  decide +kernel

/-- The stochastic drain of chapter 03: 21.71875 lies three quarters of the way from 0x41AD to 0x41AE. -/
theorem test_stochastic_example :
    (drainRound 10 (.sr 0xA3C1) (.fin 695 32)).1 = 0x41AE ∧ (drainRound 10 (.sr 0xC000) (.fin 695 32)).1 = 0x41AD
    ∧ (drainRound 10 .rne (.fin 695 32)).1 = 0x41AE := by
  decide +kernel

/-! ### Ill-formed commands -/

/-- A stream instruction of a core, a cycle or an engine that is none; operands outside their fields. -/
theorem test_ill_formed_stream :
    ([.endloop ⟨64, .move, 0, 0, false⟩, .endloop ⟨0, .move, 4128, 0, false⟩, .segend (iss .move 0), .halt (iss .load 0) 1,
      .set (iss .control 0) (.s 16) (.imm32 0) false, .set (iss .control 0) (.an 8) (.imm32 0) false, .set (iss .control 0) (.l 8) (.imm32 0) false,
      .set (iss .control 0) (.sd 4) (.imm32 0) false, .add (iss .move 0) (.a 16) (.imm32 0), .sub (iss .move 0) (.d 0 4) (.imm32 0),
      .sub (iss .move 0) (.d 16 0) (.imm32 0), .sub (iss .move 0) (.p 4) (.imm32 0), .add (iss .move 0) (.a 0) (.reg (.a 16)),
      .loop (iss .move 0) (.p 4) 0, .waitsc (iss .move 0) none ⟨64, 0, 0⟩, .signalsc (iss .move 0) none ⟨64, 0⟩,
      .signalsc (iss .move 0) (some 64) ⟨0, 0⟩, .realign (iss .move 0) 4, .launch (iss .control 0) .control 0 0 0 [none, none, none, none] none,
      .launch (iss .control 0) .move 65536 0 0 [none, none, none, none] none, .launch (iss .control 0) .move 0 4096 0 [none, none, none, none] none,
      .launch (iss .control 0) .move 0 0 4096 [none, none, none, none] none, .launch (iss .control 0) .move 0 0 0 [] none,
      .launch (iss .control 0) .move 0 0 0 [some 16, none, none, none] none,
      .launch (iss .control 0) .move 0 0 0 [none, none, none, none] (some ⟨0, 65536⟩), .cmp (iss .control 0) 4 0 0 (.imm 0),
      .cmp (iss .control 0) 0 8 0 (.imm 0), .cmp (iss .control 0) 0 0 16 (.imm 0), .cmp (iss .control 0) 0 0 0 (.s 16),
      .cmp (iss .control 0) 0 0 0 (.sc 64), .skipif (iss .control 0) true 4 false, .mbxsend (iss .control 0) 32 0 0,
      .mbxsend (iss .control 0) 0 16 0, .beatread (iss .control 0) 16 0, .beatread (iss .control 0) 0 16] : List Instr).all (fun c => !c.wf) = true := by
  decide +kernel
theorem test_ill_formed_engines :
    ([.lds (iss .store 0) ⟨1, 2, 0, 5, 32⟩, .lds (iss .load 0) ⟨16, 2, 0, 5, 32⟩, .ldh (iss .load 0) ⟨1, 16, 0, 5, 32⟩, .ldw (iss .load 0) ⟨1, 2, 4, 5, 32⟩,
      .ldw (iss .load 0) ⟨1, 2, 0, 64, 32⟩, .ldw (iss .load 0) ⟨1, 2, 0, 0, 2 ^ 32⟩, .sts (iss .store 0) ⟨false, 16, 0, 0, 0, 0⟩,
      .sth (iss .store 0) ⟨false, 0, 0, 0, 8, 0⟩, .digestOpen (iss .store 0) 16 0 0, .digestOpen (iss .store 0) 0 4 0, .digestClose (iss .store 0) 0 8,
      .mvm (iss .move 0) 16 0 1 noExt, .mvm (iss .move 0) 0 0 65536 noExt, .mvb (iss .move 0) 0 16 1 noExt, .fillc (iss .move 0) 0 0 0,
      .fillc (iss .move 0) 0 65537 0, .copyr (iss .move 0) 0 0 0 noExt, .copyr (iss .move 0) 0 16 1 noExt, .mvm (iss .move 0) 0 0 1 ⟨some ⟨64, 0, 0⟩, none, none⟩,
      .mvm (iss .move 0) 0 0 1 ⟨none, some ⟨64, 0⟩, none⟩, .hold (iss .matrix 0) { hold0 with units := 33 } noExt,
      .hold (iss .matrix 0) { hold0 with k := 0 } noExt, .hold (iss .matrix 0) { hold0 with unit := 32 } noExt, .hold (iss .matrix 0) { hold0 with pitch := 65536 } noExt,
      .mma (iss .matrix 0) { mma0 .acc with m := 0 } noExt, .mma (iss .matrix 0) { mma0 .acc with n := 4097 } noExt,
      .mma (iss .matrix 0) { mma0 .acc with k := 65537 } noExt, .mma (iss .matrix 0) { mma0 .acc with anchor := 8 } noExt,
      .mma (iss .matrix 0) { mma0 .acc with ofmt := 16 } noExt, .mma (iss .matrix 0) { mma0 .acc with seed := 4 } noExt,
      .drain (iss .matrix 0) { drain0 with e0 := 64 } noExt, .drain (iss .matrix 0) { drain0 with wafers := 0 } noExt,
      .drain (iss .matrix 0) { drain0 with pIdx := 4 } noExt, .drain (iss .matrix 0) { drain0 with opitch := 65536 } noExt,
      .spill (iss .matrix 0) { spill0 with e1 := 64 } noExt, .reload (iss .matrix 0) { spill0 with wafer := 32 } noExt,
      .accumulate (iss .matrix 0) { spill0 with aBase := 16 } noExt, .ewm (iss .matrix 0) ⟨true, 1, 1, 1, 1, 64, 10, 10, 0, 1⟩ noExt,
      .ewm (iss .matrix 0) ⟨true, 1, 1, 1, 1, 63, 16, 10, 0, 1⟩ noExt, .ewm (iss .matrix 0) ⟨true, 1, 1, 1, 1, 63, 10, 10, 0, 65⟩ noExt,
      .meringue (iss .matrix 0) ⟨8, 1, 1, 0, false⟩, .meringue (iss .matrix 0) ⟨0, 1, 4033, 0, false⟩, .meringue (iss .matrix 0) ⟨0, 1, 1, 16, false⟩,
      .mvx (iss .strudel 0) ⟨true, false, 2, 1, 3, 3, 0, 1, 1, 0, 0, 5, 1⟩ noExt, .mvx (iss .strudel 0) ⟨true, false, 2, 1, 3, 3, 1, 2049, 1, 0, 0, 5, 1⟩ noExt,
      .mvx (iss .strudel 0) ⟨true, false, 2, 1, 3, 3, 1, 1, 9, 0, 0, 5, 1⟩ noExt, .sdrain (iss .strudel 0) ⟨false, false, false, 4, 5, 0, 64, 12, 0, false, 0, 0, 1, 1⟩ noExt,
      .vadd (iss .glaze 0) { gz0 1 2 3 with n := 0 } noExt, .vdeq (iss .glaze 0) { gz0 1 2 3 with n := 2 ^ 24 + 1 } noExt, .vmul (iss .move 0) (gz0 1 2 3) noExt,
      .vfma (iss .glaze 0) (gz0 16 2 3) noExt, .vsumxAdd (iss .glaze 0) { vs0 true 1 with ws := 8 } noExt, .vquant (iss .glaze 0) { vq0 with p := 4 } noExt,
      .xop (iss .glaze 0) ⟨4, 2, 8, 3, 1, []⟩ noExt, .xop (iss .glaze 0) ⟨4, 2, 1, 4096, 1, []⟩ noExt, .xop (iss .glaze 0) ⟨4, 2, 1, 3, 1, [some [1]]⟩ noExt]
      : List Instr).all (fun c => !c.wf) = true := by
  decide +kernel
theorem test_ill_formed_rest :
    ([.signal 65536 (hdr0 0), .run 65536 (hdr0 0) run0 ⟨args0, .abort⟩ bp0 .abort, .run 0 (hdr0 0) run0 ⟨args0, .abort⟩ bp0 (.ok (List.replicate 513 0)),
      .copy 65536 (hdr0 0) ⟨0, 1, 0, 0, 0, .abort⟩, .wait 0 (hdr0 0) 0 0 (some { evt0 with owner := 65536 }), .loadSlot 0 (hdr0 0) ⟨0, 256, 0, 0, 0⟩,
      .mapRegion 0 (hdr0 0) ⟨1, 0, 256, 0, 0, 0⟩, .mapRegion 0 (hdr0 0) ⟨1, 0, 0, 256, 0, 0⟩, .ctxCreate (.vf 0) 0 ⟨⟨0, false, 0, false⟩, true⟩, .ctxCreate .pf 0 ⟨⟨16, false, 0, false⟩, true⟩,
      .ctxCreate .pf 0 ⟨⟨0, false, 8, false⟩, true⟩, .ctxReset (.vf 17) ⟨0, []⟩, .ctxDestroy .pf ⟨0, [⟨65536, qr0, hdr0 0⟩]⟩, .qReset .pf ⟨65536, qr0, hdr0 0⟩ 0, .qStop .pf 65536, .evtFree .pf (2 ^ 20) evt0, .hqDb .pf 48 ⟨0, 0, 0xF⟩ 0,
      .ovfScan [65536] true [], .queueResidency 16 (.evict 0 0 ⟨3, qr0, hdr0 0⟩ []), .queueResidency 0 (.evict 48 0 ⟨3, qr0, hdr0 0⟩ []),
      .queueResidency 0 (.load 0 ⟨3, { qr0 with log2size := 16 }, hdr0 0⟩ evt0 []),
      .regWrite .pf (2 ^ 24) 0 (.dword 0xF), .mbxLockRead .pf 32, .mbxTake 32, .beatEdge .pin 4128, .pinFrame 0 [],
      .beatBlock 16 0 [] none, .beatBlock 0 0 [] none, .realignCheck 16 0, .realignCheck 0 4, .segmentStart ⟨16, []⟩, .segmentStart ⟨0, [(0, 8)]⟩, .functionLevelReset ⟨.vf 0, []⟩, .descriptorPop 0 .control 0,
      .descriptorPop 0 .move 4128, .landing 0 4128, .storeRead 0 4128, .stackBurst 0 256, .stackReadData 0 ⟨37, 0, 0⟩, .digestLeafDone 0 (List.replicate 4097 0),
      .ownerGrant 16, .coreMove 64, .bankPowerChange 0 32, .portBindEffect 16, .slotBindEffect 8, .dieSensorSample [256], .stackTempCheck (List.replicate 9 0),
      .brdCtlTrain .pf 16 (obs0 4 0) mod0, .laneLost 0 513 (obs0 4 0), .laneLost 0 0 { obs0 4 0 with lanes := [] },
      .braidFrame 16 0 ⟨true, []⟩, .cellLanding 0 1024, .agreementMessage ⟨65536, 0, 0⟩, .slotIsolate 8, .slotReadback 0 (List.replicate 4097 0),
      .bootRomStart { fuses0 with keysrc := 4 }, .inventory ⟨List.replicate 9 ⟨false, 0, 0, 0, 0⟩, [], [], [], ⟨false, false, []⟩⟩,
      .inventory ⟨[], [], [{ mod0 with port := 16 }], [], ⟨false, false, []⟩⟩, .repairApply ⟨[], []⟩ [⟨64, [], false⟩],
      .getCertificate .doe 8, .getMeasurements .doe 256] : List Instr).all (fun c => !c.wf) = true := by
  decide +kernel
theorem test_ill_formed_long :
    (Instr.bootDescriptor (rd []) (List.replicate 4097 0)).wf = false ∧ (Instr.repairApply ⟨List.replicate (2 ^ 20 + 1) 0, []⟩ []).wf = false
    ∧ (Instr.braidFrame 0 0 ⟨true, (List.replicate 8345 0)⟩).wf = false ∧ (Instr.imageFrame (rd (List.replicate 4129 0))).wf = false := by
  simp only [Instr.wf, UnitRead.wf, rd, Option.all_some, List.length_replicate]
  decide

/-! ### DVIS words (Tables 8.1 to 8.9) -/

/-- SET A3 ← 0x1000, then LDS from P3 at A2 to A1, counter 5, 4,096 bytes: words written out field by field. -/
theorem test_dvis_load_words :
    dvisProgram tiny 0 .load [] [0x010083F000001000, 0x200012C500001000]
      = some [.set ⟨0, .load, 0, 0, false⟩ (.a 3) (.imm32 0x1000) false, .lds ⟨0, .load, 0, 1, false⟩ ⟨1, 2, 3, 5, 4096⟩] := by
  decide +kernel
/-- HOLD and the MMA it binds to (64 × 128 × 64, B-held, CLEAR): the HOLD becomes one shadow load of the 128 channels of N for each
of the two chunks of the depth 64. -/
theorem test_dvis_hold_binds :
    (dvisProgram tiny 0 .matrix [] [0x5080120000000000, 0x1000400000000000, 0x5181340000000000, 0x10004003F07F003F]).map
      (fun cs => cs.map (fun c => match c with
        | .hold _ o _ => (o.aBase, o.aDesc, o.pitch, o.k, o.chans)
        | .mma _ o _ => (o.aBase, o.aDesc, o.m, o.n, o.k)
        | _ => (0, 0, 0, 0, 0)))
      = some [(1, 2, 4, 64, 128), (1, 2, 4, 64, 128), (3, 4, 64, 128, 64)] := by
  decide +kernel
/-- The control words: CMP with an immediate in ARG1, LAUNCH of Matrix block 7 with P0 from S5, SIGNALSC to core 2. -/
theorem test_dvis_control_words :
    dvisProgram tiny 0 .control [] [0x1180923000000000, 0x1000000000000009, 0x10806000E0000000, 0x1000000000010005, 0x070082040000000A]
      = some [.cmp ⟨0, .control, 0, 0, false⟩ 2 2 3 (.imm 9),
              .launch ⟨0, .control, 0, 1, false⟩ .matrix 7 0 0 [some 5, none, none, none] none,
              .signalsc ⟨0, .control, 0, 2, false⟩ (some 2) ⟨4, 10⟩] := by
  decide +kernel
/-- R188: a reserved opcode, an instruction outside its stream, a reserved bit, a missing ARG1, extension words out of order, a
placement field (R190), a zero length (R197) and a SKIPIF before SEGEND (R166) are refused. -/
theorem test_dvis_refusals :
    ([(.load, [0]), (.store, [0x200012C500001000]), (.control, [0x1300000000000001]), (.matrix, [0x5000120000000000]),
      (.matrix, [0x50A0120000000000, 0x6000000000000000, 0x1000400000000000]), (.control, [0x10806000E0000020, 0x1000000000010005]),
      (.load, [0x200012C500000000]), (.control, [0x1200000000000004, 0x1300000000000000])] : List (Strm × List W64)).all
        (fun x => (dvisProgram tiny 0 x.1 [] x.2).isNone) = true := by
  decide +kernel
/-- R220, R221: NCORES × 2 − 1 for 12 cores goes into the immediate of a SET; followed into an AN register it is refused. -/
theorem test_relocations :
    relocStream ⟨0, false, 0, 0, 0, 2, -1⟩ 12 [.set (iss .control 0) (.s 1) (.imm32 0) false]
        = some [.set (iss .control 0) (.s 1) (.imm32 23) false]
      ∧ followOk [0] [.set (iss .control 0) (.s 1) (.imm32 0) false, .add (iss .control 0) (.s 2) (.reg (.s 1))] = true
      ∧ followOk [0] [.set (iss .control 0) (.s 1) (.imm32 0) false, .set (iss .control 0) (.an 2) (.reg (.s 1)) false] = false := by
  decide +kernel

end Sys2Proof.Tests
end

/-!
PROOF of O16 (R38, R54 to R56): a term is aligned to the Anchor by a floor, clamped to the 96-bit window with one clamp counted, and added; each of the three is
a function of the term alone, so two terms commute and any order of them gives the same entry.
-/

namespace Sys2Proof.Proofs.Terms

open Sys2Proof.Machine

/-! ### Alignment to the Anchor (R54) -/

theorem floorShift_of_nonneg {n : Int} (hn : 0 ≤ n) (x : Int) : floorShift x n = x * 2 ^ n.toNat := by
  have hr : (-n).toNat = 0 := by omega
  simp [floorShift, hr]

theorem floorShift_of_neg {n : Int} (hn : n < 0) (x : Int) : floorShift x n = x / 2 ^ (-n).toNat := by
  have hl : n.toNat = 0 := by omega
  simp [floorShift, hl]

/-- A negative term of magnitude below 2^A is floored to −1, not truncated to 0. -/
theorem floorShift_eq_neg_one {x n : Int} (hn : n < 0) (hx : x < 0) (hsmall : -x < 2 ^ (-n).toNat) : floorShift x n = -1 := by
  rw [floorShift_of_neg hn]
  exact Int.ediv_eq_neg_one_of_neg_of_le hx hsmall.le

theorem floorShift_eq_zero {x n : Int} (hn : n < 0) (hx : 0 ≤ x) (hsmall : x < 2 ^ (-n).toNat) : floorShift x n = 0 := by
  rw [floorShift_of_neg hn]
  exact Int.ediv_eq_zero_of_lt hx hsmall

/-! ### Clamp and addition (R55, R56) -/

section
variable (anchor : Int) (s : Acc × Nat) (x : Term)

theorem addTerm_flags : (addTerm anchor s x).1.n = (s.1.n || x.n) ∧ (addTerm anchor s x).1.p = (s.1.p || x.p)
    ∧ (addTerm anchor s x).1.m = (s.1.m || x.m) := ⟨rfl, rfl, rfl⟩

/-- An aligned term in the window is its own clamp. -/
theorem addTerm_of_mem_window (hlo : winMin ≤ floorShift x.x (x.e - anchor)) (hhi : floorShift x.x (x.e - anchor) ≤ winMax) :
    (addTerm anchor s x).1.v = s.1.v + BitVec.ofInt 128 (floorShift x.x (x.e - anchor)) ∧ (addTerm anchor s x).2 = s.2 := by
  have hclamp : max winMin (min winMax (floorShift x.x (x.e - anchor))) = floorShift x.x (x.e - anchor) := by
    rw [min_eq_right hhi, max_eq_right hlo]
  simp [addTerm, hclamp]

theorem addTerm_of_winMax_lt (h : winMax < floorShift x.x (x.e - anchor)) :
    (addTerm anchor s x).1.v = s.1.v + BitVec.ofInt 128 winMax ∧ (addTerm anchor s x).2 = s.2 + 1 := by
  have hclamp : max winMin (min winMax (floorShift x.x (x.e - anchor))) = winMax := by
    rw [min_eq_left h.le, max_eq_right (by decide)]
  simp [addTerm, hclamp, h.ne]

theorem addTerm_of_lt_winMin (h : floorShift x.x (x.e - anchor) < winMin) :
    (addTerm anchor s x).1.v = s.1.v + BitVec.ofInt 128 winMin ∧ (addTerm anchor s x).2 = s.2 + 1 := by
  have hclamp : max winMin (min winMax (floorShift x.x (x.e - anchor))) = winMin :=
    max_eq_left ((min_le_right _ _).trans h.le)
  simp [addTerm, hclamp, h.ne']

end

/-! ### Any order of the terms (R38) -/

/-- Value, flags and clamp count each take a part of the term alone, by an addition or an OR. -/
theorem addTerm_right_comm (anchor : Int) (s : Acc × Nat) (x y : Term) :
    addTerm anchor (addTerm anchor s x) y = addTerm anchor (addTerm anchor s y) x := by
  simp only [addTerm, Prod.mk.injEq, Acc.mk.injEq]
  exact ⟨⟨add_right_comm .., Bool.or_right_comm .., Bool.or_right_comm .., Bool.or_right_comm ..⟩, Nat.add_right_comm ..⟩

theorem foldl_addTerm_perm (anchor : Int) (s : Acc × Nat) {ts us : List Term} (h : ts.Perm us) :
    ts.foldl (addTerm anchor) s = us.foldl (addTerm anchor) s :=
  have : RightCommutative (addTerm anchor) := ⟨addTerm_right_comm anchor⟩
  h.foldl_eq s

/-- Settles O16: the floor, the three places an aligned term can lie against the window, and the order of the terms. -/
theorem termsAreFlooredClampedAndCommute : Obligations.TermsAreFlooredClampedAndCommute := by
  unfold Obligations.TermsAreFlooredClampedAndCommute
  refine ⟨⟨fun x n => ?floor, fun anchor a k x => ?clamp⟩, fun anchor a k ts us h => foldl_addTerm_perm anchor (a, k) h⟩
  case floor =>
    exact ⟨fun hn => floorShift_of_nonneg hn x, fun hn => floorShift_of_neg hn x, floorShift_eq_neg_one, floorShift_eq_zero⟩
  case clamp =>
    obtain ⟨hn, hp, hm⟩ := addTerm_flags anchor (a, k) x
    exact ⟨hn, hp, hm, addTerm_of_mem_window anchor (a, k) x, addTerm_of_winMax_lt anchor (a, k) x,
      addTerm_of_lt_winMin anchor (a, k) x⟩

end Sys2Proof.Proofs.Terms

/-!
PROOFS of O2 and of the negation of O1 (chapter 07, R164, R170 to R174, R195). Where an instruction issues (`issuePoint`), its outcome is its body's
state followed by the end of its block (`endOf`); so each instruction is one equation about its body, and what the issue and the end keep is said
once for all.
-/

namespace Sys2Proof.Proofs.Streams

open Sys2Proof.Machine

/-! ### Where an instruction without a landing condition issues -/

section
variable {i : Iss} {z s : State} {t : Nat}

theorem issuePoint_none_iff :
    issuePoint i none z = some (t, s) ↔ opensAt i (settleHeld z) = true ∧ issueCycle (settleHeld z) i = t ∧ settleHeld z = s := by
  simp [issuePoint, issueHere]

theorem notLate_of_issuePoint (h : issuePoint i none z = some (t, s)) : late s i.strm t = false := by
  obtain ⟨ho, rfl, rfl⟩ := issuePoint_none_iff.1 h
  simp only [opensAt, Bool.and_eq_true, Bool.not_eq_true', Bool.or_eq_false_iff] at ho
  obtain ⟨⟨_, hlate, _⟩, _⟩ := ho
  exact hlate

theorem notSkipping_of_issuePoint (h : issuePoint i none z = some (t, s)) : (getStrm s i.core i.strm).skip = 0 := by
  obtain ⟨ho, rfl, rfl⟩ := issuePoint_none_iff.1 h
  simp only [opensAt, Bool.and_eq_true, decide_eq_true_eq] at ho
  obtain ⟨⟨⟨⟨_, hskip⟩, _⟩, _⟩, _⟩ := ho
  exact hskip

/-- An instruction whose body is done in the cycle of its issue goes on to the end of that body. -/
theorem issueGen_done {self : Instr} {fin : Bool} {skip : State → State} {body : Nat → State → Res} {s1 : State}
    (h : issuePoint i none z = some (t, s)) (hb : body t (issued i t s) = .ok s1 t) :
    issueGen i self none fin skip body (settleHeld z) = .next (completedAs (endsSharp self) i s fin s1 t) := by
  rw [issueGen_point _ _ _ _ _ _ _ _ _ h, runBody_ok _ _ _ _ _ _ _ _ hb (notLate_of_issuePoint h)]

end

/-! ### What the issue and the end of an instruction keep -/

/-- Nothing but the stream of the instruction, the registers and counters of its core, the Segments and the fault unit differs. -/
def keptBeside (i : Iss) (s t : State) : Prop := otherStreams i s t ∧ arraysKept i s t ∧ sameOutside s t

theorem keptBeside_trans {i : Iss} {s t u : State} (h : keptBeside i s t) (k : keptBeside i t u) : keptBeside i s u := by
  obtain ⟨⟨hcore, hstrm⟩, ⟨hent, hws, hwaf, hdig, hf⟩, hout⟩ := h
  obtain ⟨⟨kcore, kstrm⟩, ⟨kent, kws, kwaf, kdig, kf⟩, kout⟩ := k
  exact ⟨⟨fun c hc => (kcore c hc).trans (hcore c hc), fun j hj => (kstrm j hj).trans (hstrm j hj)⟩,
    ⟨kent.trans hent, kws.trans hws, kwaf.trans hwaf, kdig.trans hdig, kf.trans hf⟩, sameOutside_trans hout kout⟩

section
variable {i : Iss} {s t : State}

theorem keptBeside_of_endOf (h : endOf i s t) : keptBeside i s t := by
  obtain ⟨hout, hcore, sc, strm, hc, hstrm, _⟩ := h
  exact ⟨⟨hcore, hstrm⟩, by simp [arraysKept, hc], hout⟩

theorem regVal_of_endOf (h : endOf i s t) (r : Reg) : regVal t i r = regVal s i r := by
  obtain ⟨_, _, sc, strm, hc, _, b, e, hk⟩ := h
  cases r <;> simp [regVal, hc, hk]

theorem keptBeside_setStrm (v : StrmSt) : keptBeside i s (setStrm s i.core i.strm v) := by
  refine ⟨⟨fun c hc => ?_, fun k hk => ?_⟩, ?_, sameOutside_modCore _ _ _⟩
  · simp [setStrm, getCore_modCore, hc]
  · simp [getStrm_setStrm, hk]
  · simp [arraysKept, setStrm, getCore_modCore]

theorem getStrm_setStrm_same (v : StrmSt) : getStrm (setStrm s i.core i.strm v) i.core i.strm = v := by
  simp [getStrm_setStrm]

/-- A stream that keeps its A, D and P registers leaves every register as it was. -/
theorem regVal_setStrm {v : StrmSt} (ha : v.a = (getStrm s i.core i.strm).a) (hd : v.d = (getStrm s i.core i.strm).d)
    (hp : v.p = (getStrm s i.core i.strm).p) (r : Reg) : regVal (setStrm s i.core i.strm v) i r = regVal s i r := by
  cases r with
  | s n | l n | sd n | an n => simp [regVal, setStrm, getCore_modCore]
  | a n | d n lvl | p n => simp [regVal, getStrm_setStrm_same, ha, hd, hp]

end

section
variable (i : Iss) (t : Nat) (s : State)

/-- The issue of an instruction writes the cycle of the last issue of its stream, and the model's latest cycle. -/
theorem getStrm_issued : getStrm (issued i t s) i.core i.strm = { getStrm s i.core i.strm with lastIss := t } :=
  getStrm_setStrm_same _

theorem regVal_touch (r : Reg) : regVal (touch s t) i r = regVal s i r := by
  cases r <;> rfl

theorem regVal_issued (r : Reg) : regVal (issued i t s) i r = regVal s i r := by
  rw [issued_eq, regVal_touch, modStrm]
  apply regVal_setStrm <;> rfl

theorem keptBeside_issued : keptBeside i s (issued i t s) := by
  obtain ⟨hother, harr, hout⟩ := keptBeside_setStrm (i := i) (s := s) { getStrm s i.core i.strm with lastIss := t }
  exact ⟨hother, harr, sameOutside_trans hout (sameOutside_touch _ t)⟩

end

/-! ### LOOP and ENDLOOP (R170 to R174) -/

/-- Where every key below `m` is changed once, by a function of its own value, each is changed by itself alone. -/
theorem smGet_foldl_range {α : Type} [DecidableEq α] (d : α) (f : Nat → α → α) (a : SMap α) (m n : Nat) :
    smGet d ((List.range m).foldl (fun a n => smSet d a n (f n (smGet d a n))) a) n
      = if n < m then f n (smGet d a n) else smGet d a n := by
  induction m with
  | zero => simp
  | succ m ih =>
    rw [List.range_succ, List.foldl_append, List.foldl_cons, List.foldl_nil, smGet_smSet]
    by_cases hn : n = m
    · subst hn
      simp [ih]
    · have hlt : n < m + 1 ↔ n < m := by omega
      simp [hn, ih, hlt]

theorem smGet_addStrides (st : StrmSt) (l : Nat) {n : Nat} (hn : n < 16) :
    smGet 0 (addStrides st l).a n = smGet 0 st.a n + (smGet 0 st.d (4 * n + l)).signExtend 48 := by
  have hfold := smGet_foldl_range 0 (fun n x => x + (smGet 0 st.d (4 * n + l)).signExtend 48) st.a 16 n
  rw [if_pos hn] at hfold
  rw [addStrides]
  exact hfold

section
variable {i : Iss} {s u : State} {t : Nat} {v : StrmSt}

theorem keptBeside_of_endOf_setStrm (h : endOf i (setStrm (issued i t s) i.core i.strm v) u) : keptBeside i s u :=
  keptBeside_trans (keptBeside_issued i t s) (keptBeside_trans (keptBeside_setStrm v) (keptBeside_of_endOf h))

theorem getStrm_of_endOf_setStrm (h : endOf i (setStrm s i.core i.strm v) u) :
    ∃ b e, getStrm u i.core i.strm = { v with blk := b, prevEnd := e } := by
  obtain ⟨_, _, _, _, _, _, b, e, hk⟩ := h
  exact ⟨b, e, by rw [hk, getStrm_setStrm_same]⟩

theorem regsKept_of_endOf_setStrm (h : endOf i (setStrm (issued i t s) i.core i.strm v) u)
    (ha : v.a = (getStrm s i.core i.strm).a) (hd : v.d = (getStrm s i.core i.strm).d) (hp : v.p = (getStrm s i.core i.strm).p) :
    regsKept i s u [] := by
  intro r _ _
  rw [regVal_of_endOf h, regVal_setStrm (by rw [ha, getStrm_issued]) (by rw [hd, getStrm_issued]) (by rw [hp, getStrm_issued]),
    regVal_issued]

end

section
variable {i : Iss} {z s : State} {t : Nat}

/-- An instruction whose body writes its stream alone: what follows is the end of its block. -/
theorem issueGen_setStrm {self : Instr} {fin : Bool} {skip : State → State} {body : Nat → State → Res} {v : StrmSt}
    (h : issuePoint i none z = some (t, s)) (hb : body t (issued i t s) = .ok (setStrm (issued i t s) i.core i.strm v) t) :
    ∃ u, issueGen i self none fin skip body (settleHeld z) = .next u
      ∧ endOf i (setStrm (issued i t s) i.core i.strm v) u := by
  refine ⟨_, issueGen_done h hb, endOf_completedAs _ i s fin _ t ?_⟩
  have hclaims : (setStrm (issued i t s) i.core i.strm v).claims = s.claims := rfl
  rw [hclaims]

/-- The stream after a LOOP of count `n` that is taken (R170, R171): it skips, or a loop opens above the others. -/
def loopTaken (st : StrmSt) (n : Nat) : StrmSt :=
  if n = 0 then { st with skip := 1 } else { st with loops := st.loops ++ [⟨n, 0⟩] }

theorem loopTaken_regs (st : StrmSt) (n : Nat) :
    (loopTaken st n).a = st.a ∧ (loopTaken st n).d = st.d ∧ (loopTaken st n).p = st.p := by
  unfold loopTaken
  split <;> exact ⟨rfl, rfl, rfl⟩

theorem exec_loop {cnt : Reg} {reserve : W32} (h : issuePoint i none z = some (t, s)) (hreg : loopReg i.strm cnt = true)
    (hdepth : (getStrm s i.core i.strm).loops.length < 4) (hres : isTimed i.strm = true → regVal s i cnt ≤ reserve.toNat) :
    ∃ u, exec (.loop i cnt reserve) z = .next u ∧ endOf i (setStrm (issued i t s) i.core i.strm
      { loopTaken (getStrm s i.core i.strm) (regVal s i cnt) with lastIss := t }) u := by
  have hover : ¬ 4 ≤ (getStrm s i.core i.strm).loops.length := by omega
  have hrange : (isTimed i.strm && decide (regVal s i cnt > reserve.toNat)) = false := by
    cases htimed : isTimed i.strm
    · rfl
    · simpa using hres htimed
  rw [show exec (.loop i cnt reserve) z = goLoop i cnt reserve (settleHeld z) from rfl, goLoop]
  refine issueGen_setStrm h ?_
  by_cases hn : regVal s i cnt = 0
  · simp [loopTaken, hreg, getStrm_issued, regVal_issued, hover, hn]
  · simp [loopTaken, hreg, getStrm_issued, regVal_issued, hover, hrange, hn]

/-- The stream after an ENDLOOP of the innermost loop `l` (R172, R174): the strides are added and an iteration counts, or the loop closes. -/
def loopEnded (st : StrmSt) (l : Loop) : StrmSt :=
  if l.done + 1 < l.count then
    { addStrides st (st.loops.length - 1) with loops := st.loops.dropLast ++ [⟨l.count, l.done + 1⟩] }
  else { st with loops := st.loops.dropLast }

theorem loopEnded_d (st : StrmSt) (l : Loop) : (loopEnded st l).d = st.d := by
  unfold loopEnded
  split <;> rfl

theorem loopEnded_p (st : StrmSt) (l : Loop) : (loopEnded st l).p = st.p := by
  unfold loopEnded
  split <;> rfl

theorem exec_endloop {l : Loop} (h : issuePoint i none z = some (t, s)) (hl : (getStrm s i.core i.strm).loops.getLast? = some l) :
    ∃ u, exec (.endloop i) z = .next u ∧ endOf i (setStrm (issued i t s) i.core i.strm
      { loopEnded (getStrm s i.core i.strm) l with lastIss := t }) u := by
  rw [show exec (.endloop i) z = goEndloop i (settleHeld z) from rfl, goEndloop]
  refine issueGen_setStrm h ?_
  by_cases hlt : l.done + 1 < l.count
  · simp [loopEnded, addStrides, getStrm_issued, hl, hlt]
  · simp [loopEnded, getStrm_issued, hl, hlt]

/-- Inside a loop with a count of zero an ENDLOOP un-nests and does nothing else (R170), but for the end of its block at a mark (log 21). -/
theorem exec_endloop_skipping (hpoint : i.at_ ≤ 4127) (hmay : mayIssue (settleHeld z) i = true)
    (hfree : blocked (settleHeld z) i.core i.strm = false) (hue : codeUe (settleHeld z) i = false)
    (hquiet : quietAt (settleHeld z) i.core (issueCycle (settleHeld z) i) = true)
    (hskip : (getStrm (settleHeld z) i.core i.strm).skip ≠ 0) :
    ∃ u, exec (.endloop i) z = .next u
      ∧ endOf i (modStrm (settleHeld z) i.core i.strm (fun x => { x with skip := x.skip - 1 })) u := by
  have hat : ¬ i.at_ > 4127 := by omega
  rw [show exec (.endloop i) z = goEndloop i (settleHeld z) from rfl, goEndloop, issueGen]
  simp only [hat, if_false, settleCore_quiet _ _ _ hquiet, hmay, hfree, hue, Bool.not_true, Bool.false_eq_true,
    Nat.pos_of_ne_zero hskip, if_true]
  refine ⟨_, rfl, ?_⟩
  split
  · exact endOf_finishInstr i _ _ _ _
  · exact endOf_refl i _

end

/-- Settles O2: LOOP and ENDLOOP write their stream (`loopTaken`, `loopEnded`, the skip count) and nothing beside it. -/
theorem loopsOpenIterateAndClose : Obligations.LoopsOpenIterateAndClose := by
  unfold Obligations.LoopsOpenIterateAndClose
  refine ⟨fun i cnt reserve z s t h hreg hdepth hres => ?loop, fun i z s t l h hl => ?endloop,
    fun i z s hs hpoint hmay hfree hue hquiet hskip => ?skipping⟩
  case loop =>
    obtain ⟨u, hu, hend⟩ := exec_loop h hreg hdepth hres
    obtain ⟨b, e, hstrm⟩ := getStrm_of_endOf_setStrm hend
    obtain ⟨hother, harr, hout⟩ := keptBeside_of_endOf_setStrm hend
    obtain ⟨ha, hd, hp⟩ := loopTaken_regs (getStrm s i.core i.strm) (regVal s i cnt)
    refine ⟨u, hu, fun hn => ?_, fun hn => ?_, regsKept_of_endOf_setStrm hend ha hd hp, hother, harr, hout⟩
    · simp [hstrm, loopTaken, hn]
    · simp [hstrm, loopTaken, hn, notSkipping_of_issuePoint h]
  case endloop =>
    obtain ⟨u, hu, hend⟩ := exec_endloop h hl
    obtain ⟨b, e, hstrm⟩ := getStrm_of_endOf_setStrm hend
    obtain ⟨hother, harr, hout⟩ := keptBeside_of_endOf_setStrm hend
    have hd := loopEnded_d (getStrm s i.core i.strm) l
    have hp := loopEnded_p (getStrm s i.core i.strm) l
    refine ⟨u, hu, fun hlt => ⟨?_, fun n hn => ?_⟩, fun hlt => ⟨?_, regsKept_of_endOf_setStrm hend ?_ hd hp⟩, ?_, ?_, hother, harr, hout⟩
    · simp [hstrm, loopEnded, hlt]
    · simpa [hstrm, loopEnded, hlt] using smGet_addStrides _ _ hn
    · simp [hstrm, loopEnded, hlt]
    · simp [loopEnded, hlt]
    · simp [hstrm, hd]
    · simp [hstrm, hp]
  case skipping =>
    subst hs
    obtain ⟨u, hu, hend⟩ := exec_endloop_skipping hpoint hmay hfree hue hquiet hskip
    obtain ⟨b, e, hstrm⟩ := getStrm_of_endOf_setStrm hend
    refine ⟨u, hu, by rw [hstrm], by rw [hstrm], fun r _ _ => ?_⟩
    rw [regVal_of_endOf hend]
    apply regVal_setStrm <;> rfl

/-! ### SET, ADD and SUB (R164, R195) -/

section
variable {i : Iss} {s u : State} {t : Nat}

theorem regVal_putReg_same (r : Reg) (v : Nat) : regVal (putReg s i t r v) i r = v % 2 ^ regWidth r := by
  cases r <;>
    simp [putReg, regVal, regWidth, modStrm, setStrm, getStrm, getCore_modCore]

theorem regsKept_putReg {r : Reg} (hr : regLegal i.strm r = true) (v : Nat) : regsKept i s (putReg s i t r v) [r] := by
  intro q hq hqr
  cases r <;> cases q <;>
    simp [putReg, regVal, regLegal, modStrm, setStrm, getStrm, getCore_modCore, smGet_smSet] at hr hq hqr ⊢
  all_goals rw [if_neg (by omega)]

theorem keptBeside_putReg (r : Reg) (v : Nat) : keptBeside i s (putReg s i t r v) := by
  cases r with
  | s n | l n | sd n | an n =>
    refine ⟨⟨fun c hc => ?_, fun k _ => ?_⟩, ?_, sameOutside_modCore _ _ _⟩
    · simp [putReg, getCore_modCore, hc]
    · simp [putReg, getStrm, getCore_modCore]
    · simp [arraysKept, putReg, getCore_modCore]
  | a n | d n lvl | p n => exact keptBeside_setStrm _

theorem claims_putReg (r : Reg) (v : Nat) : (putReg s i t r v).claims = s.claims := by
  cases r <;> rfl

theorem flt_putReg (r : Reg) (v : Nat) : (putReg s i t r v).flt = s.flt := by
  cases r <;> rfl

/-- Every record of the fault buffer has a location, or a number that has been given already (R396). -/
def numbered (s : State) : Prop := s.flt.buf.any (isFresh s.flt.next) = false

theorem flt_locate (hnum : numbered s) (l : Loc) (m : Nat) : (locate l s.flt.next m s).flt = s.flt := by
  rw [numbered] at hnum
  simp [locate, hnum]

theorem flt_finishInstr_unmarked (sharp : Bool) (done : Nat) : (finishInstr s i sharp false done).flt = s.flt := by
  unfold finishInstr
  split <;> rfl

/-- From s to u the instruction has written register r and nothing else of its core or the block, and raised nothing but what its mark may raise. -/
def wroteAlone (i : Iss) (s u : State) (r : Reg) : Prop :=
  regsKept i s u [r] ∧ otherStreams i s u ∧ arraysKept i s u ∧ sameOutside s u ∧ (i.fin = false → u.flt = s.flt)

end

section
variable {i : Iss} {z s : State} {t : Nat} {dst : Reg} {src : Src}

/-- An instruction whose body writes one register. -/
theorem issue_putReg {self : Instr} {body : Nat → State → Res} {v : Nat} (h : issuePoint i none z = some (t, s)) (hnum : numbered s)
    (hdst : regLegal i.strm dst = true) (hb : body t (issued i t s) = .ok (putReg (issued i t s) i t dst v) t) :
    ∃ u, issue i self none body (settleHeld z) = .next u ∧ regVal u i dst = v % 2 ^ regWidth dst ∧ wroteAlone i s u dst := by
  have hclaims : (putReg (issued i t s) i t dst v).claims = s.claims := (claims_putReg dst v).trans rfl
  have hflt : (putReg (issued i t s) i t dst v).flt = s.flt := (flt_putReg dst v).trans rfl
  have hend := endOf_completedAs (endsSharp self) i s i.fin (putReg (issued i t s) i t dst v) t (by rw [hclaims])
  obtain ⟨hother, harr, hout⟩ :=
    keptBeside_trans (keptBeside_issued i t s) (keptBeside_trans (keptBeside_putReg (t := t) dst v) (keptBeside_of_endOf hend))
  refine ⟨_, issueGen_done h hb, ?_, ?_, hother, harr, hout, fun hfin => ?_⟩
  · rw [regVal_of_endOf hend, regVal_putReg_same]
  · intro q hq hqr
    rw [regVal_of_endOf hend, regsKept_putReg hdst v q hq hqr, regVal_issued]
  · rw [completedAs, hfin, flt_finishInstr_unmarked, ← hflt, flt_locate (by rw [numbered, hflt]; exact hnum)]

theorem srcVal_issued : srcVal (issued i t s) i src = srcVal s i src := by
  cases src <;> simp [srcVal, regVal_issued]

/-- SET writes an SD register by halves (R195). -/
theorem setVal_mod_sd (n : Nat) (hi : Bool) (v : Nat) : setVal s i (.sd n) hi v % 2 ^ 64
    = if hi then regVal s i (.sd n) % 2 ^ 32 + v % 2 ^ 32 * 2 ^ 32 else regVal s i (.sd n) / 2 ^ 32 * 2 ^ 32 + v % 2 ^ 32 := by
  have hlt : regVal s i (.sd n) < 2 ^ 64 := (smGet 0 (getCore s i.core).sd n).isLt
  refine Nat.mod_eq_of_lt ?_
  simp only [setVal]
  split <;> omega

theorem setVal_of_ne_sd (hsd : ∀ n, dst ≠ .sd n) (hi : Bool) (v : Nat) : setVal s i dst hi v = v := by
  cases dst with
  | sd n => exact absurd rfl (hsd n)
  | s | l | an | a | d | p => rfl

/-- ADD and SUB compute modulo the width of the destination (R164). -/
theorem addVal_mod (sub : Bool) : ((addVal s i dst src sub % 2 ^ regWidth dst : Nat) : Int) = ((regVal s i dst : Int)
    + if sub then -signed (srcVal s i src).1 (srcVal s i src).2 else signed (srcVal s i src).1 (srcVal s i src).2) % 2 ^ regWidth dst := by
  have hpos : (0 : Int) < 2 ^ regWidth dst := by positivity
  simp [addVal, unsign, Int.emod_nonneg _ hpos.ne']

/-- The clause of O1 on SET, where the records of the buffer are numbered. -/
theorem exec_set_of_numbered {hi : Bool} (h : issuePoint i none z = some (t, s)) (hnum : numbered s) (hdst : regLegal i.strm dst = true)
    (hsrc : srcLegal i.strm true dst src = true) (hhi : hiBad dst hi = false) :
    ∃ u, exec (.set i dst src hi) z = .next u
      ∧ (∀ n, dst = .sd n → regVal u i dst
          = if hi then regVal s i dst % 2 ^ 32 + (srcVal s i src).2 % 2 ^ 32 * 2 ^ 32
            else regVal s i dst / 2 ^ 32 * 2 ^ 32 + (srcVal s i src).2 % 2 ^ 32)
      ∧ ((∀ n, dst ≠ .sd n) → regVal u i dst = (srcVal s i src).2 % 2 ^ regWidth dst)
      ∧ wroteAlone i s u dst := by
  have hval : setVal (issued i t s) i dst hi = setVal s i dst hi := by
    funext v
    cases dst <;> simp [setVal, regVal_issued]
  have hset : ∃ u, exec (.set i dst src hi) z = .next u
      ∧ regVal u i dst = setVal s i dst hi (srcVal s i src).2 % 2 ^ regWidth dst ∧ wroteAlone i s u dst := by
    rw [show exec (.set i dst src hi) z = goSet i dst src hi (settleHeld z) from rfl, goSet]
    refine issue_putReg h hnum hdst ?_
    simp [hdst, hsrc, hhi, srcVal_issued, hval]
  obtain ⟨u, hu, hreg, hwrote⟩ := hset
  refine ⟨u, hu, fun n hn => ?_, fun hsd => by rw [hreg, setVal_of_ne_sd hsd], hwrote⟩
  subst hn
  exact hreg.trans (setVal_mod_sd n hi _)

theorem issue_addBody {self : Instr} {sub : Bool} (h : issuePoint i none z = some (t, s)) (hnum : numbered s)
    (hdst : regLegal i.strm dst = true) (hsrc : srcLegal i.strm false dst src = true) (hsd : ∀ n, dst ≠ .sd n) :
    ∃ u, issue i self none (addBody i dst src sub) (settleHeld z) = .next u
      ∧ regVal u i dst = addVal s i dst src sub % 2 ^ regWidth dst ∧ wroteAlone i s u dst := by
  refine issue_putReg h hnum hdst ?_
  have hval : addVal (issued i t s) i dst src sub = addVal s i dst src sub := by
    simp [addVal, srcVal_issued, regVal_issued]
  cases dst with
  | sd n => exact absurd rfl (hsd n)
  | s | l | an | a | d | p => simp [addBody, hdst, hsrc, hval]

/-- The clause of O1 on ADD, where the records of the buffer are numbered. -/
theorem exec_add_of_numbered (h : issuePoint i none z = some (t, s)) (hnum : numbered s) (hdst : regLegal i.strm dst = true)
    (hsrc : srcLegal i.strm false dst src = true) (hsd : ∀ n, dst ≠ .sd n) :
    ∃ u, exec (.add i dst src) z = .next u
      ∧ (regVal u i dst : Int) = ((regVal s i dst : Int) + signed (srcVal s i src).1 (srcVal s i src).2) % 2 ^ regWidth dst
      ∧ wroteAlone i s u dst := by
  obtain ⟨u, hu, hreg, hwrote⟩ := issue_addBody (self := .add i dst src) (sub := false) h hnum hdst hsrc hsd
  exact ⟨u, hu, by simpa [hreg] using addVal_mod (s := s) (i := i) (dst := dst) (src := src) false, hwrote⟩

/-- The clause of O1 on SUB, where the records of the buffer are numbered. -/
theorem exec_sub_of_numbered (h : issuePoint i none z = some (t, s)) (hnum : numbered s) (hdst : regLegal i.strm dst = true)
    (hsrc : srcLegal i.strm false dst src = true) (hsd : ∀ n, dst ≠ .sd n) :
    ∃ u, exec (.sub i dst src) z = .next u
      ∧ (regVal u i dst : Int) = ((regVal s i dst : Int) - signed (srcVal s i src).1 (srcVal s i src).2) % 2 ^ regWidth dst
      ∧ wroteAlone i s u dst := by
  obtain ⟨u, hu, hreg, hwrote⟩ := issue_addBody (self := .sub i dst src) (sub := true) h hnum hdst hsrc hsd
  exact ⟨u, hu, by simpa [hreg, sub_eq_add_neg] using addVal_mod (s := s) (i := i) (dst := dst) (src := src) true, hwrote⟩

end

/-! ### Where SET changes the fault unit (R394, R396)

`locate` takes a record for one of the instruction's own when it has no location and its number is not below the count at the issue. O1 asks
for states in which an unlocated record already bears the number that the next record would take; there SET, which raises nothing, gives that record
its own location. No record enters with such a number, so the state is reached by no run from reset (short of 2^31 records entering past one that
stays); the theorems above hold where it is excluded. -/

/-- A record without a location, under the number 0 that is the next to be given. -/
def strayRec : FRec :=
  { code := 0, sev := 0, loc := false, retained := false, rep := 0, part := none, id := 0, seq := 0, context := 0, core := 0, strm := 0, dix := 0,
    progid := 0, loops := [0, 0, 0, 0], beat := 0, cycle := 0, pc := 0, dfmt := 0, detail := 0 }

/-- A Segment that runs since Beat 0 and declares nothing. -/
def bareSeg : Seg :=
  { q := 0, seq := 0, idx := 0, beat := 0, start := 0, ctx := 0, progid := 0, prec := 0, limit := 0, epoch := 0,
    decl := { boff := none, l := [], an := [], sc := [], groups := [], guards := [], mdens := 0, secs := [], tables := [] },
    objs := [], taint := false, linked := false, cnt := zeroCounts, later := [], ends := [], bulk := none, roots := [], abort := none, status := 0 }

/-- Partition 0 runs a Segment on core 0, and the fault buffer holds the stray record. -/
def strayState : State :=
  { State.reset with
    parts := [(0, { emptyPart with cores := [0], seg := some bareSeg })]
    cores := [(0, { emptyCore with holder := some 0 })]
    flt := { fltReset with buf := [strayRec] } }

/-- An instruction of core 0's control stream at cycle 5, with no mark. -/
def controlIss : Iss := ⟨0, .control, 5, 0, false⟩

/-- Which records of the fault buffer carry a location after a step. -/
def locatedAfter : Host.Outcome State Fault Refusal → List Bool
  | .next u => u.flt.buf.map FRec.loc
  | _ => []

theorem issuePoint_strayState : issuePoint controlIss none strayState = some (5, strayState) :=
  issuePoint_none_iff.2 ⟨by decide +kernel, rfl, rfl⟩

theorem exec_set_locates_strayRec : locatedAfter (exec (.set controlIss (.s 0) (.imm32 1) false) strayState) = [true] := by
  decide +kernel

/-- Refutes O1, at its clause that a SET without a mark leaves the fault unit as it was: in `strayState` it gives the stray record a location. -/
theorem not_setAddSubWriteTheirRegister : ¬ Obligations.SetAddSubWriteTheirRegister := by
  unfold Obligations.SetAddSubWriteTheirRegister
  rintro ⟨hset, _⟩
  obtain ⟨u, hu, _, _, _, _, _, hflt⟩ :=
    hset controlIss (.s 0) (.imm32 1) false strayState strayState 5 issuePoint_strayState rfl rfl rfl
  have hlocated := exec_set_locates_strayRec
  rw [hu, locatedAfter, hflt rfl] at hlocated
  exact absurd hlocated (by decide)

end Sys2Proof.Proofs.Streams
